-- ==== Sys2Proof/Word.lean ====
section
/-! DEFINITION. Words, bytes, codes and masks (R7, R8, R43). -/
namespace Sys2Proof

/-- A word is 32 bits (R7). -/
abbrev Word := BitVec 32
/-- A 64-bit value: a register pair, an address operand, a system register pair (R7, R45). -/
abbrev Dword := BitVec 64
abbrev Byte := BitVec 8
/-- An 8-bit D, A or B field: a register code or a resource index (R32, R43). -/
abbrev Code := BitVec 8
/-- One bit per lane of a group (R12, R13). -/
abbrev Mask := BitVec 64

end Sys2Proof
end

