-- ==== Sys2Proof/Config.lean ====
section
/-! DEFINITION. Sizes the manual fixes, and the free values: constants with no body, so that nothing can be
proved about which value they take. -/
namespace Sys2Proof.Config

/-- Lanes of a group (R18, R282). -/
def lanes : Nat := 64
/-- Group slots of a core (R283). -/
def slots : Nat := 32
/-- Cores of a die, the DCC included: index 16 is the DCC (R16, R17). -/
def cores : Nat := 17
/-- Pages of 64 KiB of one die's DRAM (R199). -/
def pages : Nat := 1966080
/-- Page number of the observation page (R444). -/
def obsPage : Nat := 2097151
/-- Proof-table entries of a die (R314). -/
def entries : Nat := 16384
/-- Record-store slots of a die (R18). -/
def records : Nat := 65536
/-- First value of a context's placement pointer (R482). -/
def placeBase : Nat := 0x2000000000

/-- Cycles beyond the first that pass in the step numbered by the argument (log 1). -/
opaque elapsed : Nat → Nat
/-- The result word of an instruction whose value the manual leaves open (log 12). -/
opaque freeWord : Nat → Word
/-- A truth value that the manual leaves open (log 12). -/
opaque freeBool : Nat → Bool
/-- Which of several things that the machine may do next comes first, in the step numbered by the argument (log 1). -/
opaque pick : Nat → Nat

/-- The size, in words less one and modulo 8, that the spatial-locality predictor chooses for a new L1 block from its entry
(R186 gives no policy; log 6). -/
opaque l1Size : Word → Nat
/-- What the predictor's entry becomes after an access that hit or missed (R186; log 6). -/
opaque l1Learn : Word → Bool → Word

/-- An element of an INT32 result one of whose products has no value (R2, R144), from the operands of its chain (log 12). -/
opaque illegalIndex : List Nat → Word

/-- The bank of a byte of a capacity frame, which a report on it names as INDEX (R429 gives no mapping; log 12). -/
opaque capacityBank : Nat → Nat → Nat

/-! Parts of a graph image's layout that R311 leaves open (log 28). -/

/-- How many node records a GRAPH section of these words holds. -/
opaque graphNodes : List Nat → Nat
/-- What a PLAN record of four words says: bytes, whether the tier is fast, the home die, and the stripe count
(0 or 1 for a region with a home). -/
opaque planRead : List Nat → Nat × Bool × Nat × Nat
/-- Which registration an OPER section holds next, of the words that are left: 0 OPREG, 1 TRAY.SET, else BELT.SET. -/
opaque operKind : List Nat → Nat
/-- The macro and entry index of a 64-bit MACRO record. -/
opaque macroPlace : Nat → Nat × Nat

/-- In which of the 16 bytes of an Ethernet completion entry the status stands, and a byte of the others (R281 gives no layout;
log 12). -/
opaque ethStatusAt : Nat
opaque ethByte : Nat → Byte
/-- Whether a UALink transaction type is a read, a write or an atomic that the device accepts (R274 gives no numbers; log 12). -/
opaque ualinkKnown : Nat → Bool
/-- The buffer address in a receive entry of 64 bytes (R281 gives no layout; log 12). -/
opaque ethAddr : List Nat → Nat

end Sys2Proof.Config
end

