-- ==== Sys2Proof/Machine/Flags.lean ====
section
/-! DEFINITION. Status flags, number formats, rounding and the stochastic draw (03_number_formats, R68 to R84,
R88). Everything here is arithmetic on Nat and Int; no machine state. A register value is its unsigned number. -/
namespace Sys2Proof.Machine

/-! ### ASTAT flags (R88), as masks -/
def flagNX : Nat := 1
def flagUF : Nat := 2
def flagOF : Nat := 4
def flagDZ : Nat := 8
def flagNV : Nat := 16
def flagSA : Nat := 32
def flagIZ : Nat := 64
def flagNB : Nat := 128

/-! ### Bit helpers -/

/-- `bits(x, hi, lo)` of R14. -/
def bitsOf (x hi lo : Nat) : Nat := (x / 2 ^ lo) % 2 ^ (hi + 1 - lo)
def bitOf (x i : Nat) : Bool := x / 2 ^ i % 2 == 1
/-- `sext(x, n)` of R14 as an exact integer. -/
def sextI (x n : Nat) : Int :=
  let y := x % 2 ^ n
  if 2 * y < 2 ^ n then (y : Int) else (y : Int) - (2 ^ n : Nat)
/-- `wrap(x, n)` of R14. -/
def wrapI (x : Int) (n : Nat) : Nat := (x % (2 ^ n : Nat)).toNat
def b2n (b : Bool) : Nat := if b then 1 else 0

/-- Number of bits of a natural number: 0 for 0. -/
def bitLen (n : Nat) : Nat := if n = 0 then 0 else Nat.log2 n + 1

/-! ### Formats (R70) -/

inductive Fmt where
  | f32 | f16 | bf16 | e5m2 | e4m3
  deriving DecidableEq, Repr

/-- Width of the exponent field. -/
def Fmt.ebits : Fmt → Nat
  | .f32 => 8 | .f16 => 5 | .bf16 => 8 | .e5m2 => 5 | .e4m3 => 4
/-- Width of the mantissa field. -/
def Fmt.mbits : Fmt → Nat
  | .f32 => 23 | .f16 => 10 | .bf16 => 7 | .e5m2 => 2 | .e4m3 => 3
def Fmt.bias : Fmt → Nat
  | .f32 => 127 | .f16 => 15 | .bf16 => 127 | .e5m2 => 15 | .e4m3 => 7
def Fmt.width (f : Fmt) : Nat := f.ebits + f.mbits + 1
/-- Code of the largest finite magnitude. -/
def Fmt.maxCode : Fmt → Nat
  | .f32 => 0x7F7FFFFF | .f16 => 0x7BFF | .bf16 => 0x7F7F | .e5m2 => 0x7B | .e4m3 => 0x7E
/-- Code of +∞; E4M3 has none, and its place is taken by NaN (R79). -/
def Fmt.infCode : Fmt → Nat
  | .f32 => 0x7F800000 | .f16 => 0x7C00 | .bf16 => 0x7F80 | .e5m2 => 0x7C | .e4m3 => 0x7F
/-- The canonical NaN (R75). -/
def Fmt.nanCode : Fmt → Nat
  | .f32 => 0x7FC00000 | .f16 => 0x7E00 | .bf16 => 0x7FC0 | .e5m2 => 0x7E | .e4m3 => 0x7F
/-- Exponent of the smallest normal. -/
def Fmt.emin (f : Fmt) : Int := 1 - (f.bias : Int)

/-- A value read from a format: NaN (signalling or not), an infinity, or (-1)^neg * m * 2^e. -/
inductive FVal where
  | nan (signalling : Bool)
  | inf (neg : Bool)
  | fin (neg : Bool) (m : Nat) (e : Int)
  deriving DecidableEq, Repr

namespace FVal
def isNan : FVal → Bool
  | .nan _ => true | _ => false
def isSnan : FVal → Bool
  | .nan b => b | _ => false
def isInf : FVal → Bool
  | .inf _ => true | _ => false
def isZero : FVal → Bool
  | .fin _ m _ => m == 0 | _ => false
def sign : FVal → Bool
  | .nan _ => false | .inf n => n | .fin n _ _ => n
def negate : FVal → FVal
  | .nan b => .nan b | .inf n => .inf (!n) | .fin n m e => .fin (!n) m e
def absV : FVal → FVal
  | .nan b => .nan b | .inf _ => .inf false | .fin _ m e => .fin false m e
end FVal

/-- The value of a code of a format; under FLUSH a subnormal reads as zero of its sign (R70, R77). -/
def decodeF (f : Fmt) (flush : Bool) (x : Nat) : FVal :=
  let mb := f.mbits
  let neg := bitOf x (f.width - 1)
  let e := bitsOf x (f.width - 2) mb
  let m := x % 2 ^ mb
  let top := 2 ^ f.ebits - 1
  if e = top ∧ f ≠ .e4m3 then
    (if m = 0 then .inf neg
     else .nan (!(f = .e5m2) && m < 2 ^ (mb - 1)))
  else if f = .e4m3 ∧ e = top ∧ m = 7 then .nan false
  else if e = 0 then .fin neg (if flush then 0 else m) (f.emin - mb)
  else .fin neg (2 ^ mb + m) (f.emin - mb + (e - 1 : Nat))

/-! ### The rounding fields of a mode value (R47) -/

structure Rounding where
  rm : Nat        -- 0 RNE 1 RTZ 2 RDN 3 RUP 4 RNA 5 STO
  sat : Bool
  flush : Bool
  deriving DecidableEq, Repr

/-- RND [11:9], SAT [8], FLUSH [7] of a mode register. -/
def roundingOf (mode : Nat) : Rounding :=
  { rm := bitsOf mode 11 9, sat := bitOf mode 8, flush := bitOf mode 7 }
/-- RNE with no clamp and subnormals kept: the inner roundings of R131, R122. -/
def rneKeep : Rounding := { rm := 0, sat := false, flush := false }
def modeType (mode : Nat) : Nat := bitsOf mode 15 12
def isSto (mode : Nat) : Bool := bitsOf mode 11 9 == 5

/-- A magnitude (n + d) * 2^e, with 0 < d < 1 if `sticky` and d = 0 otherwise. Where `sticky`, n holds at
least 26 bits more than any format keeps, so that every rounding below reads it exactly. -/
structure Mag where
  n : Nat
  e : Int
  sticky : Bool := false
  deriving DecidableEq, Repr

/-- Exponent of the leading bit. -/
def Mag.lead (x : Mag) : Int := (bitLen x.n : Int) - 1 + x.e

/-- x as a count of quanta 2^q: the count rounded down, the bits below it over 2^s, and s. -/
def Mag.split (x : Mag) (q : Int) : Nat × Nat × Nat :=
  if q ≤ x.e then (x.n * 2 ^ (x.e - q).toNat, 0, 0)
  else let s := (q - x.e).toNat; (x.n / 2 ^ s, x.n % 2 ^ s, s)

/-- One rounding of the magnitude to a count of quanta 2^q (R78, R81): the count, and whether it was inexact.
`g` is bits [23:0] of the draw. -/
def roundAt (x : Mag) (neg : Bool) (q : Int) (rm g : Nat) : Nat × Bool :=
  let (k, r, s) := x.split q
  if r = 0 ∧ x.sticky = false then (k, false) else
  let half := 2 ^ s / 2
  let up : Bool :=
    match rm with
    | 0 => (half < r || (r == half && x.sticky) || (r == half && k % 2 == 1)) && s != 0
    | 1 => false
    | 2 => neg
    | 3 => !neg
    | 4 => decide (half ≤ r) && s != 0
    | _ => decide (g < r * 2 ^ 24 / 2 ^ s)
  (if up then k + 1 else k, true)

/-- A rounded code and the flags it raised. -/
structure FRes where
  code : Nat
  flags : Nat
  deriving DecidableEq, Repr

def signBit (f : Fmt) (neg : Bool) : Nat := if neg then 2 ^ (f.width - 1) else 0

/-- Overflow (R79). -/
def overflowTo (f : Fmt) (neg : Bool) (r : Rounding) : FRes :=
  if r.sat then { code := signBit f neg + f.maxCode, flags := flagOF ||| flagNX ||| flagSA }
  else
    let toInf := r.rm == 0 || r.rm == 4 || r.rm == 5 || (r.rm == 2 && neg) || (r.rm == 3 && !neg)
    if toInf then
      (if f = .e4m3 then { code := f.nanCode, flags := flagOF ||| flagNX }
       else { code := signBit f neg + f.infCode, flags := flagOF ||| flagNX })
    else { code := signBit f neg + f.maxCode, flags := flagOF ||| flagNX }

/-- `rnd(x, f, m)` for a non-zero real of the given sign and magnitude, and for an exact zero (R77 to R81). -/
def rndMag (f : Fmt) (r : Rounding) (g : Nat) (neg : Bool) (x : Mag) : FRes :=
  if x.n = 0 ∧ x.sticky = false then { code := signBit f neg, flags := 0 } else
  let sub : Int := f.emin - f.mbits
  let lead := x.lead
  let q : Int := if lead - f.mbits < sub then sub else lead - f.mbits
  let (k, inexact) := roundAt x neg q r.rm g
  let code := (q - sub).toNat * 2 ^ f.mbits + k
  if f.maxCode < code then overflowTo f neg r else
  let q2 : Int := lead - f.mbits
  let tiny : Bool :=
    decide (lead < f.emin) &&
      (let (k2, _) := roundAt x neg q2 r.rm g
       decide (lead < f.emin - 1) || decide (k2 < 2 ^ (f.mbits + 1)))
  if tiny && r.flush then { code := signBit f neg, flags := flagUF ||| flagNX }
  else
    { code := signBit f neg + code,
      flags := (if inexact then flagNX else 0) ||| (if tiny && inexact then flagUF else 0) }

/-! ### Element layout (R68) -/

/-- Elements of a 32-bit register, and their width. -/
def elemsOf (ty : Nat) : Nat × Nat :=
  if ty ≤ 1 ∨ ty = 8 then (1, 32)
  else if ty = 2 ∨ ty = 3 ∨ ty = 9 ∨ ty = 10 then (2, 16)
  else if ty = 4 ∨ ty = 5 ∨ ty = 11 ∨ ty = 12 then (4, 8)
  else if ty = 13 then (8, 4)
  else (1, 64)
/-- Whether the integer TYPE is signed (int32, int16x2, int8x4, int64). -/
def signedTy (ty : Nat) : Bool := ty == 0 || ty == 2 || ty == 4 || ty == 6
/-- Format of a floating-point TYPE (R68). -/
def fmtOf (ty : Nat) : Fmt :=
  if ty = 9 then .bf16 else if ty = 10 then .f16 else if ty = 11 then .e4m3 else if ty = 12 then .e5m2 else .f32

def elemRaw (ty x i : Nat) : Nat := let w := (elemsOf ty).2; x / 2 ^ (w * i) % 2 ^ w
/-- Integer element i of a register value. -/
def elemI (ty x i : Nat) : Int :=
  let w := (elemsOf ty).2
  if signedTy ty then sextI (elemRaw ty x i) w else (elemRaw ty x i : Int)
/-- Elements laid side by side, element 0 lowest. -/
def packElems (w : Nat) : List Nat → Nat
  | [] => 0
  | x :: xs => x % 2 ^ w + 2 ^ w * packElems w xs

def intLo (ty w : Nat) : Int := if signedTy ty then -((2 ^ (w - 1) : Nat) : Int) else 0
def intHi (ty w : Nat) : Int := if signedTy ty then ((2 ^ (w - 1) : Nat) : Int) - 1 else ((2 ^ w : Nat) : Int) - 1

/-- Wrap, or clamp with SA under SAT (R69). -/
def narrowI (ty w : Nat) (sat : Bool) (x : Int) : FRes :=
  if sat && decide (x < intLo ty w) then { code := wrapI (intLo ty w) w, flags := flagSA }
  else if sat && decide (intHi ty w < x) then { code := wrapI (intHi ty w) w, flags := flagSA }
  else { code := wrapI x w, flags := 0 }

/-! ### The stochastic draw (R82) -/

def mixRound (h : Nat) : Nat :=
  let h := h * 0x9A3C5E71D24B86F5 % 2 ^ 64
  h ^^^ (h / 2 ^ 29)

/-- draw(L) for seed K, stream word S, site word X and draw counter C. -/
def drawOf (k s x c : Nat) : Nat :=
  let h := (k + (s % 2 ^ 32 * 2 ^ 32 + c % 2 ^ 32)) % 2 ^ 64
  let h := h ^^^ (x % 2 ^ 32 * 2 ^ 32 + (2 ^ 32 - 1 - x % 2 ^ 32))
  mixRound (mixRound (mixRound h)) % 2 ^ 32

end Sys2Proof.Machine
end

