-- ==== Sys2Proof/Syntax.lean ====
section
/-! DEFINITION. The rows of spec/opcode_table.json, one constructor each: first the 210 instructions of the
opcode map (R52), each with the fields its description uses (R33) and, for a two-word instruction, its sync
word; then the 125 steps of the device that are no instruction words (spec/95). Arguments named g are group
keys, gd global die ids, e entry keys, cmd and acc the numbers of a command or an access in flight; the other
arguments are what the outside party or the device chooses. -/
namespace Sys2Proof

inductive Instr where
  /-- 0x00 NOP (R96). -/
  | nop
  /-- 0x01 MOV (R96). -/
  | mov (d a : Code)
  /-- 0x02 SEL (R96). -/
  | sel (d a b : Code)
  /-- 0x03 ADD (R97). -/
  | add (d a b : Code)
  /-- 0x04 SUB (R97). -/
  | sub (d a b : Code)
  /-- 0x05 MUL (R97). -/
  | mul (d a b : Code)
  /-- 0x06 MULH (R97). -/
  | mulh (d a b : Code)
  /-- 0x07 MULW (R99). -/
  | mulw (d a b : Code)
  /-- 0x08 MAD (R97). -/
  | mad (d a b : Code)
  /-- 0x09 DIV (R98). -/
  | div (d a b : Code)
  /-- 0x0A REM (R98). -/
  | rem (d a b : Code)
  /-- 0x0B MIN (R97). -/
  | imin (d a b : Code)
  /-- 0x0C MAX (R97). -/
  | imax (d a b : Code)
  /-- 0x0D ABS (R97). -/
  | abs (d a : Code)
  /-- 0x0E NEG (R97). -/
  | neg (d a : Code)
  /-- 0x0F ADD64 (R99). -/
  | add64 (d a b : Code)
  /-- 0x10 SUB64 (R99). -/
  | sub64 (d a b : Code)
  /-- 0x11 AND (R100). -/
  | bAnd (d a b : Code)
  /-- 0x12 OR (R100). -/
  | bOr (d a b : Code)
  /-- 0x13 XOR (R100). -/
  | bXor (d a b : Code)
  /-- 0x14 NOT (R100). -/
  | bNot (d a : Code)
  /-- 0x15 ANDN (R100). -/
  | andn (d a b : Code)
  /-- 0x16 SHL (R100). -/
  | shl (d a b : Code)
  /-- 0x17 SHR (R100). -/
  | shr (d a b : Code)
  /-- 0x18 SAR (R100). -/
  | sar (d a b : Code)
  /-- 0x19 ROT (R100). -/
  | rot (d a b : Code)
  /-- 0x1A POPC (R101). -/
  | popc (d a : Code)
  /-- 0x1B CLZ (R101). -/
  | clz (d a : Code)
  /-- 0x1C CTZ (R101). -/
  | ctz (d a : Code)
  /-- 0x1D BREV (R101). -/
  | brev (d a : Code)
  /-- 0x1E BFX (R101). -/
  | bfx (d a b : Code)
  /-- 0x1F BFI (R101). -/
  | bfi (d a b : Code)
  /-- 0x20 BMIX (R102). -/
  | bmix (d a b : Code)
  /-- 0x21 LEA (R99). -/
  | lea (d a b : Code)
  /-- 0x22 LEA64 (R99). -/
  | lea64 (d a b : Code)
  /-- 0x23 CMP.EQ (R103). -/
  | cmpEq (d a b : Code)
  /-- 0x24 CMP.NE (R103). -/
  | cmpNe (d a b : Code)
  /-- 0x25 CMP.LT (R103). -/
  | cmpLt (d a b : Code)
  /-- 0x26 CMP.LE (R103). -/
  | cmpLe (d a b : Code)
  /-- 0x27 CMP.GT (R103). -/
  | cmpGt (d a b : Code)
  /-- 0x28 CMP.GE (R103). -/
  | cmpGe (d a b : Code)
  /-- 0x29 PAND (R104). -/
  | pand (d a b : Code)
  /-- 0x2A POR (R104). -/
  | por (d a b : Code)
  /-- 0x2B PXOR (R104). -/
  | pxor (d a b : Code)
  /-- 0x2C PNOT (R104). -/
  | pnot (d a : Code)
  /-- 0x2D P2V (R104). -/
  | p2v (d : Code)
  /-- 0x2E V2P (R104). -/
  | v2p (a : Code)
  /-- 0x2F XCH.IDX (R105). -/
  | xchIdx (d a b : Code)
  /-- 0x30 XCH.XOR (R105). -/
  | xchXor (d a b : Code)
  /-- 0x31 XCH.UP (R105). -/
  | xchUp (d a b : Code)
  /-- 0x32 XCH.DN (R105). -/
  | xchDn (d a b : Code)
  /-- 0x33 LNANY (R106). -/
  | lnany (d a : Code)
  /-- 0x34 LNALL (R106). -/
  | lnall (d a : Code)
  /-- 0x35 LNMASK (R106). -/
  | lnmask (d a : Code)
  /-- 0x36 RDLANE (R107). -/
  | rdlane (d a b : Code)
  /-- 0x37 WRLANE (R107). -/
  | wrlane (d a b : Code)
  /-- 0x38 IRED.ADD (R108). -/
  | iredAdd (d a : Code)
  /-- 0x39 IRED.MIN (R108). -/
  | iredMin (d a : Code)
  /-- 0x3A IRED.MAX (R108). -/
  | iredMax (d a : Code)
  /-- 0x3B ISCAN.ADD (R108). -/
  | iscanAdd (d a : Code)
  /-- 0x3C LNEQ (R106). -/
  | lneq (d a : Code)
  /-- 0x40 FADD (R115). -/
  | fadd (d a b : Code)
  /-- 0x41 FSUB (R115). -/
  | fsub (d a b : Code)
  /-- 0x42 FMUL (R115). -/
  | fmul (d a b : Code)
  /-- 0x43 FMA (R115). -/
  | fma (d a b : Code)
  /-- 0x44 FMS (R115). -/
  | fms (d a b : Code)
  /-- 0x45 FNMA (R115). -/
  | fnma (d a b : Code)
  /-- 0x46 FMIN (R116). -/
  | fmin (d a b : Code)
  /-- 0x47 FMAX (R116). -/
  | fmax (d a b : Code)
  /-- 0x48 FABS (R116). -/
  | fabs (d a : Code)
  /-- 0x49 FNEG (R116). -/
  | fneg (d a : Code)
  /-- 0x4A FCMP.EQ (R117). -/
  | fcmpEq (d a b : Code)
  /-- 0x4B FCMP.NE (R117). -/
  | fcmpNe (d a b : Code)
  /-- 0x4C FCMP.LT (R117). -/
  | fcmpLt (d a b : Code)
  /-- 0x4D FCMP.LE (R117). -/
  | fcmpLe (d a b : Code)
  /-- 0x4E FCMP.UN (R117). -/
  | fcmpUn (d a b : Code)
  /-- 0x4F FCLASS (R118). -/
  | fclass (d a : Code)
  /-- 0x50 FRCP (R119). -/
  | frcp (d a : Code)
  /-- 0x51 FRSQ (R119). -/
  | frsq (d a : Code)
  /-- 0x52 FSQRT (R119). -/
  | fsqrt (d a : Code)
  /-- 0x53 FDIV (R119). -/
  | fdiv (d a b : Code)
  /-- 0x54 FEXP2 (R119). -/
  | fexp2 (d a : Code)
  /-- 0x55 FLOG2 (R119). -/
  | flog2 (d a : Code)
  /-- 0x56 FSIN (R119). -/
  | fsin (d a : Code)
  /-- 0x57 FCOS (R119). -/
  | fcos (d a : Code)
  /-- 0x58 FTANH (R119). -/
  | ftanh (d a : Code)
  /-- 0x59 FSIGM (R119). -/
  | fsigm (d a : Code)
  /-- 0x5A FRND (R121). -/
  | frnd (d a : Code)
  /-- 0x5B FDOT2 (R122). -/
  | fdot2 (d a b : Code)
  /-- 0x5C FDOT4 (R122). -/
  | fdot4 (d a b : Code)
  /-- 0x5D IDOT4 (R122). -/
  | idot4 (d a b : Code)
  /-- 0x5E CVT.F2I (R123). -/
  | cvtF2i (d a : Code)
  /-- 0x5F CVT.I2F (R123). -/
  | cvtI2f (d a : Code)
  /-- 0x60 CVT.UP.LO (R124). -/
  | cvtUpLo (d a : Code)
  /-- 0x61 CVT.UP.HI (R124). -/
  | cvtUpHi (d a : Code)
  /-- 0x62 CVT.DN (R125). -/
  | cvtDn (d a b : Code)
  /-- 0x63 CVT.DN4 (R125). -/
  | cvtDn4 (d a b : Code)
  /-- 0x64 QBLK (R126). -/
  | qblk (d a : Code)
  /-- 0x65 DQBLK (R127). -/
  | dqblk (d a b : Code)
  /-- 0x66 NIBPK (R128). -/
  | nibpk (d a b : Code)
  /-- 0x67 FRED.ADD (R129). -/
  | fredAdd (d a : Code)
  /-- 0x68 FRED.MAX (R129). -/
  | fredMax (d a : Code)
  /-- 0x69 FSCAN.ADD (R129). -/
  | fscanAdd (d a : Code)
  /-- 0x6A ARGMAX (R130). -/
  | argmax (d a b : Code)
  /-- 0x6B RAND (R132). -/
  | rand (d : Code)
  /-- 0x6C RANDF (R132). -/
  | randf (d : Code)
  /-- 0x6D SMXUP (R131). -/
  | smxup (d a : Code)
  /-- 0x80 MCOL.ALLOC (R162). -/
  | mcolAlloc (d a b : Code)
  /-- 0x81 MCOL.FREE (R163). -/
  | mcolFree (d : Code)
  /-- 0x82 MTILE.LD (R166). -/
  | mtileLd (d a b : Code) (sync : BitVec 32)
  /-- 0x83 MTILE.ST (R167). -/
  | mtileSt (d a b : Code) (sync : BitVec 32)
  /-- 0x84 MTILE.HDR (R170). -/
  | mtileHdr (d a : Code)
  /-- 0x85 MWLOAD (R174). -/
  | mwload (d a : Code) (sync : BitVec 32)
  /-- 0x86 MWSWAP (R175). -/
  | mwswap (d : Code) (sync : BitVec 32)
  /-- 0x87 MMA (R176). -/
  | mma (d a b : Code) (sync : BitVec 32)
  /-- 0x88 MMA.SP (R176). -/
  | mmaSp (d a b : Code) (sync : BitVec 32)
  /-- 0x89 MACC.ZERO (R179). -/
  | maccZero (d a : Code) (sync : BitVec 32)
  /-- 0x8A MACC.RD (R180). -/
  | maccRd (d a b : Code) (sync : BitVec 32)
  /-- 0x8B MCFG (R173). -/
  | mcfg (a : Code)
  /-- 0xA0 LD (R240). -/
  | ld (d a b : Code)
  /-- 0xA1 LD.X2 (R240). -/
  | ldX2 (d a b : Code)
  /-- 0xA2 LD.X4 (R240). -/
  | ldX4 (d a b : Code)
  /-- 0xA3 ST (R240). -/
  | st (d a b : Code)
  /-- 0xA4 ST.X2 (R240). -/
  | stX2 (d a b : Code)
  /-- 0xA5 ST.X4 (R240). -/
  | stX4 (d a b : Code)
  /-- 0xA6 LDS (R240). -/
  | lds (d a b : Code)
  /-- 0xA7 LDS.X4 (R240). -/
  | ldsX4 (d a b : Code)
  /-- 0xA8 STS (R240). -/
  | sts (d a b : Code)
  /-- 0xA9 STS.X4 (R240). -/
  | stsX4 (d a b : Code)
  /-- 0xAA LD.ACQ (R240). -/
  | ldAcq (d a b : Code)
  /-- 0xAB ST.REL (R240). -/
  | stRel (d a b : Code)
  /-- 0xAC ATOM.ADD (R243). -/
  | atomAdd (d a b : Code)
  /-- 0xAD ATOM.MIN (R243). -/
  | atomMin (d a b : Code)
  /-- 0xAE ATOM.MAX (R243). -/
  | atomMax (d a b : Code)
  /-- 0xAF ATOM.AND (R243). -/
  | atomAnd (d a b : Code)
  /-- 0xB0 ATOM.OR (R243). -/
  | atomOr (d a b : Code)
  /-- 0xB1 ATOM.XOR (R243). -/
  | atomXor (d a b : Code)
  /-- 0xB2 ATOM.XCHG (R243). -/
  | atomXchg (d a b : Code)
  /-- 0xB3 ATOM.CAS (R243). -/
  | atomCas (d a b : Code)
  /-- 0xB4 ATOM.FADD (R244). -/
  | atomFadd (d a b : Code)
  /-- 0xB5 RED.ADD (R243). -/
  | redAdd (a b : Code)
  /-- 0xB6 ATOMS.ADD (R244). -/
  | atomsAdd (d a b : Code)
  /-- 0xB7 ATOMS.CAS (R244). -/
  | atomsCas (d a b : Code)
  /-- 0xB8 FENCE (R246). -/
  | fence
  /-- 0xB9 FENCE.BANK (R227). -/
  | fenceBank
  /-- 0xBA STASH.MAP (R247). -/
  | stashMap (d a b : Code)
  /-- 0xBB STASH.WB (R248). -/
  | stashWb (a b : Code)
  /-- 0xBC STASH.INV (R248). -/
  | stashInv (a b : Code)
  /-- 0xBD MDEAD (R249). -/
  | mdead (a : Code)
  /-- 0xBE PREF (R250). -/
  | pref (a b : Code)
  /-- 0xBF MOV.CPY (R254). -/
  | movCpy (d a b : Code) (sync : BitVec 32)
  /-- 0xC0 MOV.GTH (R255). -/
  | movGth (d a b : Code) (sync : BitVec 32)
  /-- 0xC1 MOV.SCT (R255). -/
  | movSct (d a b : Code) (sync : BitVec 32)
  /-- 0xC2 PUT (R256). -/
  | putCmd (d a b : Code) (sync : BitVec 32)
  /-- 0xC3 GET (R256). -/
  | getCmd (d a b : Code) (sync : BitVec 32)
  /-- 0xC4 RATOM (R257). -/
  | ratom (d a b : Code) (sync : BitVec 32)
  /-- 0xC5 BOP.ADD (R259). -/
  | bopAdd (d a b : Code) (sync : BitVec 32)
  /-- 0xC6 BOP.AXPY (R259). -/
  | bopAxpy (d a b : Code) (sync : BitVec 32)
  /-- 0xC7 BOP.MAX (R259). -/
  | bopMax (d a b : Code) (sync : BitVec 32)
  /-- 0xC8 BOP.CVT (R260). -/
  | bopCvt (d a b : Code) (sync : BitVec 32)
  /-- 0xC9 BOP.FILL (R259). -/
  | bopFill (d b : Code) (sync : BitVec 32)
  /-- 0xCA COLL.AR (R263). -/
  | collAr (d a b : Code) (sync : BitVec 32)
  /-- 0xCB COLL.AG (R263). -/
  | collAg (d a b : Code) (sync : BitVec 32)
  /-- 0xCC COLL.RS (R263). -/
  | collRs (d a b : Code) (sync : BitVec 32)
  /-- 0xCD COLL.A2A (R263). -/
  | collA2a (d a b : Code) (sync : BitVec 32)
  /-- 0xCE COLL.BC (R263). -/
  | collBc (d a b : Code) (sync : BitVec 32)
  /-- 0xD0 MODE (R48). -/
  | mode (l : BitVec 24)
  /-- 0xD1 LIT (R51). -/
  | lit (l : BitVec 24)
  /-- 0xD2 LITH (R51). -/
  | lith (l : BitVec 8)
  /-- 0xD3 BRA (R333). -/
  | bra (l : BitVec 24)
  /-- 0xD4 CALL (R334). -/
  | call (l : BitVec 24)
  /-- 0xD5 RET (R334). -/
  | ret
  /-- 0xD6 JMP (R333). -/
  | jmp (a : Code)
  /-- 0xD7 CBAR.SET (R289). -/
  | cbarSet (d : Code)
  /-- 0xD8 CBAR.WAIT (R289). -/
  | cbarWait (d : Code)
  /-- 0xD9 CALLM (R58). -/
  | callm (d a b : Code)
  /-- 0xDA MSTORE (R57). -/
  | mstore (a b : Code)
  /-- 0xDB SUSP (R336). -/
  | suspGroup (l : BitVec 24) (sync : BitVec 32)
  /-- 0xDC SYNC (R337). -/
  | syncGroup (l : BitVec 24) (sync : BitVec 32)
  /-- 0xDD ARRIVE (R337). -/
  | arrive (d : Code)
  /-- 0xDE END (R339). -/
  | endGroup  (sync : BitVec 32)
  /-- 0xDF YIELD (R340). -/
  | yieldGroup
  /-- 0xE0 CH.OPEN (R341). -/
  | chOpen (d a : Code)
  /-- 0xE1 CH.CLOSE (R341). -/
  | chClose (d a : Code)
  /-- 0xE2 SEMA.ADD (R342). -/
  | semaAdd (d a : Code)
  /-- 0xE3 SEMA.RD (R343). -/
  | semaRd (d a : Code)
  /-- 0xE4 TASK.POST (R344). -/
  | taskPost (d a b : Code) (sync : BitVec 32)
  /-- 0xE5 TASK.DEP (R345). -/
  | taskDep (a b : Code)
  /-- 0xE6 TASK.SIG (R346). -/
  | taskSig (a b : Code)
  /-- 0xE7 TASK.PULL (R347). -/
  | taskPull (d a b : Code)
  /-- 0xE8 LAUNCH (R344). -/
  | launch (d a b : Code) (sync : BitVec 32)
  /-- 0xE9 TOK.NEW (R350). -/
  | tokNew (d a : Code)
  /-- 0xEA TOK.RD (R351). -/
  | tokRd (d a b : Code)
  /-- 0xEB TOK.WR (R351). -/
  | tokWr (d a b : Code)
  /-- 0xEC TOK.NEXT (R352). -/
  | tokNext (a : Code)
  /-- 0xED TOK.SEND (R353). -/
  | tokSend (a b : Code) (sync : BitVec 32)
  /-- 0xEE TOK.RET (R354). -/
  | tokRet (a : Code)
  /-- 0xF0 TRAP (R410). -/
  | trap (l : BitVec 24)
  /-- 0xF1 RTE (R411). -/
  | rte
  /-- 0xF2 SREG.RD (R408). -/
  | sregRd (d a : Code)
  /-- 0xF3 SREG.WR (R408). -/
  | sregWr (a b : Code)
  /-- 0xF4 OPREG (R414). -/
  | opreg (d a : Code)
  /-- 0xF5 BELT.SET (R416). -/
  | beltSet (d a : Code)
  /-- 0xF6 TRAY.SET (R415). -/
  | traySet (d a : Code)
  /-- 0xF7 GEN.RAISE (R367). -/
  | genRaise (d a : Code)
  /-- 0xF8 CTX.SAVE (R419). -/
  | ctxSave (d a b : Code) (sync : BitVec 32)
  /-- 0xF9 CTX.LOAD (R420). -/
  | ctxLoad (d a b : Code) (sync : BitVec 32)
  /-- 0xFA HALT (R421). -/
  | halt
  /-- 0xFB CENSUS (R422). -/
  | census (d a b : Code)
  /-- 0xFC PMC.SNAP (R423). -/
  | pmcSnap (d : Code)
  /-- ILLEGAL_OPCODE (R53): Issue of a reserved opcode or 0xFF, raising ILLEGAL_OP. -/
  | illegalOpcode (w : BitVec 32)
  /-- MACRO_ENTRY_EXEC (R58): One control-store entry of a macro issues with substituted fields. -/
  | storeEntryExec
  /-- TRAP_BACKOFF_EXPIRY (R329): A refused path's back-off expires and it re-issues the instruction. -/
  | trapBackoffExpiry (g lane : Nat)
  /-- PATH_RUN_LIMIT (R286): A path's run count reaches 64 and the longest-waiting path is selected next. -/
  | pathRunLimit (g : Nat)
  /-- GROUP_STARVED (R327): A group eligible for 256 open cycles without issuing becomes starved. -/
  | groupStarved (g : Nat)
  /-- TRANSLATION_ANSWER (R288): A lane's translation answer returns; missing lanes park, others go on. -/
  | translationAnswer (g h : Nat)
  /-- LOAD_RETURN (R240): A load's or atomic's data returns and its destination is written. -/
  | loadReturn (acc : Nat)
  /-- ACCESS_FAILURE_RETURN (R481): An access's answer carries a failure, delivered at the lane's next waiting instruction. -/
  | accessFailureReturn (acc cause : Nat) (performed : Bool)
  /-- BOUNDARY_TAKEN (R293): The group takes a firing boundary once all its lanes stand at it and writes are done. -/
  | boundaryTaken (g : Nat)
  /-- CONTINUATION_DISPATCH (R294): A SUSP continuation is dispatched when its semaphore condition holds. -/
  | continuationDispatch (g : Nat)
  /-- CONVERGENCE_FAULT (R292): A group that can make no progress is delivered ILLEGAL_CONVERGENCE. -/
  | convergenceFault (g : Nat)
  /-- COMMAND_START (R39): An asynchronous command starts when its queue and wait condition allow. -/
  | commandStart (cmd : Nat)
  /-- SEMA_ADD_APPLY (R342): A SEMA.ADD increment moves from pending to the count once its release is performed. -/
  | semaAddApply (sig : Nat)
  /-- MTILE_COMPLETE (R160): An MTILE.LD or MTILE.ST completes when its last byte is performed. -/
  | mtileComplete (cmd : Nat)
  /-- MWLOAD_COMPLETE (R160): An MWLOAD completes 64 cycles after its start. -/
  | mwloadComplete (cmd : Nat)
  /-- MWSWAP_DONE (R145): The banks are swapped in the cycle after the last pass on the old bank. -/
  | mwswapDone (cmd : Nat)
  /-- MMA_COMPLETE (R160): An MMA pass finishes writing D and completes. -/
  | mmaComplete (cmd : Nat)
  /-- MACC_ZERO_COMPLETE (R160): MACC.ZERO completes 64 cycles after its start. -/
  | maccZeroComplete (cmd : Nat)
  /-- MACC_RD_COMPLETE (R160): MACC.RD completes with every register written. -/
  | maccRdComplete (cmd : Nat)
  /-- MCFG_EFFECT (R173): A new array configuration takes effect once earlier commands of changed regions complete. -/
  | mcfgEffect (cmd : Nat)
  /-- MOVER_COMPLETE (R254): A mover command's last piece is written and it completes. -/
  | moverComplete (cmd : Nat)
  /-- PUT_GET_COMPLETE (R256): A PUT or GET completes when every piece is performed. -/
  | putGetComplete (cmd : Nat)
  /-- RATOM_COMPLETE (R257): RATOM completes when every lane has a status. -/
  | ratomComplete (cmd : Nat)
  /-- BANK_PIECE (R209): A bank unit reads, computes and writes one 256-byte piece: command * 1024 + bank. -/
  | bankPiece (piece : Nat)
  /-- COLLECTIVE_COMPLETE (R228): A collective completes with its release and acquire. -/
  | collectiveComplete (comm : Nat)
  /-- COLLECTIVE_ABORT (R229): A collective engine aborts after a kill, loss or mismatch. -/
  | collectiveAbort (comm : Nat)
  /-- TASK_POST_COMPLETE (R344): A posted or launched descriptor is checked and the entry taken or returned. -/
  | taskPostComplete (cmd : Nat)
  /-- LAUNCH_ROOT_ANSWER (R344): The root die answers a LAUNCH reservation over MGT. -/
  | launchRootAnswer (cmd : Nat)
  /-- TOKEN_ARRIVAL (R353): A sent record arrives at its destination and is accepted or refused. -/
  | tokenArrival (cmd : Nat)
  /-- TOK_SEND_OUTCOME (R353): The sender receives acceptance or refusal, freeing the slot or re-holding the record. -/
  | tokSendOutcome (cmd : Nat)
  /-- CTX_SAVE_COMPLETE (R419): CTX.SAVE finishes writing the image. -/
  | ctxSaveComplete (cmd : Nat)
  /-- CTX_LOAD_COMPLETE (R420): CTX.LOAD finishes restoring the team and writes its result. -/
  | ctxLoadComplete (cmd : Nat)
  /-- DEPENDANT_DECREMENT (R316): A task end decrements a dependant's DEP in another die's table over MGT. -/
  | dependantDecrement (msg : Nat)
  /-- TRAILING_PUT_ACK (R232): A trailing PUT is acknowledged, lowering TRAIL. -/
  | trailingPutAck (cmd : Nat)
  /-- TRAILING_PUT_FAIL (R232): A trailing PUT fails, faulting the entry and its dependants. -/
  | trailingPutFail (cmd : Nat)
  /-- FAULTED_ENTRY_RELEASE (R315): A Faulted entry releases its dependants as faulted and is freed. -/
  | faultedEntryRelease (e : Nat)
  /-- READY_AGING (R317): An entry waiting 65,536 cycles moves to the next priority level. -/
  | readyAging (e : Nat)
  /-- TASK_DISPATCH (R318): The dispatch unit admits a Ready entry onto a quad. -/
  | taskDispatch (e quad base : Nat) (slots : List Nat)
  /-- DRAIN_RETAKE (R387): A drained victim not ended after R+65,536 cycles causes a retake. -/
  | drainRetake (e : Nat)
  /-- TASK_KILL (R389): A task is killed, its commands discarded or completed and its entry faulted. -/
  | taskKill (e : Nat)
  /-- PULL_SERVED (R347): A waiting TASK.PULL receives a Ready entry. -/
  | pullServed (g e : Nat)
  /-- PULL_TIMEOUT (R347): A TASK.PULL's wait runs out and D receives 0xFFFFFFFF. -/
  | pullTimeout (g : Nat)
  /-- RANGE_DISTRIBUTION (R319): The package distributor splits a proofed RANGE root over dies as child entries. -/
  | rangeDistribution (e : Nat)
  /-- HELD_PART_PLACED (R319): A held range part takes an entry when one becomes Free. -/
  | heldPartPlaced (root part : Nat)
  /-- CHUNK_DISPATCH (R320): A quad distributor hands out the next chunk as one team dispatch. -/
  | chunkDispatch (e quad base : Nat) (slots : List Nat)
  /-- QUAD_STEAL (R321): An empty quad takes the back half of the largest part on its die. -/
  | quadSteal (e quad : Nat)
  /-- DIE_STEAL_REQUEST (R321): An empty die's steal request over MGT is answered with chunks. -/
  | dieStealRequest (root gd : Nat)
  /-- GATHER_COMPLETE (R323): A row's hidden state gathers into the building tile; the tile fires when full. -/
  | gatherComplete (gd slot : Nat)
  /-- TRAY_TIMEOUT (R323): A building tile's timer reaches maxwait and the tile fires. -/
  | trayTimeout (gd tray : Nat)
  /-- DEFERRED_TILE_FIRE (R324): A building tile held by the seat limit fires once fewer than c tiles wait. -/
  | deferredTileFire (gd tray : Nat)
  /-- BELT_SLOT_ACTIVE (R146): The next Belt slot becomes active and its successor's preload begins. -/
  | beltSlotActive (q r : Nat)
  /-- PRELOAD_COMPLETE (R146): A slot's weight tile finishes preloading into the shadow bank. -/
  | preloadComplete (q r : Nat)
  /-- READOUT_COMPLETE (R150): A tile's results are read out and its TILE task is signalled. -/
  | readoutComplete (q r : Nat)
  /-- SUBMISSION_LAUNCH (R312): The steward takes a LAUNCH entry and loads the graph image. -/
  | submissionLaunch (ctx : Nat) (frames : List (Nat × Nat))
  /-- SUBMISSION_REQUEST (R310): The steward takes a REQUEST entry and posts the request task. -/
  | submissionRequest (ctx : Nat)
  /-- SUBMISSION_RESERVED (R310): An entry with a reserved KIND or field completes with status 0x07. -/
  | submissionReserved (ctx : Nat)
  /-- SUBMISSION_COMPLETE (R310): A completion record is written and CSEM signalled. -/
  | submissionComplete (ctx job : Nat)
  /-- DOORBELL_WRITE (R279): A host write to DBELL_i adds to a DCC semaphore or is discarded. -/
  | doorbellWrite (ctx i : Nat) (w : BitVec 32)
  /-- CXL_MEM_READ (R235): A host CXL.mem read of a host-shared frame. -/
  | cxlMemRead (ctx va : Nat)
  /-- CXL_MEM_WRITE (R235): A host CXL.mem write of a host-shared frame. -/
  | cxlMemWrite (ctx va : Nat) (bytes : List (BitVec 8))
  /-- HOST_SNOOP (R278): A host snoop answered by die 0's L2: package * 2^56 + address. -/
  | hostSnoop (line : Nat)
  /-- CXL_LINK_DOWN (R280): The CXL link goes down and host requests complete with PEER_LOST. -/
  | cxlLinkDown (pkg : Nat)
  /-- REMOTE_REQUEST (R234): A request arrives at its home and is performed in channel order. -/
  | remoteRequest (acc : Nat)
  /-- STASH_RECALL (R196): Another agent's access recalls a stash line from its team. -/
  | stashRecall (team line : Nat) (write : Bool)
  /-- FLIT_CRC_ERROR (R269): A receiver finds a CRC error and requests a go-back-N resend. -/
  | flitCrcError (gd port : Nat)
  /-- GUARD_DROP (R272): A flit failing a boundary guard is dropped and reported. -/
  | guardDrop (acc port : Nat)
  /-- UALINK_BAD_TRANSACTION (R274): An unsupported UALink transaction gets an error response. -/
  | ualinkBadTransaction (station kind : Nat)
  /-- UALINK_PORT_DOWN (R276): A switch port reports the link down and the peer is lost. -/
  | ualinkPortDown (seer pkg : Nat)
  /-- PEER_LOSS_TIMEOUT (R276): A request unanswered for 1 ms declares its package lost. -/
  | peerLossTimeout (seer pkg : Nat)
  /-- DIE_SILENCE_LOSS (R276): 100 µs of silence on every link declares a die lost. -/
  | dieSilenceLoss (gd : Nat)
  /-- LOSS_NOTICE (R277): A loss notice arrives and survivors settle requests to the lost peer. -/
  | lossNotice (seer pkg : Nat)
  /-- LATE_ANSWER (R277): A late answer from a lost peer is discarded. -/
  | lateAnswer (acc : Nat)
  /-- ETH_COMPLETION (R281): A port engine writes a completion entry and signals its semaphore. -/
  | ethCompletion (qp : Nat)
  /-- ETH_RETRY_EXHAUSTED (R281): A queue pair exhausts its retries and completes entries with status 0x10. -/
  | ethRetryExhausted (qp : Nat)
  /-- HLB_WALK_COMPLETE (R362): A home-map walk finishes and fills the HLB or misses. -/
  | hlbWalkComplete (gd asid va req : Nat)
  /-- CTC_WALK_COMPLETE (R365): A frame-map walk finishes and fills the CTC or misses. -/
  | ctcWalkComplete (gd asid key req : Nat)
  /-- FRES_WRITE (R371): The steward resolves or declines a fault record. -/
  | fresWrite (gd : Nat) (w : BitVec 32)
  /-- STREAM_LOADER_ANSWER (R372): The stream loader finishes translating an MTILE range. -/
  | streamLoaderAnswer (cmd : Nat)
  /-- GEN_RAISE_PHASE_END (R367): All packages acknowledge a raise phase and the next begins. -/
  | genRaisePhaseEnd (asid : Nat)
  /-- REPLICATION_EPOCH (R193): At each 65,536-cycle epoch the replication degree is revised. -/
  | replicationEpoch (gd : Nat)
  /-- PAGE_COUNT_DECAY (R201): Every 2^20 cycles page access counts halve. -/
  | pageCountDecay (gd : Nat)
  /-- SWAP_START (R201): A hot capacity page starts a swap into the fast frame. -/
  | swapStart (gd page : Nat)
  /-- SWAP_REMAP (R374): A swap's copy ends and the remap entry is rewritten. -/
  | swapRemap (gd group : Nat)
  /-- DEAD_PAGE_ZERO_FILL (R204): The first write to a dead page zero-fills it and then performs. -/
  | deadPageZeroFill (gd page : Nat)
  /-- POWER_WINDOW (R330): Each 1,024-cycle window sets the throttle level. -/
  | powerWindow (gd est : Nat)
  /-- SIDEBAND_EXCHANGE (R331): Every 8,192 cycles a die sends borrow or repay messages. -/
  | sidebandExchange (gd : Nat)
  /-- CREDIT_MESSAGE (R331): A borrow, grant, refusal or repayment message arrives. -/
  | creditMessage (msg : Nat)
  /-- LOST_GRANT_RETURN (R331): A lost grant returns to the lender after 16,384 cycles. -/
  | lostGrantReturn (msg : Nat)
  /-- BORROW_TIMEOUT (R331): An unanswered borrow stops being outstanding after 49,152 cycles. -/
  | borrowTimeout (gd : Nat)
  /-- THERMAL_HIGH (R29): The die sensor passes 105 °C and the die stops borrowing. -/
  | thermalHigh (gd : Nat)
  /-- THERMAL_RECOVER (R29): The sensor falls below 100 °C and normal credit rules resume. -/
  | thermalRecover (gd : Nat)
  /-- THERMAL_TAMPER (R399): The sensor passes 115 °C and the thermal alarm applies its policy. -/
  | thermalTamper (gd : Nat)
  /-- GLITCH_ALARM (R399): The glitch sensor fires and its alarm policy applies. -/
  | glitchAlarm (pkg : Nat)
  /-- DEBUG_AUTH_FAIL (R398): A failed debug-port authentication counts toward the DBGX alarm. -/
  | debugAuthFail (pkg : Nat)
  /-- REGULATION_FAIL (R30): A die's regulation fails and the die is lost. -/
  | regulationFail (gd : Nat)
  /-- POWER_ON (R30): At power-on die 0's DCC verifies the firmware image. -/
  | powerOn (pkg : Nat) (ecdsaOk lmsOk : Bool)
  /-- DIE_BODY_CHECK (R396): A die receives the firmware body and checks its digest. -/
  | dieBodyCheck (gd : Nat) (digestOk : Bool)
  /-- SPDM_REQUEST (R397): Die 0 answers an SPDM request over DOE. -/
  | spdmRequest (pkg index : Nat)
  /-- ERROR_DETECTED (R430): A code detects an error, reports it and starts a self-test. -/
  | errorDetected (gd unit idx loc : Nat) (uncorrectable : Bool)
  /-- RESIDUE_MISMATCH (R426): An arithmetic residue mismatch re-issues or re-runs the work. -/
  | residueMismatch (gd core : Nat) (second : Bool)
  /-- SELF_TEST_COMPLETE (R432): A targeted self-test ends and classes the fault. -/
  | selfTestComplete (gd test : Nat) (reproduced : Bool)
  /-- SCRUB_PASS (R425): Scrub reads and corrects each DRAM line once per 2^40 cycles. -/
  | scrubPass (gd line : Nat)
  /-- CONTEXT_KILL (R378): A context is killed with all its tasks, channels and barriers. -/
  | contextKill (ctx : Nat)
  /-- KEY_GENERATE (R386): KEYCMD generate fills a key slot from the DRBG. -/
  | keyGenerate (pkg slot : Nat)
  /-- KEY_ERASE (R386): KEYCMD erase zeroes a key slot. -/
  | keyErase (pkg slot : Nat)
  /-- LBAR_ALLOCATE (R302): A write of LBAR with EN=1 allocates a level barrier. -/
  | lbarAllocate (gd num : Nat) (w : BitVec 32)
  /-- LBAR_FREE (R302): A write of LBAR with EN=0 frees a level barrier. -/
  | lbarFree (gd num : Nat) (w : BitVec 32)
  /-- HCTL_KILL (R408): A write of 1 to HCTL kills the task at once. -/
  | hctlKill (g : Nat)
  /-- ALARMPOL_WRITE (R398): A write of ALARMPOL that never lowers a policy field. -/
  | alarmpolWrite (pkg : Nat) (w : BitVec 32)
  /-- REGISTER_WRITE (R9): A write to a register that has no row of its own. -/
  | registerWrite (gd num : Nat) (w : BitVec 32)
  /-- DBG_REVOCATION (R394): Clearing DBG discards overlays, resumes halted groups and ends scans. -/
  | dbgRevocation (ctx : Nat)
  /-- DEBUG_RESUME (R393): A halted group resumes, committing its staged edits in one step. -/
  | debugResume (g : Nat)
  /-- SCAN_SESSION_OPEN (R452): A scan session opens for one partition after authentication. -/
  | scanSessionOpen (pkg tag : Nat) (stopcyc stopen : Nat)
  /-- SCAN_STOP_EVENT (R452): An enabled stop source fires and the stop event is taken. -/
  | scanStopEvent (pkg source : Nat)
  /-- SCAN_GATING (R453): At cycle E+32 the partition's clocks are gated. -/
  | scanGating (pkg : Nat)
  /-- SCAN_SESSION_END (R454): A session ends and the gated partition is reset and its entries re-run. -/
  | scanSessionEnd (pkg : Nat)
  /-- WRITE_ACKNOWLEDGEMENT (R215): A store's, MDEAD's or write-back's acknowledgement from the home returns to the requester and performs the write at its scope. -/
  | writeAcknowledgement (acc : Nat)
  /-- TASK_SIG_DECREMENT (R346): The DEP decrement of a TASK.SIG is applied once its PKG-scope release is performed. -/
  | taskSigDecrement (sig : Nat)
  /-- TASK_DEP_ANSWER (R345): The MGT answer of a TASK.DEP naming an entry on another die arrives and the group becomes eligible. -/
  | taskDepAnswer (g : Nat)
  /-- COLLECTIVE_FLIT_ARRIVAL (R228): A collective flit arrives and its contribution is reduced into the receive buffer as a partial value. -/
  | collectiveFlitArrival (cmd src elem : Nat)
  /-- ETH_FRAME_RECEIVED (R281): A RoCEv2 frame arrives at an Ethernet port and the port engine writes its data for a receive queue entry. -/
  | ethFrameReceived (qp : Nat) (bytes : List (BitVec 8))
  /-- STEWARD_RECLAIM (R25): The steward reclaims a Held record it owns and makes it Free. -/
  | stewardReclaim (gd slot : Nat)
  /-- BARRIER_ARRIVAL_MESSAGE (R302): An arrival at a package or pod barrier reaches the root die over MGT and is counted, possibly releasing the phase. -/
  | barrierArrivalMessage (msg : Nat)
  /-- DEBUG_AGENT_HALT (R393): The authenticated debug agent halts a group of a context whose DBG is 1. -/
  | debugAgentHalt (g : Nat)
  /-- DEBUG_EDIT_STAGE (R393): The debug agent stages an edit in a halted group's pending-edit overlay. -/
  | debugEditStage (g lane reg : Nat) (w : BitVec 32)
  deriving DecidableEq, Repr

end Sys2Proof
end

