-- ==== Sys2Proof/Machine/Operands.lean ====
section
/-! DEFINITION. Operand classes (R91, R109, R154, R237, R332, R403) and the operands of every instruction: which
codes a field admits, and which registers the instruction reads and writes through it. -/
namespace Sys2Proof.Machine

/-- The classes of a field. `typed` is src or dst, and pair for a lane whose TYPE is 6 or 7; `typedRun` is pair,
and a run of 4 for such a lane (R103, R123, R237). `index n` is a resource index below n (R33). -/
inductive Cls where
  | any | pr | pair | vreg | vpair | typed | typedRun
  | run (n : Nat)
  | vrun (n : Nat)
  | index (n : Nat)
  deriving DecidableEq, Repr

/-- One operand of an instruction: the field's code, its class, whether it is read and whether it is written. -/
structure Opnd where
  code : Nat
  cls : Cls
  reads : Bool
  writes : Bool
  deriving DecidableEq, Repr

def kRead : Opnd := ⟨0xFF, .any, true, false⟩
def kWrite : Opnd := ⟨0xFF, .any, false, true⟩

/-- Codes that a class admits (R45, R91, R109, R154, R237); `wide` is whether some issuing lane has TYPE 6 or 7. -/
def Cls.admits (c : Cls) (wide : Bool) (x : Nat) : Bool :=
  let pairOk := (decide (x < 0xE0) && x % 2 == 0) || x == 0xFE
  match c with
  | .any => true
  | .pr => decide (0xF0 ≤ x) && decide (x ≤ 0xF7)
  | .pair => pairOk
  | .vreg => decide (x < 0xC0)
  | .vpair => decide (x < 0xC0) && x % 2 == 0
  | .typed => !wide || pairOk
  | .typedRun => if wide then decide (x < 0xE0) else pairOk
  | .run _ => decide (x < 0xE0)
  | .vrun _ => decide (x < 0xC0)
  | .index n => decide (x < n)

/-- How many registers a field names from its code on. -/
def Cls.span (c : Cls) (wide : Bool) (x : Nat) : Nat :=
  match c with
  | .any => 1
  | .pr => 1
  | .vreg => 1
  | .pair => if x = 0xFE then 1 else 2
  | .vpair => 2
  | .typed => if wide && x != 0xFE then 2 else 1
  | .typedRun => if wide then 4 else if x = 0xFE then 1 else 2
  | .run n => n
  | .vrun n => n
  | .index _ => 0

/-- A v register at or above 16 × banks, or a run past s31 (R44, R109, R154). -/
def Opnd.outOfRange (o : Opnd) (wide : Bool) (banks : Nat) : Bool :=
  let n := o.cls.span wide o.code
  n != 0 &&
    (if o.code < 0xC0 then decide (16 * banks < o.code + n)
     else decide (1 < n) && decide (o.code < 0xE0) && decide (0xE0 < o.code + n))

/-- Register codes of an operand. -/
def Opnd.codes (o : Opnd) (wide : Bool) : List Nat := (List.range (o.cls.span wide o.code)).map (o.code + ·)

/-- The operands of each instruction, in the order D, A, B, then what it reads or writes without naming it (k,
the predicates). -/
def opnds : Instr → List Opnd
  | .nop => []
  | .mov d a => [⟨d.toNat, .any, false, true⟩, ⟨a.toNat, .any, true, false⟩]
  | .sel d a b => [⟨d.toNat, .any, true, true⟩, ⟨a.toNat, .any, true, false⟩, ⟨b.toNat, .any, true, false⟩]
  | .add d a b => [⟨d.toNat, .any, false, true⟩, ⟨a.toNat, .any, true, false⟩, ⟨b.toNat, .any, true, false⟩]
  | .sub d a b => [⟨d.toNat, .any, false, true⟩, ⟨a.toNat, .any, true, false⟩, ⟨b.toNat, .any, true, false⟩]
  | .mul d a b => [⟨d.toNat, .any, false, true⟩, ⟨a.toNat, .any, true, false⟩, ⟨b.toNat, .any, true, false⟩]
  | .mulh d a b => [⟨d.toNat, .any, false, true⟩, ⟨a.toNat, .any, true, false⟩, ⟨b.toNat, .any, true, false⟩]
  | .mulw d a b => [⟨d.toNat, .pair, false, true⟩, ⟨a.toNat, .any, true, false⟩, ⟨b.toNat, .any, true, false⟩]
  | .mad d a b => [⟨d.toNat, .any, true, true⟩, ⟨a.toNat, .any, true, false⟩, ⟨b.toNat, .any, true, false⟩]
  | .div d a b => [⟨d.toNat, .any, false, true⟩, ⟨a.toNat, .any, true, false⟩, ⟨b.toNat, .any, true, false⟩]
  | .rem d a b => [⟨d.toNat, .any, false, true⟩, ⟨a.toNat, .any, true, false⟩, ⟨b.toNat, .any, true, false⟩]
  | .imin d a b => [⟨d.toNat, .any, false, true⟩, ⟨a.toNat, .any, true, false⟩, ⟨b.toNat, .any, true, false⟩]
  | .imax d a b => [⟨d.toNat, .any, false, true⟩, ⟨a.toNat, .any, true, false⟩, ⟨b.toNat, .any, true, false⟩]
  | .abs d a => [⟨d.toNat, .any, false, true⟩, ⟨a.toNat, .any, true, false⟩]
  | .neg d a => [⟨d.toNat, .any, false, true⟩, ⟨a.toNat, .any, true, false⟩]
  | .add64 d a b => [⟨d.toNat, .pair, false, true⟩, ⟨a.toNat, .pair, true, false⟩, ⟨b.toNat, .pair, true, false⟩]
  | .sub64 d a b => [⟨d.toNat, .pair, false, true⟩, ⟨a.toNat, .pair, true, false⟩, ⟨b.toNat, .pair, true, false⟩]
  | .bAnd d a b => [⟨d.toNat, .any, false, true⟩, ⟨a.toNat, .any, true, false⟩, ⟨b.toNat, .any, true, false⟩]
  | .bOr d a b => [⟨d.toNat, .any, false, true⟩, ⟨a.toNat, .any, true, false⟩, ⟨b.toNat, .any, true, false⟩]
  | .bXor d a b => [⟨d.toNat, .any, false, true⟩, ⟨a.toNat, .any, true, false⟩, ⟨b.toNat, .any, true, false⟩]
  | .bNot d a => [⟨d.toNat, .any, false, true⟩, ⟨a.toNat, .any, true, false⟩]
  | .andn d a b => [⟨d.toNat, .any, false, true⟩, ⟨a.toNat, .any, true, false⟩, ⟨b.toNat, .any, true, false⟩]
  | .shl d a b => [⟨d.toNat, .any, false, true⟩, ⟨a.toNat, .any, true, false⟩, ⟨b.toNat, .any, true, false⟩]
  | .shr d a b => [⟨d.toNat, .any, false, true⟩, ⟨a.toNat, .any, true, false⟩, ⟨b.toNat, .any, true, false⟩]
  | .sar d a b => [⟨d.toNat, .any, false, true⟩, ⟨a.toNat, .any, true, false⟩, ⟨b.toNat, .any, true, false⟩]
  | .rot d a b => [⟨d.toNat, .any, false, true⟩, ⟨a.toNat, .any, true, false⟩, ⟨b.toNat, .any, true, false⟩]
  | .popc d a => [⟨d.toNat, .any, false, true⟩, ⟨a.toNat, .any, true, false⟩]
  | .clz d a => [⟨d.toNat, .any, false, true⟩, ⟨a.toNat, .any, true, false⟩]
  | .ctz d a => [⟨d.toNat, .any, false, true⟩, ⟨a.toNat, .any, true, false⟩]
  | .brev d a => [⟨d.toNat, .any, false, true⟩, ⟨a.toNat, .any, true, false⟩]
  | .bfx d a b => [⟨d.toNat, .any, false, true⟩, ⟨a.toNat, .any, true, false⟩, ⟨b.toNat, .any, true, false⟩]
  | .bfi d a b => [⟨d.toNat, .any, true, true⟩, ⟨a.toNat, .any, true, false⟩, ⟨b.toNat, .any, true, false⟩]
  | .bmix d a b => [⟨d.toNat, .any, false, true⟩, ⟨a.toNat, .any, true, false⟩, ⟨b.toNat, .any, true, false⟩, kRead]
  | .lea d a b => [⟨d.toNat, .any, false, true⟩, ⟨a.toNat, .any, true, false⟩, ⟨b.toNat, .any, true, false⟩, kRead]
  | .lea64 d a b => [⟨d.toNat, .pair, false, true⟩, ⟨a.toNat, .pair, true, false⟩, ⟨b.toNat, .any, true, false⟩, kRead]
  | .cmpEq d a b => [⟨d.toNat, .pr, false, true⟩, ⟨a.toNat, .typed, true, false⟩, ⟨b.toNat, .typed, true, false⟩]
  | .cmpNe d a b => [⟨d.toNat, .pr, false, true⟩, ⟨a.toNat, .typed, true, false⟩, ⟨b.toNat, .typed, true, false⟩]
  | .cmpLt d a b => [⟨d.toNat, .pr, false, true⟩, ⟨a.toNat, .typed, true, false⟩, ⟨b.toNat, .typed, true, false⟩]
  | .cmpLe d a b => [⟨d.toNat, .pr, false, true⟩, ⟨a.toNat, .typed, true, false⟩, ⟨b.toNat, .typed, true, false⟩]
  | .cmpGt d a b => [⟨d.toNat, .pr, false, true⟩, ⟨a.toNat, .typed, true, false⟩, ⟨b.toNat, .typed, true, false⟩]
  | .cmpGe d a b => [⟨d.toNat, .pr, false, true⟩, ⟨a.toNat, .typed, true, false⟩, ⟨b.toNat, .typed, true, false⟩]
  | .pand d a b => [⟨d.toNat, .pr, false, true⟩, ⟨a.toNat, .pr, true, false⟩, ⟨b.toNat, .pr, true, false⟩]
  | .por d a b => [⟨d.toNat, .pr, false, true⟩, ⟨a.toNat, .pr, true, false⟩, ⟨b.toNat, .pr, true, false⟩]
  | .pxor d a b => [⟨d.toNat, .pr, false, true⟩, ⟨a.toNat, .pr, true, false⟩, ⟨b.toNat, .pr, true, false⟩]
  | .pnot d a => [⟨d.toNat, .pr, false, true⟩, ⟨a.toNat, .pr, true, false⟩]
  | .p2v d => [⟨d.toNat, .any, false, true⟩, ⟨240, .pr, true, false⟩, ⟨241, .pr, true, false⟩, ⟨242, .pr, true, false⟩, ⟨243, .pr, true, false⟩, ⟨244, .pr, true, false⟩, ⟨245, .pr, true, false⟩, ⟨246, .pr, true, false⟩]
  | .v2p a => [⟨a.toNat, .any, true, false⟩, ⟨240, .pr, false, true⟩, ⟨241, .pr, false, true⟩, ⟨242, .pr, false, true⟩, ⟨243, .pr, false, true⟩, ⟨244, .pr, false, true⟩, ⟨245, .pr, false, true⟩, ⟨246, .pr, false, true⟩]
  | .xchIdx d a b => [⟨d.toNat, .any, false, true⟩, ⟨a.toNat, .any, true, false⟩, ⟨b.toNat, .any, true, false⟩]
  | .xchXor d a b => [⟨d.toNat, .any, false, true⟩, ⟨a.toNat, .any, true, false⟩, ⟨b.toNat, .any, true, false⟩]
  | .xchUp d a b => [⟨d.toNat, .any, false, true⟩, ⟨a.toNat, .any, true, false⟩, ⟨b.toNat, .any, true, false⟩]
  | .xchDn d a b => [⟨d.toNat, .any, false, true⟩, ⟨a.toNat, .any, true, false⟩, ⟨b.toNat, .any, true, false⟩]
  | .lnany d a => [⟨d.toNat, .pr, false, true⟩, ⟨a.toNat, .any, true, false⟩]
  | .lnall d a => [⟨d.toNat, .pr, false, true⟩, ⟨a.toNat, .any, true, false⟩]
  | .lnmask d a => [⟨d.toNat, .pair, false, true⟩, ⟨a.toNat, .any, true, false⟩]
  | .rdlane d a b => [⟨d.toNat, .any, false, true⟩, ⟨a.toNat, .any, true, false⟩, ⟨b.toNat, .any, true, false⟩]
  | .wrlane d a b => [⟨d.toNat, .vreg, false, true⟩, ⟨a.toNat, .any, true, false⟩, ⟨b.toNat, .any, true, false⟩]
  | .iredAdd d a => [⟨d.toNat, .any, false, true⟩, ⟨a.toNat, .any, true, false⟩]
  | .iredMin d a => [⟨d.toNat, .any, false, true⟩, ⟨a.toNat, .any, true, false⟩]
  | .iredMax d a => [⟨d.toNat, .any, false, true⟩, ⟨a.toNat, .any, true, false⟩]
  | .iscanAdd d a => [⟨d.toNat, .any, false, true⟩, ⟨a.toNat, .any, true, false⟩]
  | .lneq d a => [⟨d.toNat, .pair, false, true⟩, ⟨a.toNat, .any, true, false⟩, kRead]
  | .fadd d a b => [⟨d.toNat, .any, false, true⟩, ⟨a.toNat, .any, true, false⟩, ⟨b.toNat, .any, true, false⟩]
  | .fsub d a b => [⟨d.toNat, .any, false, true⟩, ⟨a.toNat, .any, true, false⟩, ⟨b.toNat, .any, true, false⟩]
  | .fmul d a b => [⟨d.toNat, .any, false, true⟩, ⟨a.toNat, .any, true, false⟩, ⟨b.toNat, .any, true, false⟩]
  | .fma d a b => [⟨d.toNat, .any, true, true⟩, ⟨a.toNat, .any, true, false⟩, ⟨b.toNat, .any, true, false⟩]
  | .fms d a b => [⟨d.toNat, .any, true, true⟩, ⟨a.toNat, .any, true, false⟩, ⟨b.toNat, .any, true, false⟩]
  | .fnma d a b => [⟨d.toNat, .any, true, true⟩, ⟨a.toNat, .any, true, false⟩, ⟨b.toNat, .any, true, false⟩]
  | .fmin d a b => [⟨d.toNat, .any, false, true⟩, ⟨a.toNat, .any, true, false⟩, ⟨b.toNat, .any, true, false⟩]
  | .fmax d a b => [⟨d.toNat, .any, false, true⟩, ⟨a.toNat, .any, true, false⟩, ⟨b.toNat, .any, true, false⟩]
  | .fabs d a => [⟨d.toNat, .any, false, true⟩, ⟨a.toNat, .any, true, false⟩]
  | .fneg d a => [⟨d.toNat, .any, false, true⟩, ⟨a.toNat, .any, true, false⟩]
  | .fcmpEq d a b => [⟨d.toNat, .pr, false, true⟩, ⟨a.toNat, .any, true, false⟩, ⟨b.toNat, .any, true, false⟩]
  | .fcmpNe d a b => [⟨d.toNat, .pr, false, true⟩, ⟨a.toNat, .any, true, false⟩, ⟨b.toNat, .any, true, false⟩]
  | .fcmpLt d a b => [⟨d.toNat, .pr, false, true⟩, ⟨a.toNat, .any, true, false⟩, ⟨b.toNat, .any, true, false⟩]
  | .fcmpLe d a b => [⟨d.toNat, .pr, false, true⟩, ⟨a.toNat, .any, true, false⟩, ⟨b.toNat, .any, true, false⟩]
  | .fcmpUn d a b => [⟨d.toNat, .pr, false, true⟩, ⟨a.toNat, .any, true, false⟩, ⟨b.toNat, .any, true, false⟩]
  | .fclass d a => [⟨d.toNat, .any, false, true⟩, ⟨a.toNat, .any, true, false⟩]
  | .frcp d a => [⟨d.toNat, .any, false, true⟩, ⟨a.toNat, .any, true, false⟩]
  | .frsq d a => [⟨d.toNat, .any, false, true⟩, ⟨a.toNat, .any, true, false⟩]
  | .fsqrt d a => [⟨d.toNat, .any, false, true⟩, ⟨a.toNat, .any, true, false⟩]
  | .fdiv d a b => [⟨d.toNat, .any, false, true⟩, ⟨a.toNat, .any, true, false⟩, ⟨b.toNat, .any, true, false⟩]
  | .fexp2 d a => [⟨d.toNat, .any, false, true⟩, ⟨a.toNat, .any, true, false⟩]
  | .flog2 d a => [⟨d.toNat, .any, false, true⟩, ⟨a.toNat, .any, true, false⟩]
  | .fsin d a => [⟨d.toNat, .any, false, true⟩, ⟨a.toNat, .any, true, false⟩]
  | .fcos d a => [⟨d.toNat, .any, false, true⟩, ⟨a.toNat, .any, true, false⟩]
  | .ftanh d a => [⟨d.toNat, .any, false, true⟩, ⟨a.toNat, .any, true, false⟩]
  | .fsigm d a => [⟨d.toNat, .any, false, true⟩, ⟨a.toNat, .any, true, false⟩]
  | .frnd d a => [⟨d.toNat, .any, false, true⟩, ⟨a.toNat, .any, true, false⟩]
  | .fdot2 d a b => [⟨d.toNat, .any, true, true⟩, ⟨a.toNat, .any, true, false⟩, ⟨b.toNat, .any, true, false⟩]
  | .fdot4 d a b => [⟨d.toNat, .any, true, true⟩, ⟨a.toNat, .any, true, false⟩, ⟨b.toNat, .any, true, false⟩]
  | .idot4 d a b => [⟨d.toNat, .any, true, true⟩, ⟨a.toNat, .any, true, false⟩, ⟨b.toNat, .any, true, false⟩]
  | .cvtF2i d a => [⟨d.toNat, .typed, false, true⟩, ⟨a.toNat, .any, true, false⟩]
  | .cvtI2f d a => [⟨d.toNat, .any, false, true⟩, ⟨a.toNat, .typed, true, false⟩]
  | .cvtUpLo d a => [⟨d.toNat, .any, false, true⟩, ⟨a.toNat, .any, true, false⟩]
  | .cvtUpHi d a => [⟨d.toNat, .any, false, true⟩, ⟨a.toNat, .any, true, false⟩]
  | .cvtDn d a b => [⟨d.toNat, .any, false, true⟩, ⟨a.toNat, .any, true, false⟩, ⟨b.toNat, .any, true, false⟩]
  | .cvtDn4 d a b => [⟨d.toNat, .any, false, true⟩, ⟨a.toNat, .pair, true, false⟩, ⟨b.toNat, .pair, true, false⟩]
  | .qblk d a => [⟨d.toNat, (.vrun 5), false, true⟩, ⟨a.toNat, (.vrun 32), true, false⟩]
  | .dqblk d a b => [⟨d.toNat, .any, false, true⟩, ⟨a.toNat, (.vrun 5), true, false⟩, ⟨b.toNat, .any, true, false⟩]
  | .nibpk d a b => [⟨d.toNat, .any, false, true⟩, ⟨a.toNat, .any, true, false⟩, ⟨b.toNat, .any, true, false⟩]
  | .fredAdd d a => [⟨d.toNat, .any, false, true⟩, ⟨a.toNat, .any, true, false⟩]
  | .fredMax d a => [⟨d.toNat, .any, false, true⟩, ⟨a.toNat, .any, true, false⟩]
  | .fscanAdd d a => [⟨d.toNat, .any, false, true⟩, ⟨a.toNat, .any, true, false⟩]
  | .argmax d a b => [⟨d.toNat, .pair, false, true⟩, ⟨a.toNat, .any, true, false⟩, ⟨b.toNat, .any, true, false⟩]
  | .rand d => [⟨d.toNat, .any, false, true⟩]
  | .randf d => [⟨d.toNat, .any, false, true⟩]
  | .smxup d a => [⟨d.toNat, .pair, true, true⟩, ⟨a.toNat, .any, true, false⟩]
  | .mcolAlloc d a b => [⟨d.toNat, (.index 256), false, false⟩, ⟨a.toNat, .any, true, false⟩, ⟨b.toNat, .pr, false, true⟩]
  | .mcolFree d => [⟨d.toNat, (.index 256), false, false⟩]
  | .mtileLd d a b _ => [⟨d.toNat, (.index 256), false, false⟩, ⟨a.toNat, .pair, true, false⟩, ⟨b.toNat, .any, true, false⟩]
  | .mtileSt d a b _ => [⟨d.toNat, .pair, true, false⟩, ⟨a.toNat, (.index 256), false, false⟩, ⟨b.toNat, .any, true, false⟩]
  | .mtileHdr d a => [⟨d.toNat, (.index 256), false, false⟩, ⟨a.toNat, (.run 4), true, false⟩]
  | .mwload d a _ => [⟨d.toNat, (.index 2), false, false⟩, ⟨a.toNat, (.index 256), false, false⟩]
  | .mwswap d _ => [⟨d.toNat, (.index 2), false, false⟩]
  | .mma d a b _ => [⟨d.toNat, (.index 256), false, false⟩, ⟨a.toNat, (.index 2), false, false⟩, ⟨b.toNat, (.index 256), false, false⟩, kRead]
  | .mmaSp d a b _ => [⟨d.toNat, (.index 256), false, false⟩, ⟨a.toNat, (.index 2), false, false⟩, ⟨b.toNat, (.index 256), false, false⟩, kRead]
  | .maccZero d a _ => [⟨d.toNat, (.index 256), false, false⟩, ⟨a.toNat, (.index 2), false, false⟩]
  | .maccRd d a b _ => [⟨d.toNat, (.vrun 16), false, true⟩, ⟨a.toNat, (.index 2), false, false⟩, ⟨b.toNat, (.index 256), false, false⟩, kRead]
  | .mcfg a => [⟨a.toNat, .any, true, false⟩]
  | .ld d a b => [⟨d.toNat, .any, false, true⟩, ⟨a.toNat, .pair, true, false⟩, ⟨b.toNat, .any, true, false⟩]
  | .ldX2 d a b => [⟨d.toNat, .pair, false, true⟩, ⟨a.toNat, .pair, true, false⟩, ⟨b.toNat, .any, true, false⟩]
  | .ldX4 d a b => [⟨d.toNat, (.vrun 4), false, true⟩, ⟨a.toNat, .pair, true, false⟩, ⟨b.toNat, .any, true, false⟩]
  | .st d a b => [⟨d.toNat, .pair, true, false⟩, ⟨a.toNat, .any, true, false⟩, ⟨b.toNat, .any, true, false⟩, kRead]
  | .stX2 d a b => [⟨d.toNat, .pair, true, false⟩, ⟨a.toNat, .pair, true, false⟩, ⟨b.toNat, .any, true, false⟩]
  | .stX4 d a b => [⟨d.toNat, .pair, true, false⟩, ⟨a.toNat, (.run 4), true, false⟩, ⟨b.toNat, .any, true, false⟩]
  | .lds d a b => [⟨d.toNat, .any, false, true⟩, ⟨a.toNat, .any, true, false⟩, ⟨b.toNat, .any, true, false⟩]
  | .ldsX4 d a b => [⟨d.toNat, (.vrun 4), false, true⟩, ⟨a.toNat, .any, true, false⟩, ⟨b.toNat, .any, true, false⟩]
  | .sts d a b => [⟨d.toNat, .any, true, false⟩, ⟨a.toNat, .any, true, false⟩, ⟨b.toNat, .any, true, false⟩, kRead]
  | .stsX4 d a b => [⟨d.toNat, .any, true, false⟩, ⟨a.toNat, (.run 4), true, false⟩, ⟨b.toNat, .any, true, false⟩]
  | .ldAcq d a b => [⟨d.toNat, .any, false, true⟩, ⟨a.toNat, .pair, true, false⟩, ⟨b.toNat, .any, true, false⟩]
  | .stRel d a b => [⟨d.toNat, .pair, true, false⟩, ⟨a.toNat, .any, true, false⟩, ⟨b.toNat, .any, true, false⟩, kRead]
  | .atomAdd d a b => [⟨d.toNat, .typed, false, true⟩, ⟨a.toNat, .pair, true, false⟩, ⟨b.toNat, .typed, true, false⟩]
  | .atomMin d a b => [⟨d.toNat, .typed, false, true⟩, ⟨a.toNat, .pair, true, false⟩, ⟨b.toNat, .typed, true, false⟩]
  | .atomMax d a b => [⟨d.toNat, .typed, false, true⟩, ⟨a.toNat, .pair, true, false⟩, ⟨b.toNat, .typed, true, false⟩]
  | .atomAnd d a b => [⟨d.toNat, .typed, false, true⟩, ⟨a.toNat, .pair, true, false⟩, ⟨b.toNat, .typed, true, false⟩]
  | .atomOr d a b => [⟨d.toNat, .typed, false, true⟩, ⟨a.toNat, .pair, true, false⟩, ⟨b.toNat, .typed, true, false⟩]
  | .atomXor d a b => [⟨d.toNat, .typed, false, true⟩, ⟨a.toNat, .pair, true, false⟩, ⟨b.toNat, .typed, true, false⟩]
  | .atomXchg d a b => [⟨d.toNat, .typed, false, true⟩, ⟨a.toNat, .pair, true, false⟩, ⟨b.toNat, .typed, true, false⟩]
  | .atomCas d a b => [⟨d.toNat, .typed, false, true⟩, ⟨a.toNat, .pair, true, false⟩, ⟨b.toNat, .typedRun, true, false⟩]
  | .atomFadd d a b => [⟨d.toNat, .any, false, true⟩, ⟨a.toNat, .pair, true, false⟩, ⟨b.toNat, .any, true, false⟩]
  | .redAdd a b => [⟨a.toNat, .pair, true, false⟩, ⟨b.toNat, .typed, true, false⟩]
  | .atomsAdd d a b => [⟨d.toNat, .any, false, true⟩, ⟨a.toNat, .any, true, false⟩, ⟨b.toNat, .any, true, false⟩]
  | .atomsCas d a b => [⟨d.toNat, .any, false, true⟩, ⟨a.toNat, .any, true, false⟩, ⟨b.toNat, .pair, true, false⟩]
  | .fence => []
  | .fenceBank => []
  | .stashMap d a b => [⟨d.toNat, .any, true, false⟩, ⟨a.toNat, .pair, true, false⟩, ⟨b.toNat, .any, true, false⟩]
  | .stashWb a b => [⟨a.toNat, .any, true, false⟩, ⟨b.toNat, .any, true, false⟩]
  | .stashInv a b => [⟨a.toNat, .any, true, false⟩, ⟨b.toNat, .any, true, false⟩]
  | .mdead a => [⟨a.toNat, .pair, true, false⟩]
  | .pref a b => [⟨a.toNat, .pair, true, false⟩, ⟨b.toNat, .any, true, false⟩]
  | .movCpy d a b _ => [⟨d.toNat, .pair, true, false⟩, ⟨a.toNat, .pair, true, false⟩, ⟨b.toNat, .any, true, false⟩]
  | .movGth d a b _ => [⟨d.toNat, .pair, true, false⟩, ⟨a.toNat, .vpair, true, false⟩, ⟨b.toNat, .any, true, false⟩]
  | .movSct d a b _ => [⟨d.toNat, .vpair, true, false⟩, ⟨a.toNat, .pair, true, false⟩, ⟨b.toNat, .any, true, false⟩]
  | .putCmd d a b _ => [⟨d.toNat, .pair, true, false⟩, ⟨a.toNat, .pair, true, false⟩, ⟨b.toNat, .any, true, false⟩]
  | .getCmd d a b _ => [⟨d.toNat, .pair, true, false⟩, ⟨a.toNat, .pair, true, false⟩, ⟨b.toNat, .any, true, false⟩]
  | .ratom d a b _ => [⟨d.toNat, .vpair, false, true⟩, ⟨a.toNat, .vpair, true, false⟩, ⟨b.toNat, .vpair, true, false⟩, kRead]
  | .bopAdd d a b _ => [⟨d.toNat, .pair, true, false⟩, ⟨a.toNat, .pair, true, false⟩, ⟨b.toNat, .pair, true, false⟩, kRead]
  | .bopAxpy d a b _ => [⟨d.toNat, .pair, true, false⟩, ⟨a.toNat, .pair, true, false⟩, ⟨b.toNat, .any, true, false⟩, kRead]
  | .bopMax d a b _ => [⟨d.toNat, .pair, true, false⟩, ⟨a.toNat, .pair, true, false⟩, ⟨b.toNat, .pair, true, false⟩, kRead]
  | .bopCvt d a b _ => [⟨d.toNat, .pair, true, false⟩, ⟨a.toNat, .pair, true, false⟩, ⟨b.toNat, .any, true, false⟩, kRead]
  | .bopFill d b _ => [⟨d.toNat, .pair, true, false⟩, ⟨b.toNat, .any, true, false⟩, kRead]
  | .collAr d a b _ => [⟨d.toNat, .pair, true, false⟩, ⟨a.toNat, .pair, true, false⟩, ⟨b.toNat, .any, true, false⟩, kRead]
  | .collAg d a b _ => [⟨d.toNat, .pair, true, false⟩, ⟨a.toNat, .pair, true, false⟩, ⟨b.toNat, .any, true, false⟩, kRead]
  | .collRs d a b _ => [⟨d.toNat, .pair, true, false⟩, ⟨a.toNat, .pair, true, false⟩, ⟨b.toNat, .any, true, false⟩, kRead]
  | .collA2a d a b _ => [⟨d.toNat, .pair, true, false⟩, ⟨a.toNat, .pair, true, false⟩, ⟨b.toNat, .any, true, false⟩, kRead]
  | .collBc d a b _ => [⟨d.toNat, .pair, true, false⟩, ⟨a.toNat, .pair, true, false⟩, ⟨b.toNat, .any, true, false⟩, kRead]
  | .mode _ => []
  | .lit _ => [kWrite]
  | .lith _ => [kRead, kWrite]
  | .bra _ => []
  | .call _ => []
  | .ret => []
  | .jmp a => [⟨a.toNat, .pair, true, false⟩]
  | .cbarSet d => [⟨d.toNat, (.index 8), false, false⟩]
  | .cbarWait d => [⟨d.toNat, (.index 8), false, false⟩]
  | .callm d a b => [⟨d.toNat, (.index 256), false, false⟩, ⟨a.toNat, (.index 256), false, false⟩, ⟨b.toNat, (.index 256), false, false⟩, kRead]
  | .mstore a b => [⟨a.toNat, .any, true, false⟩, ⟨b.toNat, .any, true, false⟩]
  | .suspGroup _ _ => []
  | .syncGroup _ _ => []
  | .arrive d => [⟨d.toNat, (.index 128), false, false⟩]
  | .endGroup _ => []
  | .yieldGroup => []
  | .chOpen d a => [⟨d.toNat, (.index 16), false, false⟩, ⟨a.toNat, .any, true, false⟩]
  | .chClose d a => [⟨d.toNat, (.index 16), false, false⟩, ⟨a.toNat, .any, true, false⟩]
  | .semaAdd d a => [⟨d.toNat, (.index 256), false, false⟩, ⟨a.toNat, .any, true, false⟩]
  | .semaRd d a => [⟨d.toNat, .any, false, true⟩, ⟨a.toNat, (.index 256), false, false⟩]
  | .taskPost d a b _ => [⟨d.toNat, .any, false, true⟩, ⟨a.toNat, .pair, true, false⟩, ⟨b.toNat, .any, true, false⟩]
  | .taskDep a b => [⟨a.toNat, .any, true, false⟩, ⟨b.toNat, .any, true, false⟩]
  | .taskSig a b => [⟨a.toNat, .any, true, false⟩, ⟨b.toNat, .any, true, false⟩]
  | .taskPull d a b => [⟨d.toNat, .any, false, true⟩, ⟨a.toNat, .any, true, false⟩, ⟨b.toNat, .any, true, false⟩]
  | .launch d a b _ => [⟨d.toNat, .any, false, true⟩, ⟨a.toNat, .pair, true, false⟩, ⟨b.toNat, .any, true, false⟩]
  | .tokNew d a => [⟨d.toNat, .any, false, true⟩, ⟨a.toNat, (.vrun 16), true, false⟩]
  | .tokRd d a b => [⟨d.toNat, .any, false, true⟩, ⟨a.toNat, .any, true, false⟩, ⟨b.toNat, .any, true, false⟩]
  | .tokWr d a b => [⟨d.toNat, .any, true, false⟩, ⟨a.toNat, .any, true, false⟩, ⟨b.toNat, .any, true, false⟩]
  | .tokNext a => [⟨a.toNat, .any, true, false⟩]
  | .tokSend a b _ => [⟨a.toNat, .any, true, false⟩, ⟨b.toNat, .any, true, false⟩]
  | .tokRet a => [⟨a.toNat, .any, true, false⟩]
  | .trap _ => []
  | .rte => []
  | .sregRd d a => [⟨d.toNat, .any, false, true⟩, ⟨a.toNat, .any, true, false⟩]
  | .sregWr a b => [⟨a.toNat, .any, true, false⟩, ⟨b.toNat, .any, true, false⟩]
  | .opreg d a => [⟨d.toNat, .any, false, true⟩, ⟨a.toNat, .pair, true, false⟩]
  | .beltSet d a => [⟨d.toNat, .any, false, true⟩, ⟨a.toNat, .pair, true, false⟩]
  | .traySet d a => [⟨d.toNat, .any, false, true⟩, ⟨a.toNat, .pair, true, false⟩]
  | .genRaise d a => [⟨d.toNat, .any, false, true⟩, ⟨a.toNat, .any, true, false⟩]
  | .ctxSave d a b _ => [⟨d.toNat, .pair, true, false⟩, ⟨a.toNat, .pair, true, false⟩, ⟨b.toNat, .any, true, false⟩]
  | .ctxLoad d a b _ => [⟨d.toNat, .any, false, true⟩, ⟨a.toNat, .pair, true, false⟩, ⟨b.toNat, .any, true, false⟩]
  | .halt => []
  | .census d a b => [⟨d.toNat, .any, false, true⟩, ⟨a.toNat, .any, true, false⟩, ⟨b.toNat, .any, true, false⟩]
  | .pmcSnap d => [⟨d.toNat, .any, false, true⟩]
  | .illegalOpcode _ => []
  | .storeEntryExec => []
  | .trapBackoffExpiry _ _ => []
  | .pathRunLimit _ => []
  | .groupStarved _ => []
  | .translationAnswer _ _ => []
  | .loadReturn _ => []
  | .accessFailureReturn _ _ _ => []
  | .boundaryTaken _ => []
  | .continuationDispatch _ => []
  | .convergenceFault _ => []
  | .commandStart _ => []
  | .semaAddApply _ => []
  | .mtileComplete _ => []
  | .mwloadComplete _ => []
  | .mwswapDone _ => []
  | .mmaComplete _ => []
  | .maccZeroComplete _ => []
  | .maccRdComplete _ => []
  | .mcfgEffect _ => []
  | .moverComplete _ => []
  | .putGetComplete _ => []
  | .ratomComplete _ => []
  | .bankPiece _ => []
  | .collectiveComplete _ => []
  | .collectiveAbort _ => []
  | .taskPostComplete _ => []
  | .launchRootAnswer _ => []
  | .tokenArrival _ => []
  | .tokSendOutcome _ => []
  | .ctxSaveComplete _ => []
  | .ctxLoadComplete _ => []
  | .dependantDecrement _ => []
  | .trailingPutAck _ => []
  | .trailingPutFail _ => []
  | .faultedEntryRelease _ => []
  | .readyAging _ => []
  | .taskDispatch _ _ _ _ => []
  | .drainRetake _ => []
  | .taskKill _ => []
  | .pullServed _ _ => []
  | .pullTimeout _ => []
  | .rangeDistribution _ => []
  | .heldPartPlaced _ _ => []
  | .chunkDispatch _ _ _ _ => []
  | .quadSteal _ _ => []
  | .dieStealRequest _ _ => []
  | .gatherComplete _ _ => []
  | .trayTimeout _ _ => []
  | .deferredTileFire _ _ => []
  | .beltSlotActive _ _ => []
  | .preloadComplete _ _ => []
  | .readoutComplete _ _ => []
  | .submissionLaunch _ _ => []
  | .submissionRequest _ => []
  | .submissionReserved _ => []
  | .submissionComplete _ _ => []
  | .doorbellWrite _ _ _ => []
  | .cxlMemRead _ _ => []
  | .cxlMemWrite _ _ _ => []
  | .hostSnoop _ => []
  | .cxlLinkDown _ => []
  | .remoteRequest _ => []
  | .stashRecall _ _ _ => []
  | .flitCrcError _ _ => []
  | .guardDrop _ _ => []
  | .ualinkBadTransaction _ _ => []
  | .ualinkPortDown _ _ => []
  | .peerLossTimeout _ _ => []
  | .dieSilenceLoss _ => []
  | .lossNotice _ _ => []
  | .lateAnswer _ => []
  | .ethCompletion _ => []
  | .ethRetryExhausted _ => []
  | .hlbWalkComplete _ _ _ _ => []
  | .ctcWalkComplete _ _ _ _ => []
  | .fresWrite _ _ => []
  | .streamLoaderAnswer _ => []
  | .genRaisePhaseEnd _ => []
  | .replicationEpoch _ => []
  | .pageCountDecay _ => []
  | .swapStart _ _ => []
  | .swapRemap _ _ => []
  | .deadPageZeroFill _ _ => []
  | .powerWindow _ _ => []
  | .sidebandExchange _ => []
  | .creditMessage _ => []
  | .lostGrantReturn _ => []
  | .borrowTimeout _ => []
  | .thermalHigh _ => []
  | .thermalRecover _ => []
  | .thermalTamper _ => []
  | .glitchAlarm _ => []
  | .debugAuthFail _ => []
  | .regulationFail _ => []
  | .powerOn _ _ _ => []
  | .dieBodyCheck _ _ => []
  | .spdmRequest _ _ => []
  | .errorDetected _ _ _ _ _ => []
  | .residueMismatch _ _ _ => []
  | .selfTestComplete _ _ _ => []
  | .scrubPass _ _ => []
  | .contextKill _ => []
  | .keyGenerate _ _ => []
  | .keyErase _ _ => []
  | .lbarAllocate _ _ _ => []
  | .lbarFree _ _ _ => []
  | .hctlKill _ => []
  | .alarmpolWrite _ _ => []
  | .registerWrite _ _ _ => []
  | .dbgRevocation _ => []
  | .debugResume _ => []
  | .scanSessionOpen _ _ _ _ => []
  | .scanStopEvent _ _ => []
  | .scanGating _ => []
  | .scanSessionEnd _ => []
  | .writeAcknowledgement _ => []
  | .taskSigDecrement _ => []
  | .taskDepAnswer _ => []
  | .collectiveFlitArrival _ _ _ => []
  | .ethFrameReceived _ _ => []
  | .stewardReclaim _ _ => []
  | .barrierArrivalMessage _ => []
  | .debugAgentHalt _ => []
  | .debugEditStage _ _ _ _ => []

/-- Whether every field is of its class. -/
def opndsOk (i : Instr) (wide : Bool) : Bool := (opnds i).all fun o => o.cls.admits wide o.code
def opndsInRange (i : Instr) (wide : Bool) (banks : Nat) : Bool := (opnds i).all fun o => !o.outOfRange wide banks

end Sys2Proof.Machine
end

