-- ==== Sys2Proof/Machine/Numeric.lean ====
section
/-! DEFINITION. Exact values and the functions of the floating-point block: sums, products, quotients, roots and
the correctly rounded transcendental functions (R111, R115, R119, R120), conversions (R84), the PXF4 block
(R85 to R87). -/
namespace Sys2Proof.Machine

/-- An exact dyadic real m * 2^e. -/
structure Dy where
  m : Int
  e : Int
  deriving DecidableEq, Repr

def Dy.add (a b : Dy) : Dy :=
  if a.m = 0 then b else if b.m = 0 then a else
  if a.e ≤ b.e then ⟨a.m + b.m * (2 ^ (b.e - a.e).toNat : Nat), a.e⟩
  else ⟨a.m * (2 ^ (a.e - b.e).toNat : Nat) + b.m, b.e⟩
def Dy.mul (a b : Dy) : Dy := ⟨a.m * b.m, a.e + b.e⟩
def Dy.neg (a : Dy) : Dy := ⟨-a.m, a.e⟩
def Dy.lt (a b : Dy) : Bool := decide ((a.add b.neg).m < 0)
def Dy.mag (a : Dy) : Mag := { n := a.m.natAbs, e := a.e }

def FVal.dy : FVal → Dy
  | .fin n m e => ⟨if n then -(m : Int) else m, e⟩
  | _ => ⟨0, 0⟩

/-- What an exact operation gives before its rounding (R111): a special value, or a signed magnitude; with
the flags the operation itself raises. -/
structure XRes where
  val : FVal           -- nan, inf, or fin 0/anything exact
  mag : Option Mag := none   -- a non-dyadic magnitude, with the sign of `val`
  flags : Nat := 0
  deriving DecidableEq, Repr

def xval (v : FVal) : XRes := { val := v }
def xinv : XRes := { val := .nan false, flags := flagNV }
/-- NaN result; NV if the operand was signalling (R112). -/
def xnan (anySnan : Bool) : XRes := { val := .nan false, flags := if anySnan then flagNV else 0 }

/-- Round an operation's result into a format (R111). -/
def finish (f : Fmt) (r : Rounding) (g : Nat) (x : XRes) : FRes :=
  match x.val with
  | .nan _ => { code := f.nanCode, flags := x.flags }
  | .inf n =>
    if f = .e4m3 then
      (if r.sat then { code := signBit f n + f.maxCode, flags := x.flags ||| flagSA }
       else { code := f.nanCode, flags := x.flags })
    else { code := signBit f n + f.infCode, flags := x.flags }
  | .fin n m e =>
    let y := rndMag f r g n (x.mag.getD { n := m, e := e })
    { y with flags := y.flags ||| x.flags }

def exactOf (d : Dy) (zeroNeg : Bool) : FVal :=
  if d.m = 0 then .fin zeroNeg 0 0 else .fin (decide (d.m < 0)) d.m.natAbs d.e

/-- Exact sum of terms none of which is NaN; infinities of both signs are invalid; the sign of an exact zero
is that of R76 (opposite signs: +0, or -0 under RDN). -/
def sumTerms (rm : Nat) (ts : List FVal) : XRes :=
  let pinf := ts.any (fun t => t.isInf && !t.sign)
  let ninf := ts.any (fun t => t.isInf && t.sign)
  if pinf && ninf then xinv
  else if pinf then xval (.inf false)
  else if ninf then xval (.inf true)
  else
    let d := ts.foldl (fun acc t => acc.add t.dy) ⟨0, 0⟩
    let allNeg := ts.all FVal.sign && !ts.isEmpty
    let allPos := ts.all (fun t => !t.sign)
    let zn := if allNeg then true else if allPos then false else rm == 2
    xval (exactOf d zn)

/-- The product of two operands that are not NaN; `none` for 0 × ∞. -/
def mulV (a b : FVal) : Option FVal :=
  match a, b with
  | .inf n, .inf k => some (.inf (n != k))
  | .inf n, .fin k m _ => if m = 0 then none else some (.inf (n != k))
  | .fin k m _, .inf n => if m = 0 then none else some (.inf (n != k))
  | .fin n m e, .fin k m' e' => some (.fin (n != k) (m * m') (e + e'))
  | _, _ => none

def anySnan (vs : List FVal) : Bool := vs.any FVal.isSnan
def anyNan (vs : List FVal) : Bool := vs.any FVal.isNan

/-- a + b (R115). -/
def fAdd (rm : Nat) (a b : FVal) : XRes :=
  if anyNan [a, b] then xnan (anySnan [a, b]) else sumTerms rm [a, b]
/-- a × b (R115). -/
def fMul (a b : FVal) : XRes :=
  if anyNan [a, b] then xnan (anySnan [a, b])
  else match mulV a b with
    | none => xinv
    | some p => xval p
/-- ±(a × b) ± c (R115). -/
def fFma (rm : Nat) (negP negC : Bool) (a b c : FVal) : XRes :=
  let bad := !(anyNan [a, b]) && (mulV a b).isNone
  if bad then xinv
  else if anyNan [a, b, c] then xnan (anySnan [a, b, c])
  else match mulV a b with
    | none => xinv
    | some p => sumTerms rm [if negP then p.negate else p, if negC then c.negate else c]

/-- The dot-product sum c + Σ aᵢ bᵢ (R122). -/
def fDot (rm : Nat) (c : FVal) (ps : List (FVal × FVal)) : XRes :=
  let ops := c :: (ps.map Prod.fst ++ ps.map Prod.snd)
  let bad := ps.any fun (a, b) => !(anyNan [a, b]) && (mulV a b).isNone
  if bad then { xinv with flags := flagNV }
  else if anyNan ops then xnan (anySnan ops)
  else sumTerms rm (c :: ps.map fun (a, b) => (mulV a b).getD (.nan false))

/-- Total order of R116 on operands that are not NaN: -0 below +0. -/
def ltV (a b : FVal) : Bool :=
  match a, b with
  | .inf n, .inf k => n && !k
  | .inf n, _ => n
  | _, .inf k => !k
  | .fin n m _, .fin k m' _ =>
    if m = 0 ∧ m' = 0 then n && !k else a.dy.lt b.dy
  | _, _ => false
/-- Numeric less-than: -0 equals +0 (R117). -/
def numLt (a b : FVal) : Bool :=
  match a, b with
  | .fin _ m _, .fin _ m' _ => if m = 0 ∧ m' = 0 then false else a.dy.lt b.dy
  | _, _ => ltV a b

/-- The greater (or lesser) of two operands; a NaN is passed over, two NaNs give NaN (R116). -/
def fMinMax (wantMax : Bool) (a b : FVal) : FVal :=
  match a.isNan, b.isNan with
  | true, true => .nan false
  | true, false => b
  | false, true => a
  | false, false => if wantMax then (if ltV a b then b else a) else (if ltV b a then b else a)

/-! ### Quotient and roots -/

/-- n / d as a magnitude with at least 96 leading bits. -/
def quotMag (n : Nat) (d : Nat) (e : Int) : Mag :=
  let k := 96 + bitLen d
  { n := n * 2 ^ k / d, e := e - k, sticky := n * 2 ^ k % d != 0 }

/-- a / b (R119, R120). -/
def fDiv (a b : FVal) : XRes :=
  if anyNan [a, b] then xnan (anySnan [a, b]) else
  let sg := a.sign != b.sign
  match a, b with
  | .inf _, .inf _ => xinv
  | .inf _, _ => xval (.inf sg)
  | _, .inf _ => xval (.fin sg 0 0)
  | .fin _ m e, .fin _ m' e' =>
    if m' = 0 then (if m = 0 then xinv else { val := .inf sg, flags := flagDZ })
    else if m = 0 then xval (.fin sg 0 0)
    else { val := .fin sg 1 0, mag := some (quotMag m m' (e - e')) }
  | _, _ => xnan false

/-- Integer square root, one result bit per unit of fuel. -/
def isqrtAux (n : Nat) : Nat → Nat → Nat
  | 0, r => r
  | k + 1, r =>
    let t := r + 2 ^ k
    isqrtAux n k (if t * t ≤ n then t else r)
def isqrt (n : Nat) : Nat := isqrtAux n (bitLen n / 2 + 1) 0

/-- √a (R119, R120). -/
def fSqrt (a : FVal) : XRes :=
  match a with
  | .nan s => xnan s
  | .inf n => if n then xinv else xval (.inf false)
  | .fin n m e =>
    if m = 0 then xval a else if n then xinv
    else
      let m1 := if e % 2 = 0 then m else 2 * m
      let e1 := if e % 2 = 0 then e else e - 1
      let w := m1 * 2 ^ 192
      let r := isqrt w
      { val := .fin false 1 0, mag := some { n := r, e := e1 / 2 - 96, sticky := r * r != w } }

/-- 1 / √a (R119, R120). -/
def fRsq (a : FVal) : XRes :=
  match a with
  | .nan s => xnan s
  | .inf n => if n then xinv else xval (.fin false 0 0)
  | .fin n m e =>
    if m = 0 then { val := .inf n, flags := flagDZ } else if n then xinv
    else
      let m1 := if e % 2 = 0 then m else 2 * m
      let e1 := if e % 2 = 0 then e else e - 1
      let k := 128 + bitLen m1
      let r := isqrt (2 ^ (2 * k) / m1)
      { val := .fin false 1 0, mag := some { n := r, e := -(e1 / 2) - k, sticky := r * r * m1 != 2 ^ (2 * k) } }

/-- 1 / a (R119, R120). -/
def fRcp (a : FVal) : XRes :=
  match a with
  | .fin n 0 _ => { val := .inf n, flags := flagDZ }
  | _ => fDiv (.fin false 1 0) a

/-! ### Transcendental functions

Each is evaluated in fixed point with `fxBits` fractional bits. The error of every evaluation below is far
under 2^40 units of the last place; the exact value of each function at an operand that reaches this code is
irrational, so the bits above 2^64 units are those of the exact value, with more below them (UNVERIFIED: no
operand of the formats is known for which 600 bits do not decide the rounding; log 13). -/

def fxBits : Nat := 704
def fxOne : Int := (2 ^ fxBits : Nat)
def fxMul (a b : Int) : Int := a * b / fxOne
def fxDiv (a b : Int) : Int := a * fxOne / b

/-- Σ over k of t·x^k/(c+1)…: the exponential series, `n` terms. -/
def expSer (x : Int) : Nat → Nat → Int → Int → Int
  | 0, _, _, acc => acc
  | n + 1, k, t, acc => let t' := fxMul t x / (k : Int); expSer x n (k + 1) t' (acc + t')
/-- e^x for a fixed-point x of magnitude below 1. -/
def fxExp (x : Int) : Int := expSer x 170 1 fxOne fxOne

/-- Σ z^(2k+1)/(2k+1). -/
def atanhSer (z2 : Int) : Nat → Nat → Int → Int → Int
  | 0, _, _, acc => acc
  | n + 1, k, p, acc => atanhSer z2 n (k + 1) (fxMul p z2) (acc + p / (2 * k + 1 : Int))
/-- ln of a ratio (num/den) between 1/2 and 2. -/
def fxLn (num den : Int) : Int :=
  let z := fxDiv (num - den) (num + den)
  2 * atanhSer (fxMul z z) 240 0 z 0
def fxLn2 : Int := fxLn 2 1

def atanSer (q2 : Int) : Nat → Nat → Int → Bool → Int → Int
  | 0, _, _, _, acc => acc
  | n + 1, k, p, s, acc =>
    let t := p / (2 * k + 1 : Int)
    atanSer q2 n (k + 1) (p / q2) (!s) (if s then acc - t else acc + t)
/-- π by 16·atan(1/5) - 4·atan(1/239). -/
def fxPi : Int := 16 * atanSer 25 160 0 (fxOne / 5) false 0 - 4 * atanSer (239 * 239) 50 0 (fxOne / 239) false 0

def sinSer (x2 : Int) : Nat → Nat → Int → Int → Int
  | 0, _, _, acc => acc
  | n + 1, k, t, acc =>
    let t' := -(fxMul t x2) / ((k : Int) * (k + 1))
    sinSer x2 n (k + 2) t' (acc + t')
def fxSin (x : Int) : Int := sinSer (fxMul x x) 100 2 x x
def fxCos (x : Int) : Int := sinSer (fxMul x x) 100 1 fxOne fxOne

/-- A dyadic value in fixed point, rounded toward minus infinity. -/
def fxOfDy (d : Dy) : Int :=
  let s : Int := d.e + fxBits
  if 0 ≤ s then d.m * (2 ^ s.toNat : Nat) else d.m / (2 ^ (-s).toNat : Nat)

/-- The magnitude of an irrational fixed-point value times 2^k: 64 low bits are dropped, and the rest sticks. -/
def fxMag (x : Int) (k : Int) : Mag := { n := (x / (2 ^ 64 : Nat)).toNat, e := 64 - (fxBits : Int) + k, sticky := true }

/-- 2^a (R119, R120). An integral a gives an exact power. -/
def fExp2 (a : FVal) : XRes :=
  match a with
  | .nan s => xnan s
  | .inf n => if n then xval (.fin false 0 0) else xval (.inf false)
  | .fin _ m e =>
    if m = 0 then xval (.fin false 1 0) else
    let d := a.dy
    if d.lt ⟨-1000, 0⟩ then { val := .fin false 1 0, mag := some { n := 0, e := -900, sticky := true } }
    else if (Dy.lt ⟨1000, 0⟩ d) then { val := .fin false 1 0, mag := some { n := 1, e := 900 } }
    else
      let fl : Int := if 0 ≤ e then d.m * (2 ^ e.toNat : Nat) else d.m / (2 ^ (-e).toNat : Nat)
      let fr := d.add ⟨-fl, 0⟩
      if fr.m = 0 then xval (.fin false 1 fl)
      else { val := .fin false 1 0, mag := some (fxMag (fxExp (fxMul (fxOfDy fr) fxLn2)) fl) }

/-- log₂ a (R119, R120). A power of two gives an exact integer. -/
def fLog2 (a : FVal) : XRes :=
  match a with
  | .nan s => xnan s
  | .inf n => if n then xinv else xval (.inf false)
  | .fin n m e =>
    if m = 0 then { val := .inf true, flags := flagDZ } else if n then xinv
    else
      let l := bitLen m - 1
      let ex : Int := e + l
      if m = 2 ^ l then xval (exactOf ⟨ex, 0⟩ false)
      else
        let v := fxDiv (fxLn m (2 ^ l : Nat)) fxLn2 + ex * fxOne
        if v < 0 then { val := .fin true 1 0, mag := some (fxMag (-v) 0) }
        else { val := .fin false 1 0, mag := some (fxMag v 0) }

/-- sin or cos of 2πa with a in turns (R119, R120). Both are exact when 4a is an integer. -/
def fSinCos (cosine : Bool) (a : FVal) : XRes :=
  match a with
  | .nan s => xnan s
  | .inf _ => xinv
  | .fin n m e =>
    if m = 0 then (if cosine then xval (.fin false 1 0) else xval a) else
    -- r: |a| mod 1 as a multiple of 2^-k
    let k : Nat := if e < 0 then (-e).toNat else 0
    let r : Nat := if e < 0 then m % 2 ^ k else 0
    let quad := 4 * r / 2 ^ k               -- quadrant 0 to 3
    let q := 4 * r % 2 ^ k                  -- place in it, over 2^k quarter turns
    if q = 0 then
      (if cosine then
        (if quad = 0 then xval (.fin false 1 0) else if quad = 2 then xval (.fin true 1 0) else xval (.fin false 0 0))
       else
        (if quad = 1 then xval (.fin n 1 0) else if quad = 3 then xval (.fin (!n) 1 0) else xval (.fin n 0 0)))
    else
      let x := fxMul (fxOfDy ⟨q, -(k : Int)⟩) (fxPi / 2)      -- angle inside the quadrant, 0 to π/2
      let useCos := (quad % 2 == 1) != cosine
      let v := if useCos then fxCos x else fxSin x
      let neg := if cosine then quad == 1 || quad == 2 else (decide (2 ≤ quad)) != n
      { val := .fin neg 1 0, mag := some (fxMag v 0) }

/-- e^(-y) for y ≥ 0 in fixed point (0 when y exceeds 480). -/
def fxExpNeg (y : Int) : Int :=
  let k := y / fxLn2
  let r := y - k * fxLn2
  fxExp (-r) / (2 ^ k.toNat : Nat)

/-- tanh a (R119, R120). -/
def fTanh (a : FVal) : XRes :=
  match a with
  | .nan s => xnan s
  | .inf n => xval (.fin n 1 0)
  | .fin n m _ =>
    if m = 0 then xval a else
    let d := a.absV.dy
    if Dy.lt ⟨100, 0⟩ d then { val := .fin n 1 0, mag := some { n := 2 ^ 200 - 1, e := -200, sticky := true } }
    else
      let t := fxExpNeg (2 * fxOfDy d)
      { val := .fin n 1 0, mag := some (fxMag (fxDiv (fxOne - t) (fxOne + t)) 0) }

/-- 1 / (1 + e^(-a)) (R119, R120). -/
def fSigm (a : FVal) : XRes :=
  match a with
  | .nan s => xnan s
  | .inf n => if n then xval (.fin false 0 0) else xval (.fin false 1 0)
  | .fin n m _ =>
    if m = 0 then xval (.fin false 1 (-1)) else
    let d := a.absV.dy
    if Dy.lt ⟨300, 0⟩ d then
      (if n then { val := .fin false 1 0, mag := some { n := 0, e := -300, sticky := true } }
       else { val := .fin false 1 0, mag := some { n := 2 ^ 200 - 1, e := -200, sticky := true } })
    else
      let t := fxExpNeg (fxOfDy d)
      let v := if n then fxDiv t (fxOne + t) else fxDiv fxOne (fxOne + t)
      { val := .fin false 1 0, mag := some (fxMag v 0) }

/-- Rounding to an integral value in the same format (R121). -/
def fRound (f : Fmt) (r : Rounding) (g : Nat) (a : FVal) : FRes :=
  match a with
  | .fin n m e =>
    let (k, inexact) := roundAt { n := m, e := e } n 0 r.rm g
    let y := rndMag f { r with rm := 1 } 0 n { n := k, e := 0 }
    { code := y.code, flags := if inexact then flagNX else 0 }
  | .inf n => { code := signBit f n + f.infCode, flags := 0 }
  | .nan s => { code := f.nanCode, flags := if s then flagNV else 0 }

/-! ### Conversions (R84) -/

/-- Float to an integer of w bits (R84, R123). -/
def toInt (ty w : Nat) (rm : Nat) (a : FVal) : FRes :=
  match a with
  | .nan _ => { code := 0, flags := flagNV }
  | .inf n => { code := wrapI (if n then intLo ty w else intHi ty w) w, flags := flagNV ||| flagSA }
  | .fin n m e =>
    let (k, inexact) := roundAt { n := m, e := e } n 0 rm 0
    let x : Int := if n then -(k : Int) else k
    if x < intLo ty w then { code := wrapI (intLo ty w) w, flags := flagNV ||| flagSA }
    else if intHi ty w < x then { code := wrapI (intHi ty w) w, flags := flagNV ||| flagSA }
    else { code := wrapI x w, flags := if inexact then flagNX else 0 }

/-- Float to float (R84). -/
def convF (f : Fmt) (r : Rounding) (g : Nat) (a : FVal) : FRes :=
  match a with
  | .nan s => { code := f.nanCode, flags := if s then flagNV else 0 }
  | _ => finish f r g (xval a)

/-- One-hot class of a value of a format (R118): `x` is the code, `v` its value. -/
def classBits (f : Fmt) (v : FVal) : Nat :=
  match v with
  | .nan s => if s then 1 else 2
  | .inf n => if n then 4 else 512
  | .fin n m e =>
    if m = 0 then (if n then 32 else 64)
    else if m < 2 ^ f.mbits ∧ e = f.emin - f.mbits then (if n then 16 else 128)
    else (if n then 8 else 256)

/-! ### The PXF4 block (R73, R85 to R87) -/

/-- Twice the magnitude of an E2M1 code (R73). -/
def e2m1Twice (c : Nat) : Nat :=
  match c % 8 with
  | 0 => 0 | 1 => 1 | 2 => 2 | 3 => 3 | 4 => 4 | 5 => 6 | 6 => 8 | _ => 12

/-- decode(block, i) of R86 from the element's code and bytes 16 and 17. -/
def pxDecode (code scale spare : Nat) : FVal :=
  if scale = 255 then .nan false
  else if code % 16 = 8 then
    (match decodeF .e4m3 false spare with
     | .fin n m e => .fin n m (e + ((scale : Int) - 127))
     | _ => .nan false)
  else .fin (decide (8 ≤ code % 16)) (e2m1Twice code) ((scale : Int) - 127 - 1)

/-- A magnitude x/scale rounded RNE on the grid of R73 and saturated (R87 rule 3), given 4·x/scale as a
magnitude's count of 2^-k: `n` over 2^k is x/scale. The code, 0 to 7. -/
def e2m1Rne (n k : Nat) : Nat :=
  let x4 (t : Nat) : Nat := t * 2 ^ k       -- compare 4n with t·2^k, t = 4 × midpoint
  let y := 4 * n
  if y ≤ x4 1 then 0 else if y < x4 3 then 1 else if y ≤ x4 5 then 2 else if y < x4 7 then 3
  else if y ≤ x4 10 then 4 else if y < x4 14 then 5 else if y ≤ x4 20 then 6 else 7

/-- The block that QBLK makes of 32 values: 32 codes, scale, spare, and flags (R87). -/
structure PxBlock where
  codes : List Nat
  scale : Nat
  spare : Nat
  flags : Nat
  deriving DecidableEq, Repr

def Dy.absD (a : Dy) : Dy := ⟨a.m.natAbs, a.e⟩
def dyEq (a b : Dy) : Bool := (a.add b.neg).m == 0

/-- Position of the largest error, lowest index on ties. -/
def worstIdx : List Dy → Nat → Nat → Dy → Nat
  | [], _, best, _ => best
  | d :: ds, i, best, bd => if bd.lt d then worstIdx ds (i + 1) i d else worstIdx ds (i + 1) best bd

def setNth (l : List Nat) (i v : Nat) : List Nat := l.set i v

def quantBlock (xs : List FVal) : PxBlock :=
  if xs.any (fun x => x.isNan || x.isInf) then
    { codes := xs.map (fun _ => 0), scale := 255, spare := 0, flags := flagNV }
  else
    let ds := xs.map FVal.dy
    let amax := ds.foldl (fun (a d : Dy) => if a.lt d.absD then d.absD else a) (Dy.mk 0 0)
    let s : Nat :=
      if amax.m = 0 then 127
      else (((bitLen amax.m.natAbs : Nat) : Int) - 1 + amax.e - 2 + 127).toNat
    let sc : Int := (s : Int) - 127
    let code (d : Dy) : Nat :=
      let e := d.e - sc
      let c := if 0 ≤ e then e2m1Rne (d.m.natAbs * 2 ^ e.toNat) 0 else e2m1Rne d.m.natAbs (-e).toNat
      if c = 0 then 0 else if d.m < 0 then 8 + c else c
    let val (c : Nat) : Dy := (pxDecode c s 0).dy
    let cs := ds.map code
    let errs := ds.map fun d => (d.add (val (code d)).neg).absD
    let j := worstIdx errs 0 0 ⟨-1, 0⟩
    let xj := ds.getD j ⟨0, 0⟩
    let ej := errs.getD j ⟨0, 0⟩
    let sp := (rndMag .e4m3 rneKeep 0 (decide (xj.m < 0)) { n := xj.m.natAbs, e := xj.e - sc }).code
    let spv : Dy := (pxDecode 8 s sp).dy
    let better := ((xj.add spv.neg).absD).lt ej
    let cs' := if better then setNth cs j 8 else cs
    let spare := if better then sp else 0
    let nx := (List.zip ds cs').any fun (d, c) => !(dyEq (pxDecode c s spare).dy d)
    let sa := (List.zip ds cs').any fun (d, c) => c % 8 == 7 && (Dy.lt ⟨6, sc⟩ d.absD)
    { codes := cs', scale := s, spare := spare,
      flags := (if nx then flagNX else 0) ||| (if sa then flagSA else 0) }

end Sys2Proof.Machine
end

