-- ==== Sys2Proof/Machine/State.lean ====
section
/-! DEFINITION. The state of the machine: everything the manual gives it, as plain data; the reasons a step can
stop; and the state right after reset. Every table is a list of (key, value) pairs with rising keys. Keys:
`gd` global die id (R15); `ck` = gd*17+core, core 16 the DCC (R17); `g` group key = ck*32+slot; lane key =
g*64+lane; `qk` quad key = gd*5+quad, quad 4 standing for the DCC; entry key = gd*16384+index; record key = gd*65536+slot. -/
namespace Sys2Proof.Machine

/-- A sparse table: keys strictly rising, no entry that equals what an unlisted key reads as. -/
abbrev Tab (α : Type) := List (Nat × α)

/-- A step can stop only here. -/
inductive Fault where
  /-- Raised by an access of an engine or a lane whose current leaf names a DRAM page that the die does not
  have (R199: 1,966,080 pages), and which is not the observation page (R444). Safe: the machine stops. -/
  | absentPage (gd page : Nat)
  deriving DecidableEq, Repr

inductive Refusal where
  /-- Raised by an arm of `exec` whose row has no meaning yet. Safe: the machine stops. -/
  | notModelled (mnemonic : String)
  deriving DecidableEq, Repr

/-! ### Lanes (R282, R286, R405) -/

/-- Place inside a macro (R59): macro index, entry, and the CALLM word whose fields are substituted. -/
structure MacPos where
  index : Nat
  entry : Nat
  call : Word
  deriving DecidableEq, Repr

/-- Where a lane stands (R286, R289, R291, R293, R405). -/
inductive Stand where
  | run                    -- may belong to a path
  | cbar (b : Nat)         -- waits at a CBAR.WAIT of barrier b
  | boundary               -- stands at a firing boundary
  | parked                 -- in a parked sub-group
  | held                   -- its translation answer is outstanding (R288)
  | full                   -- missed with eight parked sub-groups or a full fault queue (R288, R369)
  | stuck                  -- met no cause, or another cause, at an instruction that trapped (R93, R405)
  | ended                  -- ended by its handler (R407)
  deriving DecidableEq, Repr

/-- An access that failed after its issue (R481): its number, cause and address, its destination, whether it reads. -/
structure Failed where
  acc : Nat
  cause : Nat
  va : Nat
  regs : List Nat := []
  read : Bool := false
  deriving DecidableEq, Repr

structure Lane where
  pc : BitVec 56 := 0
  mac : Option MacPos := none
  preds : BitVec 7 := 0
  mode : Word := 0x00070000#32
  k : Word := 0
  astat : Word := 0
  streamid : Word := 0
  drawctr : Word := 0
  ret : List (BitVec 56) := []          -- top first (R334)
  stand : Stand := .run
  inHandler : Bool := false             -- a handler lane (R405)
  savedMode : Word := 0
  savedK : Word := 0
  savedDepth : Nat := 0
  resumePc : Dword := 0
  tinfo : Dword := 0
  backoff : Nat := 64                   -- the next back-off of its path (R329)
  waitUntil : Nat := 0                  -- the path is ineligible before this cycle (R329)
  lastIssue : Nat := 0                  -- number of the group's issue at which its path last issued (R286)
  failed : List Failed := []            -- failed accesses that have not been delivered (R481)
  kept : List (Nat × Word) := []        -- channel elements that its instruction popped before it parked (R291)
  deriving DecidableEq, Repr

/-! ### Groups and teams (R282 to R307) -/

/-- A convergence barrier: expected and arrived lanes (R289). -/
structure CBar where
  expected : Mask := 0
  arrived : Mask := 0
  deriving DecidableEq, Repr

/-- A parked sub-group (R291). -/
structure Park where
  mask : Mask
  pc : BitVec 56
  mac : Option MacPos
  frec : Nat                            -- fault record key: gd*256 + number
  vas : List (Nat × Nat) := []          -- lane, address that missed
  deriving DecidableEq, Repr

/-- What a suspended group waits for, and where it goes on (R293, R294). -/
structure Susp where
  cont : BitVec 56
  wen : Bool := false
  wsem : Nat := 0
  wthr : Nat := 0
  barrier : Option Nat := none          -- selector byte of a SYNC
  sync : BitVec 32 := 0
  acq : Bool := false                   -- its dispatch acquires (R338)
  broken : Bool := false                -- answered by a broken barrier (R304)
  deriving DecidableEq, Repr

/-- A service a group waits for (R4, R62, R246, R248, R344, R345, R347, R417). -/
inductive Service where
  | launch (cmd : Nat)
  | dep (src dst : Nat)                 -- TASK.DEP to another die
  | pull (d mask since until_ : Nat) (lanes : Mask)
  | accesses (ids : List Nat) (lanes : Mask)  -- FENCE: the accesses and bank commands waited for
  | commands (ids : List Nat) (lanes : Mask)  -- FENCE.BANK
  | raise (asid : Nat) (d : Nat) (lanes : Mask)
  | loader (cmd : Nat)                  -- the stream loader (R372)
  deriving DecidableEq, Repr

structure Group where
  task : Nat := 0                       -- entry key
  ctx : Nat := 0                        -- CTXID
  team : Nat := 0
  index : Nat := 0                      -- GROUP (R43)
  banks : Nat := 1
  active : Mask := 0
  tile : Bool := false                  -- carries token rows (R43 TOKBASE)
  tokbase : Word := 0xFFFFFFFF#32
  cbars : Tab CBar := []
  parked : List Park := []
  susp : Option Susp := none
  service : Option Service := none
  age : Nat := 0                        -- cycle of the start of its firing (R282)
  starved : Bool := false
  waited : Nat := 0                     -- open cycles eligible without issuing (R327)
  issues : Nat := 0                     -- issues so far
  runCount : Nat := 0                   -- issues in a row of one path (R286)
  pathDue : Bool := false
  inHandler : Bool := false
  tcause : Word := 0
  taddr : Dword := 0
  tmask : Mask := 0
  amask : Mask := 0
  addpc : Dword := 0
  hctl : Word := 0
  tmac : Option MacPos := none          -- macro place of the trap (R55)
  halted : Bool := false
  overlay : List (Nat × Nat × Word) := []   -- staged debug edits: lane, register code, value (R393)
  bounds : List (BitVec 56 × Instr) := []   -- boundaries at which lanes of this firing have stopped (R293, R336)
  dispatchedAt : Nat := 0               -- R387
  deriving DecidableEq, Repr

/-- A stash range of a team (R194). -/
structure StashRange where
  off : Nat
  addr : Nat
  len : Nat
  deriving DecidableEq, Repr

/-- A stash line's state (R195). An owned line lists its bytes; dirty is a byte mask. A line that is still owned when its
team has ended keeps its context and die until it is written back (R197, R198). -/
structure StashLine where
  addr : Nat                            -- global line address
  ctx : Nat := 0                        -- context of its team
  ck : Nat := 0                         -- first core of its team
  task : Nat := 0                       -- task of its team
  win : Nat := 0                        -- window bytes of its team (R306)
  cores : Nat := 1                      -- cores that its window lies on
  owned : Bool := false
  bytes : List Byte := []
  dirty : BitVec 64 := 0
  deriving DecidableEq, Repr

/-- A team barrier: the phase's arrivals (R301, R303). -/
structure TBar where
  arrived : List Nat := []              -- groups that arrived in this phase
  next : List Nat := []                 -- second arrivals, which count for the next phase
  deriving DecidableEq, Repr

structure Team where
  task : Nat := 0
  ctx : Nat := 0
  gd : Nat := 0
  quad : Nat := 0                       -- 4 for the DCC
  base : Nat := 0
  cores : Nat := 1
  win : Nat := 0                        -- bytes (R182)
  groups : List Nat := []               -- keys of its groups that have not ended
  bars : Tab TBar := []
  stash : List StashRange := []
  imageId : Nat := 0
  loaded : Bool := false
  edited : Bool := false
  dispatchedAt : Nat := 0
  stopping : Bool := false              -- being checkpointed: no path issues (R390)
  draining : Bool := false              -- its pulls are refused (R388)
  deriving DecidableEq, Repr

/-! ### Core and quad units -/

/-- A semaphore (R296, R297). `rel` is 1 if some increment carried a release wider than CORE (R225). -/
structure Sem where
  count : Nat := 0
  pending : Nat := 0
  fault : Bool := false
  wide : Bool := false
  deriving DecidableEq, Repr

/-- The grant of a block of 16 semaphores (R297, R298). -/
structure Grant where
  task : Nat
  ended : Bool := false
  deriving DecidableEq, Repr

/-- A channel (R299): 1 Open, 2 Closed; an unlisted channel is Free. -/
structure Channel where
  closed : Bool := false
  ctx : Nat := 0
  prods : List Nat := []
  cons : List Nat := []
  rows : List (List Word) := []         -- oldest first, 64 elements each
  deriving DecidableEq, Repr

/-- A column handle of a task on a quad (R161). -/
structure Handle where
  qk : Nat
  task : Nat
  index : Nat
  first : Nat
  count : Nat
  freed : Option Nat := none            -- unbound: number of the free; columns not yet returned (R163)
  ended : Bool := false                 -- its task has ended, and its commands have not all completed (R164)
  deriving DecidableEq, Repr

/-- A tile as a weight bank holds it (R174): header words, area bytes, column scales. -/
structure Bank where
  hdr : List Word := []
  bytes : List Byte := []
  scales : List Byte := []
  deriving DecidableEq, Repr

/-- The configuration of a quad's array (R172, R173). -/
structure Array4 where
  inForce : Nat := 0
  latest : Nat := 0
  grant : Option Nat := none
  deriving DecidableEq, Repr

/-- One slot of a Belt ring (R146, R416). -/
structure BeltSlot where
  addr : Nat
  seats : Nat
  oper : Nat
  block : Nat
  extents : List (Nat × Nat × Nat) := []   -- home die, page, byte count of each piece page
  faulted : Bool := false
  deriving DecidableEq, Repr

/-- A tile that rides the Belt or waits to board: Tray, buffer, firing number, next K, faulted (R149, R150). -/
structure Rider where
  tray : Nat
  buf : Nat
  k : Nat := 0
  bad : Bool := false
  acc : List Word := []                 -- the chain of the block at hand, 128 columns a row (R150)
  sat : List Bool := []                 -- which elements were clamped in some step (R153)
  cols : Nat := 0                       -- result columns that its passes of the block have reached (R141)
  out : List (Nat × Nat × Nat × List Word × Nat) := []  -- blocks to be read out: block, slot, columns, results, SAT count
  last : Bool := false                  -- it has passed the last slot of its span
  deriving DecidableEq, Repr

structure Ring where
  ctx : Nat := 0
  split : Bool := false
  slots : List BeltSlot := []
  current : Nat := 0
  preloaded : Bool := false
  riders : List Rider := []
  deriving DecidableEq, Repr

/-! ### Commands and accesses in flight (R39, R41, R212, R224, R239, R251) -/

inductive CmdOp where
  | mtileLd | mtileSt | mwload | mwswap | mma | mmaSp | maccZero | maccRd | mcfg
  | movCpy | movGth | movSct | put | get | ratom
  | bopAdd | bopAxpy | bopMax | bopCvt | bopFill
  | collAr | collAg | collRs | collA2a | collBc
  | taskPost | launch | tokSend | ctxSave | ctxLoad
  deriving DecidableEq, Repr

/-- One lane's captured operands of a command, and its result. -/
structure LaneVal where
  lane : Nat
  x : Nat := 0
  y : Nat := 0
  z : Nat := 0
  status : Option Nat := none
  old : Nat := 0
  sent : Bool := false                  -- its request has left for its home (R276)
  deriving DecidableEq, Repr

structure Cmd where
  op : CmdOp
  g : Nat                               -- group key
  task : Nat
  ctx : Nat
  gd : Nat                              -- issuing die
  ck : Nat                              -- issuing core
  d : Nat := 0
  a : Nat := 0
  b : Nat := 0
  k : Nat := 0
  mode : Word := 0
  sync : BitVec 32 := 0
  site : Nat := 0
  lanes : List LaneVal := []
  mask : Mask := 0                      -- issuing lanes
  loading : Bool := false               -- the stream loader has not answered (R372)
  started : Bool := false
  fault : Bool := false
  cause : Nat := 0
  pos : Nat := 0                        -- bytes moved, or lanes done
  dst : List (Nat × Nat) := []          -- registers with a write outstanding: first code, count
  handles : List (Nat × Nat × Nat) := []  -- handle index, first column, count, as bound at issue (R163)
  image : List Nat := []                -- bytes read so far, or header words captured at the start
  paused : Option Nat := none           -- fault record the command waits for (R372)
  trailing : Bool := false              -- a trailing PUT (R232)
  popped : List (Nat × List Word) := [] -- rows that a tile command popped, until the stream loader answers (R46, R157)
  rank : Nat := 0                       -- collectives: the rank (R262)
  arrived : List (Nat × Nat) := []      -- (rank, element) contributions that arrived (R228)
  took : List (Nat × Nat) := []         -- elements of the send buffer read for flits: offset, value
  aborted : Bool := false
  bank : Nat × Nat := (0, 0)            -- bank commands: home die and colour of the destination frame (R207)
  disp : Nat := 0                       -- bank commands: bytes whose pieces have left the dispatcher (R208)
  issuedAt : Nat := 0
  startedAt : Nat := 0
  deriving DecidableEq, Repr

inductive AccOp where
  | load | store | add | imin | imax | band | bor | bxor | xchg | cas | fadd | mdead
  deriving DecidableEq, Repr

inductive AccStage where
  | issued                              -- waits for its translation answer
  | missed (kind : Nat)                 -- its walk found no translation (R369)
  | going                               -- translated; on its way to the home
  | done                                -- performed; the answer is on its way
  | failed (cause : Nat)                -- answered with a failure
  deriving DecidableEq, Repr

/-- A lane access to a global location (R238 to R244, R481). -/
structure Acc where
  op : AccOp
  g : Nat
  ck : Nat
  ctx : Nat
  asid : Nat
  task : Nat
  lane : Nat
  hold : Nat                            -- number of the issue it belongs to
  pc : BitVec 56
  va : Nat
  width : Nat
  elem : Nat := 0                       -- TYPE for atomics
  enable : Nat := 0xFFFF                -- bytes written by a store (R241)
  data : Nat := 0
  cmp : Nat := 0
  mode : Word := 0
  scope : Nat := 0
  acq : Bool := false
  rel : Bool := false
  draws : List Nat := []
  dst : List Nat := []                  -- register codes that receive the words of the value
  ret : Bool := true                    -- whether D is written
  mute : Bool := false                  -- a higher lane of the instruction has written the s register (R14)
  stage : AccStage := .issued
  value : Nat := 0
  flags : Nat := 0
  via : Option Nat := none              -- the home-map leaf under which its home was found (R368)
  home : Nat := 0                       -- home die
  key : Nat := 0                        -- key address there (R361)
  leaf : Nat := 0                       -- frame-map leaf found (R363)
  waiting : Bool := true                -- not yet returned or acknowledged
  near : Bool := false                  -- served by the core's own L1
  sent : Bool := false
  site : Nat := 0
  sentAt : Nat := 0
  route : List Nat := []                -- the dies on its route as it was sent (R269)
  deriving DecidableEq, Repr

/-! ### A saved team (R390, R391) -/

structure SavedGroup where
  g : Nat                               -- the group's key when it was saved
  grp : Group
  lanes : List (Nat × Lane)             -- by lane
  vregs : List (Nat × Word)             -- by lane * 256 + register
  sregs : List (Nat × Word)
  deriving DecidableEq, Repr

structure SavedTeam where
  num : Nat
  team : Team
  groups : List SavedGroup
  wins : List (Nat × Byte)              -- by offset
  sems : List (Nat × Sem)               -- by core of the team * 256 + index
  runs : List (Nat × List Word × List (Nat × Byte))   -- handle, head words of its columns, bytes by column * 2^16 + row * 512 + offset
  counts : List (Nat × Nat)             -- handle, columns
  banks : List (Nat × Bank)             -- by region * 2 + shadow
  grant : Bool
  deriving DecidableEq, Repr

/-! ### Proof table, records, Trays, operators (R25, R314, R323, R414) -/

inductive EState where
  | free | waiting | ready | running | ending | faulted
  deriving DecidableEq, Repr

/-- A Proof-table entry (R314, R315). -/
structure Entry where
  words : List Word := []               -- D0 to D15
  ctx : Nat := 0
  st : EState := .free
  dep : Nat := 0
  lflag : Bool := false
  len : Bool := false
  lsem : Nat := 0
  lthr : Nat := 0
  parent : Word := 0xFFFFFFFF#32
  trail : Nat := 0
  deps : List Word := []                -- dependants in list order: DEPN0 to DEPN3, then MORE
  level : Nat := 0                      -- ready-queue level (R317)
  since : Nat := 0                      -- cycle at which it entered that level
  order : Nat := 0                      -- place within the level
  passed : Nat := 0
  reserved : Option Nat := none         -- quad reserved (R318)
  reservedTray : Option (Nat × Nat) := none  -- a Tray buffer's entry (R325): Tray key, buffer
  reserving : Bool := false             -- reserved by a post not yet completed
  fault : Bool := false                 -- ended with a fault
  running : Nat := 0                    -- teams running
  quad : Nat := 0
  base : Nat := 0
  saves : List SavedTeam := []          -- its saved images: the mark of R390
  victim : Option Nat := none           -- the team whose end or checkpoint a reserved entry waits for (R387)
  drained : Option Nat := none          -- cycle by which a drain of it must have ended (R387)
  retaken : Bool := false
  dispatched : Nat := 0
  rows : List Nat := []                 -- record slots of its tile, row order
  after : List Nat := []                -- entries whose end released it: their commands must complete (R231)
  job : Option Nat := none              -- submission job (R310)
  reqAddr : Option Nat := none          -- a request task's s0:s1 (R310)
  side : Option SavedTeam := none       -- the team as last saved: what an image has no place for (R390, R391)
  parts : List (Nat × Nat) := []        -- RANGE child: [begin, end) of each quad's part (R320)
  children : Nat := 0                   -- RANGE root: children and held parts that have not ended
  held : List (Nat × Nat × Nat) := []   -- RANGE root: parts held for a die: die, begin, end
  root : Bool := false
  cores : List Nat := []                -- cores its teams have run on (R231)
  deriving DecidableEq, Repr

inductive RecState where
  | free | held (owner : Nat) | heldEntry (owner : Nat) | steward | waiting | boarded | flight
  | kept                                -- no record: the slot of an accepted TOK.SEND, kept until its outcome (R353)
  deriving DecidableEq, Repr

/-- A token record (R25, R26). Word 13 is computed; `born` is its creation cycle. -/
structure Rec where
  st : RecState := .free
  words : List Word := []
  born : Nat := 0
  tray : Nat := 0
  arrivedAt : Nat := 0
  deriving DecidableEq, Repr

/-- A tile buffer of a Tray: rows (record slots), firing state (R323, R324). -/
structure TBuf where
  first : Nat := 0                      -- first column of its tile, then its result columns
  rows : List Nat := []
  building : Bool := false
  startedAt : Nat := 0
  fired : Bool := false
  boarded : Bool := false
  firedNo : Nat := 0
  entry : Nat := 0                      -- reserved Proof-table entry
  signalled : Bool := false
  due : Bool := false                   -- full or timed out while the seat limit holds it (R324)
  deriving DecidableEq, Repr

structure Tray where
  oper : Nat := 0
  quad : Nat := 0
  maxwait : Nat := 0
  h0 : Word := 0
  h1 : Word := 0
  rescol : Nat := 0
  cols : Nat := 0                       -- columns of one tile
  bufs : List TBuf := []
  deriving DecidableEq, Repr

/-- A registered operator (R414). -/
structure Oper where
  ctx : Nat := 0
  span : Bool := false
  sat : Bool := false
  tmpl : List Word := []
  k : Nat := 0
  n : Nat := 0
  deriving DecidableEq, Repr

/-! ### Translation (R358 to R371) -/

structure Desc where
  curgen : Nat := 0
  floor : Nat := 0
  hmroot : Dword := 0
  fmroot : Dword := 0
  deriving DecidableEq, Repr

/-- An HLB or CTC entry: its generation and the leaf (R362, R365). -/
structure Cached where
  gen : Nat
  leaf : Dword
  used : Nat := 0                       -- the step that last used it (R362)
  deriving DecidableEq, Repr

/-- A fault record (R370). -/
structure FaultRec where
  kind : Nat
  acc : Nat
  asid : Nat
  req : Nat
  va : Nat
  key : Nat
  time : Nat
  site : Nat
  deriving DecidableEq, Repr

/-- One byte of L1: its value, whether it is dirty, and the task that last stored it (R187, R434). -/
structure L1Byte where
  val : Byte
  dirty : Bool
  by_ : Nat := 0
  deriving DecidableEq, Repr
/-- A block of L1: consecutive eight-byte words of one 64-byte line, with the leaf whose rights it copies (R186, R364). Its
bytes stand in `l1`. -/
structure L1Blk where
  asid : Nat
  line : Nat                            -- virtual address / 64
  first : Nat
  words : Nat
  leaf : Nat
  bad : Bool := false                   -- its stored bits are uncorrectable (R425)
  deriving DecidableEq, Repr
/-- A line in a slice of L2, with the leaf whose rights it copies (R188 to R190, R364). A home line holds the line's value,
which stands in `mem`; a dirty one lists in `below` what the DRAM still holds under it. A replica holds the home's value
(R191). -/
structure L2Line where
  asid : Nat
  line : Nat                            -- virtual address / 64
  leaf : Nat
  replica : Bool := false
  below : List Byte := []               -- empty: not dirty
  mline : Nat := 0                      -- mem key / 64 of a home line
  bad : Bool := false                   -- its stored bits are uncorrectable (R425)
  deriving DecidableEq, Repr
/-- An entry of a core's rights cache (R364). -/
structure Right where
  asid : Nat
  home : Nat
  page : Nat                            -- key page
  leaf : Nat
  deriving DecidableEq, Repr

/-- A generation raise in progress (R367). -/
structure Raise where
  phase : Nat
  next : Nat
  deriving DecidableEq, Repr

/-! ### Contexts, submission, barriers (R302, R308, R375) -/

structure Ctx where
  words : List Word := []               -- the descriptor (R375)
  place : Nat := 0x2000000000           -- placement pointer (R482)
  dbstat : Word := 0                    -- R279
  codes : List (Nat × Nat) := []        -- code sections of its images: base, bytes (R83)
  again : List (List Word) := []        -- submission entries to be taken again (R454)
  dead : Bool := false
  deriving DecidableEq, Repr

/-- A submission entry being worked on (R310). -/
structure Job where
  ctx : Nat
  words : List Word
  pending : List Nat := []              -- entry keys of its nodes that have not ended
  status : Nat := 0
  detail : Nat := 0
  doneAt : Option Nat := none
  deriving DecidableEq, Repr

/-- A level barrier (R302 to R304). -/
structure LBar where
  en : Bool := false
  brk : Bool := false
  e : Nat := 0
  ctx : Nat := 0
  count : Nat := 0
  waiting : List Nat := []              -- groups suspended in this phase, as team * 2^32 + group
  arrived : List Nat := []              -- groups that arrived in this phase
  later : List (Nat × Bool) := []       -- arrivals for the next phase: group, whether a SYNC
  parts : List Nat := []                -- its participants: groups that have arrived since its allocation (R304)
  deriving DecidableEq, Repr

/-- A message on the MGT class (R267): what it carries. -/
inductive Msg where
  | depDec (src dst : Nat) (fault : Bool)        -- dependant decrement (R316)
  | arrival (lbar g : Nat) (sync : Bool)         -- barrier arrival (R302)
  | borrow (src dst : Nat)
  | grant (src dst : Nat)
  | refuse (src dst : Nat)
  | repay (src dst : Nat)
  deriving DecidableEq, Repr

structure MsgRec where
  msg : Msg
  sentAt : Nat
  deriving DecidableEq, Repr

/-- A release in progress of a SEMA.ADD or a TASK.SIG (R342, R346). -/
structure Sig where
  ck : Nat                              -- core of the semaphore
  sem : Nat                             -- semaphore index
  delta : Nat
  fset : Bool
  g : Nat
  accs : List Nat                       -- accesses that must be performed first, and commands that must complete
  wide : Bool
  task : Option (Nat × Bool) := none    -- TASK.SIG: entry key and FAULT
  deriving DecidableEq, Repr

/-! ### Links, power, reliability, security (11, 13, 16, 18, 19) -/

/-- Power state of a die (R27, R29 to R31, R330, R331). -/
structure Power where
  budget : Nat := 600
  estimate : Nat := 0
  theta : Nat := 0
  hot : Bool := false
  lent : Tab Nat := []
  borrowed : Tab Nat := []
  asked : Nat := 0
  outstanding : Option Nat := none      -- cycle of the borrow in progress
  window : Nat := 0                     -- windows of 1,024 cycles taken (R330)
  exchange : Nat := 0                   -- exchanges of 8,192 cycles taken (R331)
  deriving DecidableEq, Repr

/-- A self-test running (R430). -/
structure Test where
  unit : Nat
  index : Nat
  loc : Nat
  startedAt : Nat
  deriving DecidableEq, Repr

/-- Congruence group state (R199 to R201, R204). -/
structure Tier where
  f : Nat := 0
  asked : Option Nat := none            -- an access starts a swap of this page into fast (R201)
  swapping : Option (Nat × Nat) := none -- the page's place i, start cycle
  queue : List Nat := []                -- accesses and commands held by the swap, in their order of arrival (R200)
  lastSwap : Nat := 0
  swapped : Bool := false
  deriving DecidableEq, Repr

/-- Replication state of a 2 MiB region (R192, R193). -/
structure Repl where
  degree : Nat := 0
  r : Nat := 0
  w : Nat := 0
  x : Nat := 0
  deriving DecidableEq, Repr

/-- Trace registers of a slice (R447). -/
structure Trace where
  ctl : Dword := 0
  asid : Dword := 0
  lo : Dword := 0
  hi : Dword := 0
  base : Dword := 0
  size : Dword := 0
  ptr : Dword := 0
  lost : Dword := 0
  seq : Nat := 0                        -- records logged since EN was last set (R448)
  next : Nat := 0                       -- first cycle in which the slice may write its next record (R447)
  deriving DecidableEq, Repr

/-- Security and boot state of a package (R395 to R402, R386, R452). -/
structure Pkg where
  booted : Bool := false                -- die 0 accepted the image
  svn : Nat := 0
  floorSvn : Nat := 0
  policy : Word := 0x00000066#32        -- ALARMPOL
  log : Word := 0                       -- ALARMLOG
  debugLocked : Bool := false
  failedAuth : Nat := 0
  keycmd : Word := 0
  keys : Tab Nat := []                  -- slot, epoch of its key; unlisted: no key
  keyEpoch : Nat := 0
  chaingen : Nat := 0
  cxlDown : Bool := false
  stationsDown : List Nat := []
  stationErrs : Tab Nat := []           -- transactions refused, by station (R274)
  errResponses : List (Nat × Nat) := [] -- UALink error responses sent: station, transaction type (R274)
  lostPkgs : List Nat := []             -- packages this one has declared lost
  lostDies : List Nat := []
  scanTag : Option Nat := none
  stopcyc : Nat := 0xFFFFFFFFFFFFFFFF
  stopen : Nat := 0
  stopAt : Option Nat := none
  gatedAt : Option Nat := none
  measured : List Nat := []             -- SPDM measurement indices answered (R397)
  deriving DecidableEq, Repr

/-- Reliability and register state of a die. -/
structure Die where
  up : Bool := false                    -- its body runs (R396)
  fres : Word := 0
  partcfg : Word := 0
  partten : Word := 0
  lslots : Tab Word := []               -- LSLOTp_w by 8p+w, where it differs from reset
  gtblLo : Word := 0
  gtblHi : Word := 0
  reports : List (List Word) := []      -- the steward's report queue, oldest first
  reportSeq : Nat := 0
  linksDown : List Nat := []
  retries : Tab Nat := []               -- resends of the flit in hand, by port
  retired : List (Nat × Nat) := []      -- retired units: UNIT, and INDEX; of a DRAM row its frame, of L1 and L2 the sub-array
  spares : Tab Nat := []                -- spares used, by unit*65536+index, and its group*2^24
  transients : List (Nat × Nat) := []   -- transient faults: unit*65536+index, cycle (R432)
  seen : Tab Nat := []                  -- cycle of the last detection report, by unit*65536+index (R429)
  epoch : Nat := 0                      -- replication epochs of 65,536 cycles taken (R193)
  decay : Nat := 0                      -- decays of page counts taken, one each 2^20 cycles (R201)
  deriving DecidableEq, Repr

/-- A RoCEv2 queue pair (R281). -/
structure Queue where
  gd : Nat := 0
  ctx : Nat := 0
  sendQ : Nat := 0
  recvQ : Nat := 0
  complQ : Nat := 0
  ck : Nat := 0
  doorbell : Nat := 0                   -- semaphore that hands over entries of the send queue
  recvBell : Nat := 0                   -- semaphore that hands over entries of the receive queue
  semaphore : Nat := 0                  -- completion semaphore
  sent : Nat := 0
  received : Nat := 0
  completed : Nat := 0
  dead : Bool := false
  deriving DecidableEq, Repr

/-- The counters of a core (R408, R423, R440 to R444). -/
structure Pmc where
  cnt : Tab Nat := []                   -- counters 0 to 62, 48 bits
  ovf : Nat := 0
  written : List Nat := []              -- counters written in this step (R445)
  sel : Tab Word := []
  snap : Tab Nat := []
  snapSeq : Word := 0
  snapClk : Word := 0
  deriving DecidableEq, Repr

/-- The path that is issuing, or the lanes of the instruction at hand (R61, R286). A model field. -/
structure Cur where
  g : Nat := 0
  lanes : Mask := 0
  pc : BitVec 56 := 0
  mac : Option MacPos := none
  word : Word := 0
  deriving DecidableEq, Repr

structure State where
  -- the model's own fields
  agenda : List Instr := []             -- rows to come, in order
  inputs : List (Nat × Instr) := []     -- what the outside world does: the cycle from which it is due, the row
  cur : Cur := {}
  tick : Nat := 0                       -- steps so far; feeds the free values
  nextId : Nat := 1                     -- next number of a team, access, command, message, job
  -- time
  cycle : Nat := 0                      -- package cycle count (CLOCK)
  -- lanes and groups
  lanes : Tab Lane := []
  vregs : Tab Word := []                -- by lane key * 256 + register
  sregs : Tab Word := []                -- by group key * 32 + register
  dirtyBanks : Tab Bool := []           -- by group key * 16 + bank (R391)
  dirtyLines : Tab Bool := []           -- by team * 2^12 + window offset / 256 (R391)
  groups : Tab Group := []
  teams : Tab Team := []
  wins : Tab Byte := []                 -- window bytes, by team * 2^20 + offset
  stash : Tab StashLine := []           -- by team * 2^14 + window line
  -- cores
  sems : Tab Sem := []                  -- by ck*256 + index
  grants : Tab Grant := []              -- by ck*16 + block
  l1 : Tab L1Byte := []                 -- by (ck*2^16 + ASID)*2^56 + virtual address
  l1sets : Tab (List L1Blk) := []       -- by ck*1024 + set, most recently used first
  l1pred : Tab Word := []               -- the spatial-locality predictor: by ck*1024 + entry (R186)
  rights : Tab (List Right) := []       -- rights caches, by ck, most recently used first
  wbFails : List (Nat × Nat × Nat × Nat) := []  -- dropped write-backs: ck, ASID, cause, address (R481)
  aborts : List (Nat × Nat × Nat) := [] -- tasks that met an uncorrectable line, with the address and the site word (R434)
  store : Tab (BitVec 39) := []         -- control store, by ck*2048 + macro*32 + entry (R56)
  credits : Tab Nat := []               -- trap credits in use, by ck (R329)
  lastSlot : Tab Nat := []              -- slot last selected among the groups of one age, by ck*2^64 + age (R327)
  pmcs : Tab Pmc := []
  -- quads
  chans : Tab Channel := []             -- by qk*16 + channel
  opmem : Tab Byte := []                -- by (qk*512 + column)*2^16 + row*512 + offset
  heads : Tab Word := []                -- head slots, by (qk*512 + column)*4 + word
  handles : List Handle := []
  arrays : Tab Array4 := []
  banks : Tab Bank := []                -- by qk*4 + region*2 + (1 for the shadow)
  rings : Tab Ring := []                -- by qk*4 + 2 for SPLIT + region
  -- dies
  entries : Tab Entry := []
  recs : Tab Rec := []
  trays : Tab Tray := []                -- by gd*64 + Tray
  opers : Tab Oper := []                -- by gd*2^16 + OPID
  descs : Tab Desc := []                -- by gd*2^16 + ASID
  hlb : Tab Cached := []                -- by (gd*2^16 + ASID)*2^35 + REGION (R362)
  ctc : Tab Cached := []                -- by (gd*2^16 + ASID)*2^40 + key page (R365)
  faultRecs : Tab FaultRec := []        -- by gd*256 + RECNO
  lbars : Tab LBar := []                -- by level, index and place: see lbarKey
  census : Tab Word := []               -- by (gd*1024 + entry)*4 + word
  tiers : Tab Tier := []                -- by gd*2^19 + group
  dead : Tab Bool := []                 -- dead pages, by gd*2^21 + page
  counts : Tab Nat := []                -- page access counts times 64, by gd*2^21 + page (R201)
  repls : Tab Repl := []                -- by gd*2^35 + region
  l2 : Tab (List L2Line) := []          -- by (gd*16 + slice)*4096 + set, most recently used first
  bankQs : Tab (List (Nat × Nat)) := [] -- pieces queued at a bank, by gd*1024 + bank: command, offset (R208)
  slices : Tab Nat := []                -- slice counters, by (gd*16 + slice)*8 + i
  slovf : Tab Nat := []
  traces : Tab Trace := []
  powers : Tab Power := []
  tests : Tab Test := []
  bad : Tab Bool := []                  -- uncorrectable lines: mem key / 64
  dies : Tab Die := []
  -- packages and pod
  pkgs : Tab Pkg := []
  ctxs : Tab Ctx := []
  jobs : Tab Job := []
  raises : Tab Raise := []              -- by ASID
  queues : Tab Queue := []
  msgs : Tab MsgRec := []
  sigs : Tab Sig := []
  -- in flight
  accs : Tab Acc := []
  cmds : Tab Cmd := []
  -- memory
  mem : List Host.Cell := []            -- device DRAM, by gd*2^37 + page*2^16 + offset
  stamps : Tab Nat := []                -- key epoch of each line written under a key, by mem key / 64
  hostMem : List Host.Cell := []        -- host memory behind CXL.cache
  hostReply : List Byte × Bool := ([], false)  -- the last answer to the host: bytes, poison (R235, R278)
  deriving DecidableEq, Repr

/-- The machine right after reset: no group is resident, every entry and record is Free, no die has booted, and
every register holds its reset value (R9; 02 to 19). A die, package or core that no table lists holds the
defaults of its structure, which are its reset values. -/
def State.reset : State := {}

end Sys2Proof.Machine
end

