-- ==== Sys2Proof/Machine/Base.lean ====
section
/-! DEFINITION. Tables, keys, lane masks, registers and reports: the plain reads and writes that every meaning is
made of (R7, R13, R14, R15, R17, R43). -/
namespace Sys2Proof.Machine

/-! ### Tables -/

def Tab.find? {α : Type} : Tab α → Nat → Option α
  | [], _ => none
  | (j, v) :: t, k => if j = k then some v else Tab.find? t k
def Tab.get {α : Type} (t : Tab α) (k : Nat) (d : α) : α := (Tab.find? t k).getD d
/-- Insert or replace, keys kept rising. -/
def Tab.put {α : Type} : Tab α → Nat → α → Tab α
  | [], k, v => [(k, v)]
  | (j, w) :: t, k, v => if k < j then (k, v) :: (j, w) :: t else if j = k then (k, v) :: t else (j, w) :: Tab.put t k v
def Tab.del {α : Type} (t : Tab α) (k : Nat) : Tab α := t.filter fun e => e.1 != k
/-- Write a value; one that equals the default is not listed. -/
def Tab.set {α : Type} [DecidableEq α] (t : Tab α) (d : α) (k : Nat) (v : α) : Tab α :=
  if v = d then Tab.del t k else Tab.put t k v
/-- Drop the entries with lo ≤ key < hi. -/
def Tab.cut {α : Type} (t : Tab α) (lo hi : Nat) : Tab α := t.filter fun e => decide (e.1 < lo) || decide (hi ≤ e.1)
def Tab.has {α : Type} (t : Tab α) (k : Nat) : Bool := (Tab.find? t k).isSome

/-- Keys strictly rising from a bound. -/
def Tab.rising {α : Type} : Tab α → Nat → Bool
  | [], _ => true
  | (k, _) :: t, lo => decide (lo ≤ k) && Tab.rising t (k + 1)
/-- The canonical form of memory: keys strictly rising and no listed byte equal to 0, which an unlisted
address reads as (log 9). -/
def Memory.wf (m : List Host.Cell) : Bool := Tab.rising m 0 && m.all fun e => e.2 != 0#8

/-! ### Keys -/
def gdOfCk (ck : Nat) : Nat := ck / 17
def coreOfCk (ck : Nat) : Nat := ck % 17
def ckOf (g : Nat) : Nat := g / 32
def slotOf (g : Nat) : Nat := g % 32
def gdOf (g : Nat) : Nat := gdOfCk (ckOf g)
def quadOf (g : Nat) : Nat := coreOfCk (ckOf g) / 4
/-- Quad key of a group; quad 4 stands for the DCC, which belongs to no quad (R17). -/
def qkOf (g : Nat) : Nat := gdOf g * 5 + quadOf g
def pkgOf (gd : Nat) : Nat := gd / 64
def dieOf (gd : Nat) : Nat := gd % 64
def isDcc (g : Nat) : Bool := coreOfCk (ckOf g) == 16
def laneKey (g l : Nat) : Nat := g * 64 + l
def regKey (g l r : Nat) : Nat := laneKey g l * 256 + r
def taskIdOf (e : Nat) : Nat := e / 16384 * 65536 + e % 16384
/-- Entry key of a TASKID; bits [15:14] of a TASKID are zero (R43). -/
def entryOf (t : Nat) : Nat := t / 65536 * 16384 + t % 16384
def semKey (ck e : Nat) : Nat := ck * 256 + e
def placeOf (g l : Nat) : Nat := gdOf g * 65536 + coreOfCk (ckOf g) * 2048 + slotOf g * 64 + l

/-! ### Lane masks -/
def laneNums : List Nat := List.range 64
def lanesIn (m : Mask) : List Nat := laneNums.filter fun l => m.getLsbD l
def maskOf (p : Nat → Bool) : Mask :=
  laneNums.foldl (fun m l => if p l then m ||| (1#64 <<< l) else m) 0#64
def lowest (m : Mask) : Nat := ((lanesIn m).head?).getD 0

/-! ### Lanes and groups -/
def State.lane (s : State) (g l : Nat) : Lane := Tab.get s.lanes (laneKey g l) {}
def State.setLane (s : State) (g l : Nat) (x : Lane) : State := { s with lanes := Tab.put s.lanes (laneKey g l) x }
def State.modLane (s : State) (g l : Nat) (f : Lane → Lane) : State := s.setLane g l (f (s.lane g l))
def State.grp (s : State) (g : Nat) : Group := Tab.get s.groups g {}
def State.setGrp (s : State) (g : Nat) (x : Group) : State := { s with groups := Tab.put s.groups g x }
def State.modGrp (s : State) (g : Nat) (f : Group → Group) : State := s.setGrp g (f (s.grp g))
def State.onLanes (s : State) (g : Nat) (ls : List Nat) (f : Nat → Lane → Lane) : State :=
  { s with lanes := ls.foldl (fun t l => Tab.put t (laneKey g l) (f l (Tab.get t (laneKey g l) {}))) s.lanes }

def State.team (s : State) (t : Nat) : Team := Tab.get s.teams t {}
def State.teamOf (s : State) (g : Nat) : Team := s.team (s.grp g).team
def State.entry (s : State) (e : Nat) : Entry := Tab.get s.entries e {}
def State.setEntry (s : State) (e : Nat) (x : Entry) : State := { s with entries := Tab.set s.entries {} e x }
def State.modEntry (s : State) (e : Nat) (f : Entry → Entry) : State := s.setEntry e (f (s.entry e))
def State.ctxOf (s : State) (c : Nat) : Ctx := Tab.get s.ctxs c {}
def State.die (s : State) (gd : Nat) : Die := Tab.get s.dies gd {}
def State.modDie (s : State) (gd : Nat) (f : Die → Die) : State := { s with dies := Tab.put s.dies gd (f (s.die gd)) }
def State.pkg (s : State) (p : Nat) : Pkg := Tab.get s.pkgs p {}
def State.modPkg (s : State) (p : Nat) (f : Pkg → Pkg) : State := { s with pkgs := Tab.put s.pkgs p (f (s.pkg p)) }

def wordAt (ws : List Word) (i : Nat) : Nat := (ws.getD i 0).toNat
def pairAt (ws : List Word) (i : Nat) : Nat := wordAt ws i + 2 ^ 32 * wordAt ws (i + 1)

/-- Context descriptor fields (R375). -/
def Ctx.asid (c : Ctx) : Nat := bitsOf (wordAt c.words 1) 31 16
def Ctx.tenant (c : Ctx) : Nat := bitsOf (wordAt c.words 1) 15 8
def Ctx.part (c : Ctx) : Nat := bitsOf (wordAt c.words 1) 2 0
def Ctx.ptok (c : Ctx) : Nat := bitsOf (wordAt c.words 2) 31 24
def Ctx.dbg (c : Ctx) : Bool := bitOf (wordAt c.words 2) 19
def Ctx.arr (c : Ctx) : Bool := bitOf (wordAt c.words 2) 18
def Ctx.maxPrio (c : Ctx) : Nat := bitsOf (wordAt c.words 2) 17 16
def Ctx.sems (c : Ctx) : Nat := bitsOf (wordAt c.words 2) 15 0
def Ctx.kslot (c : Ctx) : Nat := bitsOf (wordAt c.words 3) 7 0
def Ctx.trapent (c : Ctx) : Nat := pairAt c.words 4
def Ctx.seed (c : Ctx) : Nat := pairAt c.words 6
def Ctx.subpg (c : Ctx) : Nat := pairAt c.words 8
def Ctx.reqtask (c : Ctx) : Nat := pairAt c.words 10
def Ctx.commtab (c : Ctx) : Nat := pairAt c.words 12
def Ctx.dbsems (c : Ctx) : Nat := bitsOf (wordAt c.words 14) 15 0

/-- Task descriptor fields (R314). -/
def dType (ws : List Word) : Nat := bitsOf (wordAt ws 0) 31 29
def dPrio (ws : List Word) : Nat := bitsOf (wordAt ws 0) 28 27
def dBanks (ws : List Word) : Nat := bitsOf (wordAt ws 0) 26 23
def dGroups (ws : List Word) : Nat := bitsOf (wordAt ws 0) 22 17
def dCores (ws : List Word) : Nat := bitsOf (wordAt ws 0) 16 15 + 1
def dWin (ws : List Word) : Nat := bitsOf (wordAt ws 0) 14 8
def dSems (ws : List Word) : Nat := bitsOf (wordAt ws 1) 31 16
def dEntry (ws : List Word) : Nat := pairAt ws 2
def dEst (ws : List Word) : Nat := wordAt ws 4
def dNarg (ws : List Word) : Nat := bitsOf (wordAt ws 5) 4 0
def dArgs (ws : List Word) : Nat := pairAt ws 6
def dBegin (ws : List Word) : Nat := wordAt ws 8
def dEnd (ws : List Word) : Nat := wordAt ws 9

/-! ### Registers (R43, R44, R45) -/

def isV (c : Nat) : Bool := decide (c < 0xC0)
def isS (c : Nat) : Bool := decide (0xC0 ≤ c) && decide (c < 0xE0)
def isCh (c : Nat) : Bool := decide (0xE0 ≤ c) && decide (c < 0xF0)
def isP (c : Nat) : Bool := decide (0xF0 ≤ c) && decide (c ≤ 0xF7)
def isPairCode (c : Nat) : Bool := (decide (c < 0xE0) && c % 2 == 0) || c == 0xFE

def chanKey (g c : Nat) : Nat := qkOf g * 16 + c
def State.chan (s : State) (g c : Nat) : Channel := Tab.get s.chans (chanKey g c) {}

def Lane.pred (x : Lane) (i : Nat) : Bool := if i = 7 then true else x.preds.getLsbD i
def Lane.setPred (x : Lane) (i : Nat) (b : Bool) : Lane :=
  if i = 7 then x else
  { x with preds := if b then x.preds ||| (1#7 <<< i) else x.preds &&& ~~~(1#7 <<< i) }
/-- `guard(L)` of R14. -/
def Lane.guard (x : Lane) : Bool :=
  x.pred (bitsOf x.mode.toNat 18 16) != bitOf x.mode.toNat 19

/-- The element that a channel code reads: the one its lane keeps for a replay (R291), or that of the oldest row (R46). -/
def chanElem (s : State) (g l c : Nat) : Nat :=
  match List.find? (fun k : Nat × Word => k.1 == c) (s.lane g l).kept with
  | some k => k.2.toNat
  | none => ((((s.chan g c).rows.head?).getD []).getD l 0).toNat
/-- `rd(L, c)` of R14, as the register's unsigned number. -/
def rd (s : State) (g l c : Nat) : Nat :=
  if c < 0xC0 then (Tab.get s.vregs (regKey g l c) 0).toNat
  else if c < 0xE0 then (Tab.get s.sregs (g * 32 + (c - 0xC0)) 0).toNat
  else if c < 0xF0 then chanElem s g l (c - 0xE0)
  else if c ≤ 0xF7 then b2n ((s.lane g l).pred (c - 0xF0))
  else if c = 0xF8 then l % 64
  else if c = 0xF9 then (s.grp g).index % 2 ^ 32
  else if c = 0xFA then taskIdOf (s.grp g).task % 2 ^ 32
  else if c = 0xFB then (s.grp g).tokbase.toNat
  else if c = 0xFC then s.cycle % 2 ^ 32
  else if c = 0xFD then placeOf g l % 2 ^ 32
  else if c = 0xFE then 0
  else (s.lane g l).k.toNat
/-- The 64-bit value of a pair field (R45). -/
def rd64 (s : State) (g l c : Nat) : Nat :=
  if c = 0xFE then 0 else rd s g l c + 2 ^ 32 * rd s g l (c + 1)

/-- `wr(L, c, x)` of R14 for every code but a channel, whose rows are pushed whole. -/
def wr (s : State) (g l c : Nat) (x : Nat) : State :=
  let w : Word := BitVec.ofNat 32 x
  if c < 0xC0 then
    { s with vregs := Tab.set s.vregs 0 (regKey g l c) w,
             dirtyBanks := Tab.put s.dirtyBanks (g * 16 + c / 16) true }
  else if c < 0xE0 then { s with sregs := Tab.set s.sregs 0 (g * 32 + (c - 0xC0)) w }
  else if c < 0xF0 then s
  else if c < 0xF7 then s.modLane g l fun y => y.setPred (c - 0xF0) (x % 2 == 1)
  else if c = 0xFF then s.modLane g l fun y => { y with k := w }
  else s

def clampId (m : Nat) : Nat := if m < 2 ^ 32 then m else 2 ^ 32 - 1

/-! ### Reports to the steward (R273, R305, R316, R389, R429) -/

def w32 (n : Nat) : Word := BitVec.ofNat 32 n
/-- Append a 32-byte report to the queue of a die's steward. -/
def State.report (s : State) (gd : Nat) (ws : List Word) : State :=
  s.modDie gd fun d => { d with reports := d.reports ++ [ws] }
/-- A report that the manual gives no layout: the cause in word 0 [31:24], the TASKID in word 1, CLOCK in
word 6 and the site word in word 7 (log 14). -/
def causeReport (s : State) (cause task extra site : Nat) : List Word :=
  [w32 (cause * 2 ^ 24), w32 task, w32 extra, w32 (extra / 2 ^ 32), 0, 0, w32 s.cycle, w32 site]

/-- A fresh number. -/
def State.fresh (s : State) : Nat × State := (s.nextId, { s with nextId := s.nextId + 1 })

end Sys2Proof.Machine
end

