-- ==== Sys2Proof/Machine/Translate.lean ====
section
/-! DEFINITION. DRAM bytes, home map, frame map, interleave and rights (15_address_translation: R356 to R365;
tier remap R199). -/
namespace Sys2Proof.Machine

/-! ### Bytes of DRAM and of host memory -/

/-- Key of a byte of a die's DRAM in page-space numbering (R199, R359). -/
def memKey (gd addr : Nat) : Nat := gd * 2 ^ 37 + addr
def pageKey (gd page : Nat) : Nat := gd * 2 ^ 21 + page
/-- An unlisted byte reads as 0 (log 9). -/
def getByte (m : List Host.Cell) (k : Nat) : Nat := (Tab.get m k 0#8).toNat
def setByte (m : List Host.Cell) (k v : Nat) : List Host.Cell := Tab.set m 0#8 k (BitVec.ofNat 8 v)
/-- n bytes from key k, little-endian (R7). -/
def getBytes (m : List Host.Cell) (k : Nat) : Nat → List Nat
  | 0 => []
  | n + 1 => getByte m k :: getBytes m (k + 1) n
def leValue : List Nat → Nat
  | [] => 0
  | b :: bs => b % 256 + 256 * leValue bs
def leBytes (x : Nat) : Nat → List Nat
  | 0 => []
  | n + 1 => x % 256 :: leBytes (x / 256) n
def setBytes (m : List Host.Cell) (k : Nat) : List Nat → List Host.Cell
  | [] => m
  | b :: bs => setBytes (setByte m k b) (k + 1) bs
/-- Set the bytes whose enable bit is 1. -/
def setBytesEn (m : List Host.Cell) (k en : Nat) : List Nat → List Host.Cell
  | [] => m
  | b :: bs => setBytesEn (if en % 2 = 1 then setByte m k b else m) (k + 1) (en / 2) bs

def isDead (s : State) (gd page : Nat) : Bool := Tab.get s.dead (pageKey gd page) false

/-! ### Keys of memory encryption (R385, R386) -/

/-- The identity of the key in a slot of a package: an epoch that changes when the slot is filled or erased. -/
def keyEpochOf (s : State) (pkg slot : Nat) : Nat := if slot = 0 then 0 else Tab.get (s.pkg pkg).keys slot 0
def stampOf (s : State) (gd slot : Nat) : Nat := if slot = 0 then 0 else slot + 256 * keyEpochOf s (pkgOf gd) slot
/-- A line that reads as DATA_LOST: uncorrectable, or written under a key that is gone (R386, R427). -/
def lineLost (s : State) (gd mk : Nat) : Bool :=
  Tab.get s.bad (mk / 64) false || s.l2.any (fun e => e.2.any fun x => x.bad && !x.replica && x.mline == mk / 64) ||
    (let st := Tab.get s.stamps (mk / 64) 0
     st != 0 && st / 256 != keyEpochOf s (pkgOf gd) (st % 256))
/-- n bytes of a table of the steward at a page-space address; a line that is lost gives zeros, never its bytes (R434;
log 37). -/
def readTable (s : State) (gd addr n : Nat) : Nat :=
  if isDead s gd (addr / 65536) || lineLost s gd (memKey gd addr) then 0 else leValue (getBytes s.mem (memKey gd addr) n)
def readEntry8 (s : State) (gd addr : Nat) : Nat := readTable s gd addr 8
def readWord (s : State) (gd addr : Nat) : Nat := readTable s gd addr 4

/-! ### Descriptors and generations (R358) -/

def descKey (gd asid : Nat) : Nat := gd * 2 ^ 16 + asid
def State.desc? (s : State) (gd asid : Nat) : Option Desc := Tab.find? s.descs (descKey gd asid)
def State.curgen (s : State) (gd asid : Nat) : Nat := ((s.desc? gd asid).getD {}).curgen

/-- A steward address space: its context uses the steward's key slot 1 (R385, R444; log 15). -/
def stewardAsid (s : State) (asid : Nat) : Bool :=
  s.ctxs.any fun e => e.2.asid == asid && e.2.kslot == 1 && !e.2.words.isEmpty

/-! ### Home map (R359, R360, R361) -/

/-- What a walk finds: a value, or the KIND of its miss (R369). -/
inductive Walk where
  | ok (v : Nat)
  | miss (kind : Nat)
  deriving DecidableEq, Repr

/-- Die and address of the table a home-map pointer names; none if it is no pointer. -/
def hmPointer (e : Nat) : Option (Nat × Nat) :=
  if e % 4 = 1 ∧ bitsOf e 34 2 = 0 then some (bitsOf e 63 58, bitsOf e 57 35 * 2 ^ 14) else none

def leafIl (leaf : Nat) : Nat := bitsOf leaf 47 45
def leafStripe (leaf : Nat) : Nat := 2 ^ leafIl leaf
def blockBytes (leaf : Nat) : Nat := if leafIl leaf = 6 then 2 ^ 22 else 2 ^ 21

/-- Whether a home-map leaf is well formed by itself (R360). -/
def leafOk (leaf : Nat) : Bool :=
  leaf % 4 == 2 && bitsOf leaf 44 2 == 0 && decide (leafIl leaf ≤ 6) &&
    bitsOf leaf 53 48 % leafStripe leaf == 0

/-- The entry of the next table that an entry of the home map leads to (R359). -/
def hmLevel (s : State) (pkg : Nat) (e idx : Nat) : Walk :=
  if e % 4 = 0 then .miss 1 else
  match hmPointer e with
  | none => .miss 4
  | some (d, a) => .ok (readEntry8 s (pkg * 64 + d) (a + 8 * idx))

/-- One home-map walk from a die (R359, R362). -/
def walkHome (s : State) (gd asid va : Nat) : Walk :=
  match s.desc? gd asid with
  | none => .miss 1
  | some d =>
    let pkg := pkgOf gd
    match hmLevel s pkg d.hmroot.toNat (bitsOf va 55 43) with
    | .miss k => .miss k
    | .ok e0 =>
      match hmLevel s pkg e0 (bitsOf va 42 32) with
      | .miss k => .miss k
      | .ok e1 =>
        let i := bitsOf va 31 21
        match hmLevel s pkg e1 i with
        | .miss k => .miss k
        | .ok leaf =>
          if leaf % 4 = 0 then .miss 1
          else if !leafOk leaf then .miss 4
          else if leafIl leaf = 6 then
            (match hmLevel s pkg e1 (i ^^^ 1) with
             | .ok other => if other = leaf then .ok leaf else .miss 4
             | .miss k => .miss k)
          else .ok leaf

/-- Home die (global id) and key address of a virtual address under a leaf (R361). -/
def homeOf (leaf va : Nat) : Nat × Nat :=
  let pkg := bitsOf leaf 63 54
  let die := bitsOf leaf 53 48
  if leafIl leaf = 0 then (pkg * 64 + die, va)
  else
    let d := leafStripe leaf
    let o := va % blockBytes leaf
    (pkg * 64 + die + va / 4096 % d, va - o + o / (4096 * d) * 4096 + o % 4096)

/-- Home slice of an address (R188). -/
def sliceOf (va : Nat) : Nat := (bitsOf va 9 6) ^^^ (bitsOf va 13 10) ^^^ (bitsOf va 17 14) ^^^ (bitsOf va 21 18)

/-! ### Frame map (R363, R364) -/

def fV (e : Nat) : Bool := bitOf e 43
def fR (e : Nat) : Bool := bitOf e 44
def fW (e : Nat) : Bool := bitOf e 45
def fX (e : Nat) : Bool := bitOf e 46
/-- Whether a page may be written: executable pages are read-only to every agent (R35, R364). -/
def fWr (e : Nat) : Bool := fR e && fW e && !fX e
def fPin (e : Nat) : Bool := bitOf e 47
def fHs (e : Nat) : Bool := bitOf e 48
def fHm (e : Nat) : Bool := bitOf e 49
def fSz (e : Nat) : Nat := bitsOf e 51 50
def fGen (e : Nat) : Nat := bitsOf e 63 52
def fFrame (e : Nat) : Nat := bitsOf e 42 0

/-- The page number that a device leaf of some size gives a key address. -/
def leafPage (e key : Nat) : Nat :=
  bitsOf e 20 0 + (if fSz e = 2 then bitsOf key 20 16 else if fSz e = 3 then bitsOf key 29 16 else 0)

/-- Whether a leaf is free of the walk errors of R363 and R444. -/
def frameLeafOk (s : State) (gd asid level il e : Nat) : Bool :=
  (fSz e == 1 && level == 4 || fSz e == 2 && level == 3 || fSz e == 3 && level == 2) &&
  (fHm e || (fSz e != 2 || bitsOf e 20 0 % 32 == 0) && (fSz e != 3 || bitsOf e 20 0 % 16384 == 0)) &&
  (il == 0 || fSz e == 1) &&
  (!fHm e || (dieOf gd == 0 && !fHs e && !fPin e)) &&
  (fR e || (!fW e && !fX e)) &&
  (fHm e || bitsOf e 20 0 != Config.obsPage || stewardAsid s asid)

/-- Walk down from an entry that should be a pointer; `idx` are the remaining index fields. -/
def walkFrameAux (s : State) (gd asid il gen : Nat) : List Nat → Nat → Nat → Walk
  | [], _, _ => .miss 4
  | i :: is, level, e =>
    if !fV e then .miss 2
    else if fSz e ≠ 0 ∨ bitsOf e 63 52 ≠ 0 ∨ bitsOf e 49 44 ≠ 0 then .miss 4
    else
      let x := readEntry8 s gd (fFrame e % 2 ^ 37 + 8 * i)
      if fSz x = 0 then
        (if !fV x then .miss 2 else walkFrameAux s gd asid il gen is (level + 1) x)
      else if !fV x then .miss 2
      else if fGen x ≠ gen then .miss 3
      else if frameLeafOk s gd asid level il x then .ok x else .miss 4

/-- One frame-map walk at a home die (R363, R365): the current leaf of a key address. -/
def walkFrame (s : State) (gd asid il key : Nat) : Walk :=
  match s.desc? gd asid with
  | none => .miss 2
  | some d =>
    walkFrameAux s gd asid il d.curgen
      [bitsOf key 55 47, bitsOf key 46 38, bitsOf key 37 30, bitsOf key 29 21, bitsOf key 20 16] 0 d.fmroot.toNat

/-! ### Locations (R357) -/

/-- Where a byte of a virtual address lies: home die, leaf, page, offset, or a host physical address. -/
structure Loc where
  gd : Nat
  leaf : Nat
  page : Nat
  off : Nat
  key : Nat
  hpa : Nat
  deriving DecidableEq, Repr

def Loc.host (l : Loc) : Bool := fHm l.leaf
def Loc.mkey (l : Loc) : Nat := memKey l.gd (l.page * 65536 + l.off)
/-- A device leaf that names a page the die does not have (R199, R444). -/
def Loc.absent (l : Loc) : Bool := !l.host && decide (Config.pages ≤ l.page) && l.page != Config.obsPage
def Loc.obs (l : Loc) : Bool := !l.host && l.page == Config.obsPage

def mkLoc (gd leaf key : Nat) : Loc :=
  { gd := gd, leaf := leaf, page := if fHm leaf then 0 else leafPage leaf key, off := key % 65536, key := key,
    hpa := fFrame leaf * 65536 + (if fSz leaf = 1 then key % 2 ^ 16 else if fSz leaf = 2 then key % 2 ^ 21 else key % 2 ^ 30) }

/-- HLB and CTC keys (R362, R365). -/
def hlbKey (gd asid va : Nat) : Nat := (gd * 2 ^ 16 + asid) * 2 ^ 35 + va / 2 ^ 21
def ctcKey (gd asid key : Nat) : Nat := (gd * 2 ^ 16 + asid) * 2 ^ 40 + key / 2 ^ 16
def hlbHit (s : State) (gd asid va : Nat) : Option Nat :=
  match Tab.find? s.hlb (hlbKey gd asid va) with
  | some c => if c.gen = s.curgen gd asid then some c.leaf.toNat else none
  | none => none
def ctcHit (s : State) (gd asid key : Nat) : Option Nat :=
  match Tab.find? s.ctc (ctcKey gd asid key) with
  | some c => if c.gen = s.curgen gd asid then some c.leaf.toNat else none
  | none => none

/-- Between a leaf that a die holds and another that the map in memory now has, the device chooses for each access (R366). -/
def eitherLeaf (s : State) (va : Nat) (old : Option Nat) (new : Walk) : Walk :=
  match old with
  | none => new
  | some e => if new = .ok e ∨ Config.freeBool (s.tick * 2 ^ 56 + va) = true then .ok e else new
def homeLeaf (s : State) (gd asid va : Nat) : Walk := eitherLeaf s va (hlbHit s gd asid va) (walkHome s gd asid va)
def frameLeaf (s : State) (gd asid il key : Nat) : Walk := eitherLeaf s key (ctcHit s gd asid key) (walkFrame s gd asid il key)

/-- Both lookups at once: used for fetches, write-backs, command pieces and the steward's own reads. -/
inductive Found where
  | at (l : Loc)
  | miss (kind home key : Nat)
  deriving DecidableEq, Repr

def locate (s : State) (gd asid va : Nat) : Found :=
  match homeLeaf s gd asid va with
  | .miss k => .miss k gd 0
  | .ok leaf =>
    let (h, key) := homeOf leaf va
    match frameLeaf s h asid (leafIl leaf) key with
    | .miss k => .miss k h key
    | .ok e => .at (mkLoc h e key)

/-! ### The fill of the lookaside caches (R362, R365) -/

/-- The entry of a part of a cache that was used longest ago. -/
def oldestOf : List (Nat × Cached) → Option (Nat × Cached)
  | [] => none
  | e :: es => match oldestOf es with
    | none => some e
    | some x => if x.2.used < e.2.used then some x else some e
/-- Room for a new entry in a part of a cache that holds a number of entries: the one used longest ago goes. -/
def makeRoom (t : Tab Cached) (mine : Nat → Bool) (cap : Nat) : Tab Cached :=
  let es := t.filter fun e => mine e.1
  if es.length < cap then t else (oldestOf es).elim t fun e => Tab.del t e.1
/-- Fill the HLB: 512 sets of 8 entries, a region's set being its number modulo 512 (R362; log 35). -/
def hlbFill (s : State) (gd asid va leaf : Nat) : State :=
  let k := hlbKey gd asid va
  let t := if Tab.has s.hlb k then s.hlb else makeRoom s.hlb (fun n => n / 2 ^ 51 == gd && n % 512 == k % 512) 8
  { s with hlb := Tab.put t k { gen := s.curgen gd asid, leaf := BitVec.ofNat 64 leaf, used := s.tick } }
/-- Fill the CTC: 8,192 entries of a die (R365; log 35). -/
def ctcFill (s : State) (gd asid key leaf : Nat) : State :=
  let k := ctcKey gd asid key
  let t := if Tab.has s.ctc k then s.ctc else makeRoom s.ctc (fun n => n / 2 ^ 56 == gd) 8192
  { s with ctc := Tab.put t k { gen := s.curgen gd asid, leaf := BitVec.ofNat 64 leaf, used := s.tick } }
/-- An entry that an access uses. -/
def touchCached (t : Tab Cached) (k now : Nat) : Tab Cached :=
  match Tab.find? t k with
  | some c => Tab.put t k { c with used := now }
  | none => t

/-! ### Tenant partitions and guards (R271, R381, R382) -/

/-- The partition tag of a die: none when PARTCFG.EN is 0. -/
def partOf (s : State) (gd : Nat) : Option Nat :=
  let w := (s.die gd).partcfg.toNat
  if bitOf w 31 then some (bitsOf w 2 0) else none
/-- The guard table of a die's partition (R382) passes a (package, die) pair. -/
def guardEntry (s : State) (base gd : Nat) (dst : Nat) : Nat → Bool
  | 0 => false
  | n + 1 =>
    let a := base + 16 * n
    let w0 := readWord s gd a
    (bitOf w0 31 && bitsOf w0 9 0 == pkgOf dst && bitOf (readEntry8 s gd (a + 8)) (dieOf dst))
      || guardEntry s base gd dst n
/-- GTBL holds the address of the table in the steward's page space: die in [63:58] as in a pointer entry,
page-space address in [36:0] (log 16). -/
def guardPass (s : State) (src dst : Nat) : Bool :=
  let d := s.die src
  let p := d.gtblLo.toNat + 2 ^ 32 * d.gtblHi.toNat
  guardEntry s (p % 2 ^ 37) (pkgOf src * 64 + bitsOf p 63 58) dst 256
/-- The next die on a route from die a to die b of one package, first along the row (R15, R22, R268), with the
port it leaves by: 0 north, 1 east, 2 south, 3 west. -/
def hopRow (a b : Nat) : Nat × Nat :=
  if a % 8 < b % 8 then (a + 1, 1) else if b % 8 < a % 8 then (a - 1, 3)
  else if a / 8 < b / 8 then (a + 8, 2) else (a - 8, 0)
def hopCol (a b : Nat) : Nat × Nat :=
  if a / 8 < b / 8 then (a + 8, 2) else if b / 8 < a / 8 then (a - 8, 0)
  else if a % 8 < b % 8 then (a + 1, 1) else (a - 1, 3)
/-- The hops of a route: die, next die, port. -/
def routeOf (hop : Nat → Nat → Nat × Nat) (b : Nat) : Nat → Nat → List (Nat × Nat × Nat)
  | 0, _ => []
  | n + 1, a => if a = b then [] else let h := hop a b; (a, h.1, h.2) :: routeOf hop b n h.1
/-- The route between two dies of a package: column first while a link of the row-first route is down (R269). -/
def dieRoute (s : State) (src dst : Nat) : List (Nat × Nat × Nat) :=
  let base := pkgOf src * 64
  let r := routeOf hopRow (dieOf dst) 16 (dieOf src)
  if r.any fun h => (s.die (base + h.1)).linksDown.contains h.2.2 then routeOf hopCol (dieOf dst) 16 (dieOf src) else r
/-- The dies that carry UALink stations, two each (R24). -/
def stationDies : List Nat := [2, 3, 4, 5, 8, 15, 16, 23, 24, 31, 32, 39, 40, 47, 48, 55]
/-- The dies of the working stations of the partition of a die, in ascending station order (R275). -/
def stationsOf (s : State) (gd : Nat) : List Nat :=
  ((List.range 32).filter fun n =>
    let d := pkgOf gd * 64 + stationDies.getD (n / 2) 0
    partOf s d == partOf s gd && !(s.pkg (pkgOf gd)).stationsDown.contains n && !(s.pkg (pkgOf gd)).lostDies.contains d).map
    fun n => pkgOf gd * 64 + stationDies.getD (n / 2) 0
/-- The partition number a report carries: 0xFF outside every partition (R273). -/
def partNum (s : State) (gd : Nat) : Nat := (partOf s gd).getD 0xFF
/-- The first guard that drops a request from one die to another (R271, R275): its die, its port, the partition
the flit would have entered. Dies of no partition are treated as one more partition (log 16). -/
def firstDrop (s : State) (src dst : Nat) : Option (Nat × Nat × Nat) :=
  if pkgOf src = pkgOf dst then
    ((dieRoute s src dst).find? fun h => partOf s (pkgOf src * 64 + h.2.1) != partOf s src).map fun h =>
      (pkgOf src * 64 + h.1, h.2.2, partNum s (pkgOf src * 64 + h.2.1))
  else
    let out := stationsOf s src
    let inn := stationsOf s dst
    if out.isEmpty then some (src, 4, partNum s dst)
    else if !guardPass s src dst then some (out.getD (dst % out.length) 0, 4, partNum s dst)
    else if inn.isEmpty then some (dst, 4, partNum s dst)
    else if !guardPass s dst src then some (inn.getD (src % inn.length) 0, 4, partNum s dst)
    else none
def routeOpen (s : State) (src dst : Nat) : Bool := (firstDrop s src dst).isNone
/-- Whether the requests of an address space pass every guard from one die to another: those of the steward travel as MGT,
which no guard stops (R267, R271). -/
def guardOpen (s : State) (asid src dst : Nat) : Bool := stewardAsid s asid || routeOpen s src dst
/-- Word 8p + w of a die's slot maps, LSLOTp_w (R381). -/
def slotWord (s : State) (gd i : Nat) : Word :=
  Tab.get (s.die gd).lslots i (if i % 8 = 0 ∨ i % 8 = 4 then 0xFFFFFFF8#32 else 0xFFFFFFFF#32)
def slotOwner (s : State) (gd port j : Nat) : Nat := (slotWord s gd (8 * port + j / 8)).toNat / 16 ^ (j % 8) % 16
/-- Whether a link has a slot of a partition at both ends (R270, R381). -/
def linkServes (s : State) (a b port tag : Nat) : Bool :=
  (List.range 64).any fun j => slotOwner s a port j == tag && slotOwner s b ((port + 2) % 4) j == tag
def fabricServes (s : State) (src dst : Nat) : Bool :=
  (partOf s src).all fun t => (dieRoute s src dst).all fun h =>
    linkServes s (pkgOf src * 64 + h.1) (pkgOf src * 64 + h.2.1) h.2.2 t
/-- Whether each link on the way from one die to another has slots for the partition's flits; a flit without them waits
(R270). Steward traffic has the MGT slots. -/
def slotsOn (s : State) (asid src dst : Nat) : Bool :=
  stewardAsid s asid ||
    (if pkgOf src = pkgOf dst then fabricServes s src dst
     else
       let out := stationsOf s src
       let inn := stationsOf s dst
       fabricServes s src (out.getD (dst % max out.length 1) src) && fabricServes s (inn.getD (src % max inn.length 1) dst) dst)
/-- The dies at which a request from one die to another changes its way: the route of one package, or the stations by which
it leaves and enters (R269, R275). -/
def routeDies (s : State) (src dst : Nat) : List Nat :=
  if pkgOf src = pkgOf dst then (dieRoute s src dst).map Prod.fst
  else
    let out := stationsOf s src
    let inn := stationsOf s dst
    [out.getD (dst % max out.length 1) src, inn.getD (src % max inn.length 1) dst]

/-- A die that its package has declared lost (R276). -/
def dieLost (s : State) (gd : Nat) : Bool := (s.pkg (pkgOf gd)).lostDies.contains gd
/-- Whether a home is lost to a die: its package, or its die (R276, R277). -/
def homeLost (s : State) (gd home : Nat) : Bool := (s.pkg (pkgOf gd)).lostPkgs.contains (pkgOf home) || dieLost s home
/-- Whether a location's home is lost to a die, or is the host behind a CXL link that is down (R276, R277, R280). -/
def peerLost (s : State) (gd : Nat) (l : Loc) : Bool := homeLost s gd l.gd || (l.host && (s.pkg (pkgOf l.gd)).cxlDown)

/-- The traffic classes that guards meet (R267, R273). MGT meets none. -/
inductive Traffic where
  | req | rsp | tok | col | eth
  deriving DecidableEq, Repr
def Traffic.code : Traffic → Nat
  | .req => 0 | .rsp => 1 | .tok => 2 | .col => 3 | .eth => 4
/-- The report of a guard drop (R273). -/
def guardReport (s : State) (src dst : Nat) (cls : Traffic) (ctx addr site : Nat) : State :=
  match firstDrop s src dst with
  | none => s
  | some (g, port, part) =>
    s.report g [w32 (0x19 * 2 ^ 24 + cls.code * 2 ^ 16 + (partOf s src).getD 0 * 2 ^ 8 + part), w32 (dst * 2 ^ 16 + src),
      w32 (port * 2 ^ 16 + g), w32 ctx, w32 addr, w32 (addr / 2 ^ 32), w32 s.cycle, w32 site]

end Sys2Proof.Machine
end

