-- ==== Sys2Proof/Machine/Memory.lean ====
section
/-! DEFINITION. Memory as accesses meet it: DRAM lines with their keys and errors (R385, R386, R425, R434), dead
pages (R203, R204), the observation page (R444), stash lines (R194 to R198), L1 (R187), and what an access does
when it is performed (R215 to R217, R243, R244). -/
namespace Sys2Proof.Machine

/-- The slot a line is written under: 0 for a host-shared frame, else the context's (R385). -/
def slotFor (leaf kslot : Nat) : Nat := if fHs leaf then 0 else kslot

/-! ### Counters and traces behind the observation page (R440 to R447) -/

def pmcKey (ck : Nat) : Nat := ck
def State.pmc (s : State) (ck : Nat) : Pmc := Tab.get s.pmcs ck {}
def two48 : Nat := 2 ^ 48
/-- One counter's value. Counters of cycles and of slots that do not issue advance at the end of each step, so within a
step they read as before that cycle's events (R441, R445). -/
def Pmc.value (p : Pmc) (i : Nat) : Nat := Tab.get p.cnt i 0
/-- The event numbers 56 to 62 select by PMCSEL (R443). -/
def selCounts (w : Word) (ev slot : Nat) : Bool :=
  bitOf w.toNat 31 && bitsOf w.toNat 5 0 == ev && (!bitOf w.toNat 21 || bitsOf w.toNat 20 16 == slot)
def Pmc.bump (p : Pmc) (i n : Nat) : Pmc :=
  let v := Tab.get p.cnt i 0 + n
  { p with cnt := Tab.set p.cnt 0 i (v % two48), ovf := if two48 ≤ v then p.ovf ||| 2 ^ i else p.ovf }
/-- Count an event of a core, for a group slot (R441, R443). -/
def State.event (s : State) (ck slot ev n : Nat) : State :=
  if n = 0 then s else
  let p := (s.pmc ck).bump ev n
  let p := (List.range 7).foldl
    (fun (p : Pmc) j => if selCounts (Tab.get p.sel j 0) ev slot then p.bump (56 + j) n else p) p
  { s with pmcs := Tab.put s.pmcs ck p }

def sliceKey (gd sl i : Nat) : Nat := (gd * 16 + sl) * 8 + i
/-- Count a slice event (R446). -/
def State.sliceEvent (s : State) (gd sl i : Nat) : State :=
  let k := sliceKey gd sl i
  let v := Tab.get s.slices k 0 + 1
  { s with slices := Tab.set s.slices 0 k (v % two48),
           slovf := if two48 ≤ v then Tab.put s.slovf (gd * 16 + sl) (Tab.get s.slovf (gd * 16 + sl) 0 ||| 2 ^ i) else s.slovf }

/-- PMCSEL refuses an event above 55 and reserved bits (R443). -/
def pmcselOk (v : Nat) : Bool :=
  decide (v < 2 ^ 32) && decide (bitsOf v 5 0 ≤ 55) && bitsOf v 15 6 == 0 && bitsOf v 30 22 == 0

/-- The 8-byte word of the observation page at an offset (R444): 0 where nothing is assigned. -/
def obsRead (s : State) (gd off : Nat) : Nat :=
  if off < 0x400 * 17 then
    let p := s.pmc (gd * 17 + off / 0x400)
    let o := off % 0x400
    if o < 63 * 8 then p.value (o / 8)
    else if o = 0x200 then p.ovf
    else if 0x208 ≤ o ∧ o < 0x240 then (Tab.get p.sel ((o - 0x208) / 8) 0).toNat
    else 0
  else if 0x8000 ≤ off ∧ off < 0x9000 then
    let sl := (off - 0x8000) / 0x100
    let o := off % 0x100
    let t := Tab.get s.traces (gd * 16 + sl) {}
    if o < 0x40 then Tab.get s.slices (sliceKey gd sl (o / 8)) 0
    else if o = 0x40 then Tab.get s.slovf (gd * 16 + sl) 0
    else if o = 0x48 then t.ctl.toNat else if o = 0x50 then t.asid.toNat
    else if o = 0x58 then t.lo.toNat else if o = 0x60 then t.hi.toNat
    else if o = 0x68 then t.base.toNat else if o = 0x70 then t.size.toNat
    else if o = 0x78 then t.ptr.toNat else if o = 0x80 then t.lost.toNat
    else 0
  else 0

def obsWrite (s : State) (gd off v : Nat) : State :=
  if off < 0x400 * 17 then
    let ck := gd * 17 + off / 0x400
    let p := s.pmc ck
    let o := off % 0x400
    let p' : Pmc :=
      if o < 63 * 8 then { p with cnt := Tab.set p.cnt 0 (o / 8) (v % two48), written := p.written ++ [o / 8] }
      else if o = 0x200 then { p with ovf := p.ovf &&& ((2 ^ 63 - 1) ^^^ (v % 2 ^ 63)) }
      else if 0x208 ≤ o ∧ o < 0x240 then
        (if pmcselOk v then { p with sel := Tab.set p.sel 0#32 ((o - 0x208) / 8) (BitVec.ofNat 32 v) } else p)
      else p
    { s with pmcs := Tab.put s.pmcs ck p' }
  else if 0x8000 ≤ off ∧ off < 0x9000 then
    let sl := (off - 0x8000) / 0x100
    let o := off % 0x100
    let tk := gd * 16 + sl
    let t := Tab.get s.traces tk {}
    let x : Dword := BitVec.ofNat 64 v
    let putT (t : Trace) : State := { s with traces := Tab.put s.traces tk t }
    if o < 0x40 then { s with slices := Tab.set s.slices 0 (sliceKey gd sl (o / 8)) (v % two48) }
    else if o = 0x40 then { s with slovf := Tab.set s.slovf 0 tk (Tab.get s.slovf tk 0 &&& (255 ^^^ (v % 256))) }
    else if o = 0x48 then putT { t with ctl := x &&& 0xFFFF001F#64, seq := if x.toNat % 2 = 1 ∧ t.ctl.toNat % 2 = 0 then 0 else t.seq } else if o = 0x50 then putT { t with asid := x &&& 0x1FFFF#64 }
    else if o = 0x58 then putT { t with lo := x } else if o = 0x60 then putT { t with hi := x }
    else if o = 0x68 then putT { t with base := x } else if o = 0x70 then putT { t with size := x }
    else if o = 0x78 then putT { t with ptr := x } else if o = 0x80 then putT { t with lost := x }
    else s
  else s

/-! ### Scan stops (R452, R453) -/

/-- A stop source of an open session fires: 0 STOPCYC, 1 a trace record, 2 a CLASS 1 report, 3 a NaN count. Only the
first is taken. -/
def scanStop (s : State) (gd source : Nat) : State :=
  let p := s.pkg (pkgOf gd)
  if p.scanTag.isSome && p.scanTag == partOf s gd && bitOf p.stopen source && p.stopAt.isNone then
    s.modPkg (pkgOf gd) fun p => { p with stopAt := some s.cycle }
  else s
/-- Whether the clocks of a die are gated. -/
def gatedDie (s : State) (gd : Nat) : Bool :=
  let p := s.pkg (pkgOf gd)
  p.gatedAt.isSome && p.scanTag == partOf s gd

/-! ### The home (R188, R203, R204, R434, R435) -/

/-- n bytes of one line at a location; none where the datum is lost. -/
def homeRead (s : State) (l : Loc) (n : Nat) : Option (List Nat) :=
  if l.host then some (getBytes s.hostMem l.hpa n)
  else if l.obs then some (leBytes (obsRead s l.gd l.off) n)
  else if isDead s l.gd l.page then some (List.replicate n 0)
  else if lineLost s l.gd l.mkey then none
  else some (getBytes s.mem l.mkey n)

/-- Write bytes of one line under a key slot; none where a merging write meets a lost line. A write to a dead
page ends its dead state; its bytes are zero already. -/
def homeWrite (s : State) (kslot : Nat) (l : Loc) (en : Nat) (bytes : List Nat) : Option State :=
  if l.host then some { s with hostMem := setBytesEn s.hostMem l.hpa en bytes }
  else if l.obs then some (obsWrite s l.gd l.off (leValue bytes))
  else
    let whole := l.off % 64 == 0 && bytes.length == 64 && en % 2 ^ 64 == 2 ^ 64 - 1
    if lineLost s l.gd l.mkey && !isDead s l.gd l.page && !whole then none
    else some { s with mem := setBytesEn s.mem l.mkey en bytes,
                       bad := Tab.set s.bad false (l.mkey / 64) false,
                       stamps := Tab.set s.stamps 0 (l.mkey / 64) (stampOf s l.gd (slotFor l.leaf kslot)),
                       dead := Tab.set s.dead false (pageKey l.gd l.page) false }

/-- Write the enabled bytes of a line part to its home by a fresh lookup, past every cache; no effect where it misses.
Trace records are written so (R447). -/
def writeLine (s : State) (gd asid kslot va en : Nat) (bytes : List Nat) : State :=
  match locate s gd asid va with
  | .at l => (homeWrite s kslot l en bytes).getD s
  | .miss _ _ _ => s

/-! ### Pages at their channel (R199 to R201, R206, R374) -/

def tierKey (gd group : Nat) : Nat := gd * 2 ^ 19 + group
def State.tier (s : State) (gd group : Nat) : Tier := Tab.get s.tiers (tierKey gd group) {}
def State.setTier (s : State) (gd group : Nat) (t : Tier) : State := { s with tiers := Tab.put s.tiers (tierKey gd group) t }
/-- A frame of a die's DRAM: the fast frame of a group, or a capacity frame (R199). -/
inductive Frame where
  | fast (g : Nat)
  | capacity (n : Nat)
  deriving DecidableEq, Repr
/-- The frame that holds a page while its group's remap entry is f (R199). -/
def frameOf (f page : Nat) : Frame :=
  let g := page / 5
  let p := page % 5
  if p = f then .fast g else .capacity (4 * g + (if p = 0 then f else p) - 1)
def pageFrame (s : State) (gd page : Nat) : Frame := frameOf (s.tier gd (page / 5)).f page
def Frame.isFast : Frame → Bool
  | .fast _ => true
  | .capacity _ => false
/-- The unit number of the tier that a page lies in: 1 fast, 2 capacity (R429). -/
def tierUnit (s : State) (gd page : Nat) : Nat := if (pageFrame s gd page).isFast then 1 else 2
/-- Whether the row of DRAM that a frame is has been retired (R431; log 22). -/
def rowRetired (s : State) (gd : Nat) : Frame → Bool
  | .fast g => (s.die gd).retired.contains (1, g)
  | .capacity n => (s.die gd).retired.contains (2, n)

/-- The colour of a fast frame, and the bank in which a byte of it lies (R206). -/
def colourOf (g : Nat) : Nat := g % 4
def bankOf (g o : Nat) : Nat := (o / 256 + 256 * colourOf g) % 1024
/-- Bank, bank group, channel and layer of a numbered bank (R206). -/
def bankPlace (b : Nat) : Nat × Nat × Nat × Nat := (b % 4, b / 4 % 4, b / 16 % 16, b / 256)
/-- The bank that a report on a byte of a page names as INDEX (R429). -/
def dramIndex (s : State) (gd page off : Nat) : Nat :=
  match pageFrame s gd page with
  | .fast g => bankOf g off
  | .capacity n => Config.capacityBank n off % 65536

/-- A page's access count, in steps of 64 accesses (R201). -/
def pageCount (s : State) (gd page : Nat) : Nat := Tab.get s.counts (pageKey gd page) 0 / 64
/-- Whether a leaf maps a page of a congruence group. -/
def leafTouches (e group : Nat) : Bool :=
  let n := if fSz e = 2 then 32 else if fSz e = 3 then 16384 else 1
  !fHm e && decide (bitsOf e 20 0 < 5 * group + 5) && decide (5 * group < bitsOf e 20 0 + n)
/-- Whether a current leaf below an entry of a frame map pins a page of a group; the tables' sizes from the top. -/
def pinBelow (s : State) (gd gen group : Nat) : List Nat → Nat → Bool
  | [], _ => false
  | n :: ns, e =>
    fV e && fSz e == 0 && (List.range n).any fun i =>
      let x := readEntry8 s gd (fFrame e % 2 ^ 37 + 8 * i)
      fV x && (if fSz x = 0 then pinBelow s gd gen group ns x else fGen x == gen && fPin x && leafTouches x group)
/-- Whether a group contains a pinned page. -/
def groupPinned (s : State) (gd group : Nat) : Bool :=
  s.descs.any fun d => d.1 / 2 ^ 16 == gd && pinBelow s gd d.2.curgen group [512, 512, 256, 512, 32] d.2.fmroot.toNat
def swapsOn (s : State) (gd : Nat) : Nat := (s.tiers.filter fun t => t.1 / 2 ^ 19 == gd && t.2.swapping.isSome).length
/-- Whether an access to a page starts a swap of it into the fast tier (R201); no page moves into or out of a retired row
(R1). -/
def swapStarts (s : State) (gd page : Nat) : Bool :=
  let t := s.tier gd (page / 5)
  decide (page < Config.pages) && page % 5 != t.f && decide (pageCount s gd (page / 5 * 5 + t.f) + 8 ≤ pageCount s gd page) && t.swapping.isNone &&
    (!t.swapped || decide (t.lastSwap + 65536 ≤ s.cycle)) && decide (swapsOn s gd < 16) && !groupPinned s gd (page / 5) &&
    ([page % 5, t.f, 0].eraseDups).all fun p => !rowRetired s gd (frameOf t.f (page / 5 * 5 + p))
/-- An access to a page at its channel: it is counted (the 4-bit count saturates), and it may start a swap (R201). -/
def chanAccess (s : State) (gd page : Nat) : State :=
  let k := pageKey gd page
  let s := { s with counts := Tab.put s.counts k (min (Tab.get s.counts k 0 + 1) (15 * 64 + 63)) }
  if swapStarts s gd page then s.setTier gd (page / 5) { s.tier gd (page / 5) with asked := some (page % 5) } else s
/-- Whether requests to a page are held: it moves in a swap (R200). -/
def swapHeld (s : State) (gd page : Nat) : Bool :=
  let t := s.tier gd (page / 5)
  match t.swapping with
  | none => false
  | some (i, _) => page % 5 == i || page % 5 == t.f || page % 5 == 0
/-- The requests of a queue that are still there. -/
def liveQueue (s : State) (q : List Nat) : List Nat := q.filter fun n => Tab.has s.accs n || Tab.has s.cmds n
/-- A held request arrives at its channel. -/
def arriveHeld (s : State) (gd page id : Nat) : State :=
  let t := s.tier gd (page / 5)
  if t.queue.contains id || !swapHeld s gd page then s else s.setTier gd (page / 5) { t with queue := liveQueue s t.queue ++ [id] }
/-- Whether a page that moves holds a request, or one that was held before it goes first (R200). -/
def queueHolds (s : State) (id : Nat) : Bool :=
  s.tiers.any fun t => t.2.queue.contains id && (t.2.swapping.isSome || (liveQueue s t.2.queue).head? != some id)
/-- The held request that goes on first once its pages have moved (R200, R202). -/
def queueHead (s : State) : Option Nat :=
  s.tiers.findSome? fun t => if t.2.swapping.isSome then none else (liveQueue s t.2.queue).head?
/-- A request leaves the queues. -/
def leaveQueues (s : State) (id : Nat) : State :=
  { s with tiers := s.tiers.map fun t => if t.2.queue.contains id then (t.1, { t.2 with queue := t.2.queue.filter (· != id) }) else t }

/-! ### Traces (R447, R448) -/

def stewardSpace (s : State) : Nat :=
  ((List.find? (fun c : Nat × Ctx => c.2.kslot == 1 && !c.2.words.isEmpty) s.ctxs).map fun c => c.2.asid).getD 0
/-- What a slice logs of one access: the fields of a record (R448). -/
structure Ask where
  req : Nat                             -- requester's die
  core : Nat := 31
  agent : Nat := 6
  op : Nat := 0
  asid : Nat
  va : Nat
  bytes : Nat := 0
  site : Nat := 0
  held : Bool := false                  -- it has waited for a swap (R200)
  deriving DecidableEq, Repr
def traceWords (s : State) (x : Ask) (result seq : Nat) : List Nat :=
  [s.cycle % 2 ^ 32, x.req * 65536 + x.core * 2048 + x.agent * 256 + x.op * 16 + result, x.asid * 65536 + x.bytes * 256,
    x.site, x.va % 2 ^ 32, x.va / 2 ^ 32, seq, 0]
/-- Log an access at a slice where its trace registers admit it: at most one record every two cycles. -/
def logTrace (s : State) (gd sl : Nat) (x : Ask) (result : Nat) : State :=
  let k := gd * 16 + sl
  let t := Tab.get s.traces k {}
  let c := t.ctl.toNat
  let kind := if result = 0 then bitOf c 3 else bitOf c 4
  let space := bitOf t.asid.toNat 16 || t.asid.toNat % 65536 == x.asid
  if !(bitOf c 0 && bitOf c (16 + x.op) && kind && space && decide (t.lo.toNat ≤ x.va) && decide (x.va < t.hi.toNat)) then s else
  let full := decide (t.size.toNat ≤ t.ptr.toNat)
  let s := if bitOf c 2 then scanStop s gd 1 else s
  if (full && !bitOf c 1) || decide (s.cycle < t.next) then { s with traces := Tab.put s.traces k { t with lost := t.lost + 1, seq := t.seq + 1 } }
  else
    let p := if full then 0 else t.ptr.toNat
    let bytes := (traceWords s x result t.seq).flatMap fun w => leBytes w 4
    let s := writeLine s gd (stewardSpace s) 1 (t.base.toNat + p) (2 ^ 32 - 1) bytes
    let next := p + 32
    let next := if t.size.toNat ≤ next ∧ bitOf c 1 then 0 else next
    (s.sliceEvent gd sl 7) |> fun s =>
      { s with traces := Tab.put s.traces k { t with ptr := BitVec.ofNat 64 next, seq := t.seq + 1, next := s.cycle + 2 } }

/-! ### L2 (R181, R188 to R193, R446) -/

def l2Key (gd sl va : Nat) : Nat := (gd * 16 + sl) * 4096 + va / 1024 % 4096
def l2Die (k : Nat) : Nat := k / 65536
def l2Slice (k : Nat) : Nat := k / 4096 % 16
def l2At (s : State) (k : Nat) : List L2Line := Tab.get s.l2 k []
def setL2 (s : State) (k : Nat) (ls : List L2Line) : State := { s with l2 := Tab.set s.l2 [] k ls }
def L2Line.is (x : L2Line) (asid va : Nat) (replica : Bool) : Bool := x.asid == asid && x.line == va / 64 && x.replica == replica
def l2Find (s : State) (gd sl asid va : Nat) (replica : Bool) : Option L2Line :=
  (l2At s (l2Key gd sl va)).find? fun x => x.is asid va replica
/-- Whether a home slice holds a line. -/
def homeHolds (s : State) (l : Loc) (asid va : Nat) : Bool := (l2Find s l.gd (sliceOf va) asid va false).isSome
/-- The ways of a set: 16, less those of retired sub-arrays, which are one way of 64 sets (R190, R431; log 22). -/
def l2Ways (s : State) (k : Nat) : Nat :=
  16 - ((s.die (l2Die k)).retired.filter fun r => r.1 == 3 && r.2 % 1024 == l2Slice k + 16 * (k % 4096 / 64)).length
/-- A line leaves its set: a dirty one is written back to the DRAM, where its bytes already stand. -/
def l2Gone (gd : Nat) (s : State) (y : L2Line) : State :=
  if y.below.isEmpty then s else
  chanAccess (if y.bad then { s with bad := Tab.put s.bad y.mline true } else s) gd (y.mline / 1024 % 2 ^ 21)
/-- Place a line first in its set, at most 8 of whose lines are replicas; the ones used longest ago make room, and
dirty ones are written back to the DRAM (R188, R190; log 6). -/
def l2Place (s : State) (gd sl va : Nat) (x : L2Line) : State :=
  let k := l2Key gd sl va
  let ls := (l2At s k).filter fun y => !(y.asid == x.asid && y.line == x.line && y.replica == x.replica)
  let ls := if x.replica && decide (8 ≤ (ls.filter fun y => y.replica).length) then (ls.reverse.eraseP fun y => y.replica).reverse else ls
  let all := x :: ls
  (all.drop (l2Ways s k)).foldl (l2Gone gd) (setL2 s k (all.take (l2Ways s k)))
/-- Drop the lines of L2 that meet a test; what a dirty one holds stays in `mem`: it is written back. -/
def l2Drop (s : State) (p : Nat → L2Line → Bool) : State :=
  let stay := s.l2.flatMap fun e => e.2.filter fun x => p e.1 x && x.bad && !x.below.isEmpty
  { s with bad := stay.foldl (fun b x => Tab.put b x.mline true) s.bad, l2 := s.l2.filterMap fun e => let ls := e.2.filter fun x => !p e.1 x; if ls.isEmpty then none else some (e.1, ls) }
/-- Write a line's dirty bytes back to the DRAM, and keep it clean. -/
def l2Clean (s : State) (p : Nat → L2Line → Bool) : State :=
  { s with l2 := s.l2.map fun e => (e.1, e.2.map fun x => if p e.1 x then { x with below := [] } else x) }
/-- The dirty home lines of some dies are lost: their DRAM holds what it held under them (R454). -/
def l2Lose (s : State) (p : Nat → Bool) : State :=
  let lost := (s.l2.filter fun e => p (l2Die e.1)).flatMap fun e => e.2.filter fun x => !x.below.isEmpty
  let m := lost.foldl (fun m x => setBytes m (64 * x.mline) (x.below.map BitVec.toNat)) s.mem
  { s with mem := m, l2 := s.l2.filter fun e => !p (l2Die e.1) }

/-- The zone of a core under a replication degree: up to 6, rectangles of dies that halve the grid by columns first; then
quads, then cores. At degree 0 each die counts as its own zone (R192; log 6). -/
def zoneOf (d gd core : Nat) : Nat × Nat × Nat :=
  let x := dieOf gd
  if d = 0 then (gd, 0, 0)
  else if d ≤ 6 then (pkgOf gd, x % 8 / (8 / 2 ^ ((d + 1) / 2)), x / 8 / (8 / 2 ^ (d / 2)))
  else if d = 7 then (gd, core / 4, 0) else (gd, core, 0)
/-- Hops between two dies of the grid. -/
def gridHops (a b : Nat) : Nat :=
  (a % 8 - b % 8) + (b % 8 - a % 8) + (a / 8 - b / 8) + (b / 8 - a / 8)
/-- The die of a zone nearest the home, the lowest id first. -/
def zoneDie (d gd home : Nat) : Nat :=
  let zs := (List.range 64).filter fun x => zoneOf d (pkgOf gd * 64 + x) 0 == zoneOf d gd 0
  pkgOf gd * 64 + zs.foldl (fun b x => if gridHops x (dieOf home) < gridHops b (dieOf home) then x else b) (zs.headD 0)
/-- The replica slice of a requester outside the home's zone (R192): die and slice. The DCC, which belongs to no quad, has
none at degrees 7 and 8 (log 6). -/
def replSlice (d gd core home h : Nat) : Option (Nat × Nat) :=
  if d = 0 ∨ pkgOf gd ≠ pkgOf home then none
  else if d ≤ 6 then (if zoneOf d gd core = zoneOf d home 0 then none else some (zoneDie d gd home, h))
  else if core = 16 then none
  else if d = 7 then (if zoneOf 7 gd core = (home, h / 4, 0) then none else some (gd, 4 * (core / 4) + h % 4))
  else if zoneOf 8 gd core = (home, h, 0) then none else some (gd, core)
def replKey (gd va : Nat) : Nat := gd * 2 ^ 35 + va / 2 ^ 21
def State.repl (s : State) (gd va : Nat) : Repl := Tab.get s.repls (replKey gd va) {}
def State.setRepl (s : State) (gd va : Nat) (x : Repl) : State := { s with repls := Tab.set s.repls {} (replKey gd va) x }
/-- Whether a requester lies outside the zone of a home slice at the degree of the region (R193). -/
def outOfZone (d gd core home h : Nat) : Bool :=
  pkgOf gd != pkgOf home || zoneOf d gd core != (if d ≤ 6 then zoneOf d home 0 else if d = 7 then (home, h / 4, 0) else (home, h, 0))
/-- The slice whose replica serves a load, if one does: the requester's own designated slice, then its zone's (R192). -/
def replAt (s : State) (gd core : Nat) (l : Loc) (asid va : Nat) : Option (Nat × Nat) :=
  let h := sliceOf va
  if fHs l.leaf || l.host || l.obs || pkgOf gd != pkgOf l.gd then none
  else if gd != l.gd && (l2Find s gd h asid va true).isSome then some (gd, h)
  else match replSlice (s.repl l.gd va).degree gd core l.gd h with
    | some z => if (l2Find s z.1 z.2 asid va true).isSome then some z else none
    | none => none
/-- The home removes every replica of a line in the package (R191). -/
def dropReplicas (s : State) (l : Loc) (asid va : Nat) : State :=
  let ks := (s.l2.filter fun e => pkgOf (l2Die e.1) == pkgOf l.gd && e.2.any fun x => x.is asid va true).map Prod.fst
  let s := ks.foldl (fun s k =>
    let s := (setL2 s k ((l2At s k).filter fun x => !x.is asid va true)).sliceEvent (l2Die k) (l2Slice k) 4
    logTrace s (l2Die k) (l2Slice k) { req := l.gd, op := 9, asid := asid, va := va - va % 64 } 0) s
  if ks.isEmpty then s else
    let x := s.repl l.gd va
    s.setRepl l.gd va { x with x := x.x + ks.length }
/-- What a home slice does with a request: a hit, or the line is brought from its channel; `excl` removes the replicas, and
`dirty` makes the line dirty. It is counted, and logged (R188, R191, R193, R446, R447). Of the observation page nothing is
kept (R444); a request to host memory, which is in no DRAM and no slice, is only logged (R280; log 6). -/
def homeAsk (s : State) (l : Loc) (q : Ask) (excl dirty lost : Bool) : State :=
  if l.obs then s else
  let sl := sliceOf q.va
  if l.host then logTrace s l.gd sl q (if lost then 4 else 1) else
  let had := l2Find s l.gd sl q.asid q.va false
  let s := s.sliceEvent l.gd sl (if had.isSome then 0 else 1)
  let s := if had.isSome then s else chanAccess s l.gd l.page
  let x := s.repl l.gd q.va
  let out := outOfZone x.degree q.req q.core l.gd sl
  let s := if q.op = 0 ∨ q.op = 3 then (if out then s.setRepl l.gd q.va { x with r := x.r + 1 } else s)
    else if q.op = 1 ∨ q.op = 2 ∨ q.op = 6 then s.setRepl l.gd q.va { x with w := x.w + 1 } else s
  let s := if excl then dropReplicas s l q.asid q.va else s
  let s :=
    if lost then s else
    let line := (l.mkey - l.mkey % 64) / 64
    let y := had.getD { asid := q.asid, line := q.va / 64, leaf := l.leaf, mline := line }
    let y := if !dirty then y else
      { y with bad := false, below := if y.below.isEmpty then (getBytes s.mem (64 * line) 64).map (BitVec.ofNat 8) else y.below }
    l2Place s l.gd sl q.va y
  logTrace s l.gd sl q (if lost then 4 else if q.held then 2 else if had.isSome then 0 else 1)
/-- A lane's load: a replica serves it, or the home does, and a replica is placed for its zone (R190, R192). -/
def loadAsk (s : State) (l : Loc) (q : Ask) (core : Nat) : State :=
  match replAt s q.req core l q.asid q.va with
  | some z => logTrace (s.sliceEvent z.1 z.2 2) z.1 z.2 q 0
  | none =>
    let s := homeAsk s l q false false false
    let h := sliceOf q.va
    if fHs l.leaf || l.host || l.obs then s else
    match replSlice (s.repl l.gd q.va).degree q.req core l.gd h with
    | none => s
    | some z =>
      let s := (l2Place s z.1 z.2 q.va { asid := q.asid, line := q.va / 64, leaf := l.leaf, replica := true }).sliceEvent z.1 z.2 3
      logTrace s z.1 z.2 { q with agent := 6, op := 8, bytes := 0 } 1
/-- Write part of a line at its home; none where a merging write meets a lost line. -/
def homePut (s : State) (kslot : Nat) (l : Loc) (q : Ask) (en : Nat) (bytes : List Nat) : Option State :=
  if (homeWrite s kslot l en bytes).isNone then none else homeWrite (homeAsk s l q true true false) kslot l en bytes
/-- Whether a request that its home slice does not serve by itself is held at the channel (R200, R202). -/
def chanHeld (s : State) (l : Loc) (asid va : Nat) : Bool := !l.host && !l.obs && swapHeld s l.gd l.page && !homeHolds s l asid va

/-! ### Stash lines (R194 to R198) -/

def stashKey (team line : Nat) : Nat := team * 2 ^ 14 + line
def kslotOf (s : State) (ctx : Nat) : Nat := (s.ctxOf ctx).kslot
/-- A task whose write met an uncorrectable line is to be aborted (R434). -/
def State.abort (s : State) (task va site : Nat) : State :=
  if s.aborts.any fun a => a.1 == task then s else { s with aborts := s.aborts ++ [(task, va, site)] }
/-- What a write-back of a line does: it stays as it is where it can not be made yet; else what it leaves, which forgets
what a guard drops and what a lost peer does not take (R197, R272, R481), and aborts the writers where the line is
lost (R434). -/
def backTo (s : State) (ck asid ctx la en : Nat) (bytes : List Nat) (writers : List Nat) : Option State :=
  let gd := gdOfCk ck
  match locate s gd asid la with
  | .miss _ _ _ => none
  | .at l =>
    if peerLost s gd l then some { s with wbFails := s.wbFails ++ [(ck, asid, 0x10, la)] }
    else if !guardOpen s asid gd l.gd then some (guardReport { s with wbFails := s.wbFails ++ [(ck, asid, 0x0C, la)] } gd l.gd .req ctx la 0)
    else if chanHeld s l asid la || gatedDie s l.gd then none
    else
      let q : Ask := { req := gd, core := coreOfCk ck, op := 6, asid := asid, va := la }
      match homePut s (kslotOf s ctx) l q en bytes with
      | some t => some t
      | none => some (writers.foldl (fun s w => s.abort w la 0) (homeAsk s l q false false true))
/-- Write an owned line's dirty bytes back: it is Clean afterwards, or still Owned where that can not be done yet (R197). -/
def stashBack (s : State) (k : Nat) (x : StashLine) : State :=
  if !x.owned then s else
  let clean (s : State) : State := { s with stash := Tab.put s.stash k { x with owned := false, dirty := 0 } }
  if x.dirty = 0 then clean s else
  match backTo s x.ck (s.ctxOf x.ctx).asid x.ctx x.addr x.dirty.toNat (x.bytes.map BitVec.toNat) [x.task] with
  | some t => clean t
  | none => s
/-- Whether a stash line is owned now. -/
def stashOwned (s : State) (k : Nat) : Bool := ((Tab.find? s.stash k).map fun x => x.owned).getD false
/-- Write a stash line back, then make it Invalid; a line that stays Owned stays. -/
def stashOut (s : State) (k : Nat) (x : StashLine) : State :=
  let s := stashBack s k x
  if stashOwned s k then s else { s with stash := Tab.del s.stash k }
/-- The stash lines that hold a global line. -/
def stashOf (s : State) (asid la : Nat) : List (Nat × StashLine) :=
  s.stash.filter fun e => e.2.addr == la && (s.ctxOf e.2.ctx).asid == asid
/-- Recall a global line from every team that holds it, for a reader or a writer (R196). -/
def recallLine (s : State) (asid la : Nat) (write : Bool) : State :=
  (stashOf s asid la).foldl (fun s e =>
    let s := if e.2.owned then s.event e.2.ck 32 43 1 else s
    if write then stashOut s e.1 e.2 else stashBack s e.1 e.2) s
/-- Whether a global line can be recalled now. -/
def recallable (s : State) (asid la : Nat) : Bool :=
  (stashOf s asid la).all (fun e => !e.2.owned) || ((stashOf (recallLine s asid la false) asid la).all fun e => !e.2.owned)

/-! ### L1 (R186, R187) -/

def l1Key (ck asid va : Nat) : Nat := (ck * 2 ^ 16 + asid) * 2 ^ 56 + va
def l1Core (k : Nat) : Nat := k / 2 ^ 72
def l1Asid (k : Nat) : Nat := k / 2 ^ 56 % 2 ^ 16
def l1Va (k : Nat) : Nat := k % 2 ^ 56
def l1SetKey (ck va : Nat) : Nat := ck * 1024 + va / 64 % 1024
/-- Eight-byte words of a set's shared store: 40; of the DCC, whose L1 has 64 KiB, 8 (R17, R186; log 6). A sub-array, which is
eight words of each of 64 sets, is off once it is retired (R431; log 22). -/
def l1Room (s : State) (ck va : Nat) : Nat :=
  let off := ((s.die (gdOfCk ck)).retired.filter fun r => r.1 == 4 && r.2 % 512 == coreOfCk ck + 32 * (va / 4096 % 16)).length
  (if coreOfCk ck = 16 then 8 else 40) - 8 * off
def l1Set (s : State) (ck va : Nat) : List L1Blk := Tab.get s.l1sets (l1SetKey ck va) []
def setL1Set (s : State) (ck va : Nat) (bs : List L1Blk) : State := { s with l1sets := Tab.set s.l1sets [] (l1SetKey ck va) bs }
def ctxOfAsid (s : State) (asid : Nat) : Nat :=
  ((List.find? (fun c : Nat × Ctx => c.2.asid == asid && !c.2.words.isEmpty) s.ctxs).map Prod.fst).getD 0

/-- The L1 byte of a core, if it holds one. -/
def l1Byte (s : State) (ck asid va : Nat) : Option L1Byte := Tab.find? s.l1 (l1Key ck asid va)
/-- Whether a block covers n bytes at an address. -/
def L1Blk.covers (b : L1Blk) (asid va n : Nat) : Bool :=
  b.asid == asid && b.line == va / 64 && decide (8 * b.first ≤ va % 64) && decide (va % 64 + n ≤ 8 * (b.first + b.words))
def L1Blk.meets (b : L1Blk) (asid va n : Nat) : Bool :=
  b.asid == asid && b.line == va / 64 && decide (8 * b.first < va % 64 + n) && decide (va % 64 < 8 * (b.first + b.words))
def L1Blk.at (b : L1Blk) (i : Nat) : Nat := 64 * b.line + 8 * b.first + i
/-- Drop the bytes whose keys and values meet a test, and the blocks that then hold none. -/
def l1Drop (s : State) (p : Nat → L1Byte → Bool) : State :=
  let t := s.l1.filter fun e => !p e.1 e.2
  { s with l1 := t, l1sets := s.l1sets.filterMap fun e =>
      let bs := e.2.filter fun b => (List.range (8 * b.words)).any fun i => Tab.has t (l1Key (e.1 / 1024) b.asid (b.at i))
      if bs.isEmpty then none else some (e.1, bs) }
/-- The dirty bytes of part of a line of a core: offset and byte. -/
def dirtyIn (s : State) (ck asid la lo hi : Nat) : List (Nat × L1Byte) :=
  (List.range 64).filterMap fun i =>
    if lo ≤ i ∧ i < hi then (l1Byte s ck asid (la + i)).bind fun b => if b.dirty then some (i, b) else none else none
/-- Write back, but keep, the dirty bytes of part of a line of a core: one request. They stay dirty where their lookup
misses or their page moves (R187, R224). -/
def backPart (s : State) (ck asid la lo hi : Nat) : State :=
  let ds := dirtyIn s ck asid la lo hi
  if ds.isEmpty then s else
  let blks := (l1Set s ck la).filter fun b => b.asid == asid && b.line == la / 64 && ds.any fun d => decide (8 * b.first ≤ d.1) && decide (d.1 < 8 * (b.first + b.words))
  let en := ds.foldl (fun n d => n + 2 ^ d.1) 0
  let bytes := (List.range 64).map fun i => ((List.find? (fun d : Nat × L1Byte => d.1 == i) ds).map fun d => d.2.val.toNat).getD 0
  let s1 := recallLine s asid la true
  if (stashOf s1 asid la).any fun e => e.2.owned then s else
  match backTo s1 ck asid (ctxOfAsid s asid) la en bytes (ds.map fun d => d.2.by_).eraseDups with
  | none => s
  | some t =>
    let t := t.event ck 32 40 blks.length
    { t with l1 := ds.foldl (fun m d => Tab.put m (l1Key ck asid (la + d.1)) { d.2 with dirty := false }) t.l1 }
/-- Write back, but keep, the dirty bytes of the line of an address. -/
def backLine (s : State) (ck asid va : Nat) : State := backPart s ck asid (va - va % 64) 0 64
/-- Write back the dirty bytes whose keys satisfy a test, line by line. -/
def writeBack (s : State) (p : Nat → Bool) : State :=
  (((s.l1.filter fun e => e.2.dirty && p e.1).map fun e => e.1 / 64).eraseDups).foldl
    (fun s n => backLine s (l1Core (64 * n)) (l1Asid (64 * n)) (l1Va (64 * n))) s
/-- Write back every dirty byte of a core (a release at QUAD scope or wider). -/
def writeBackCore (s : State) (ck : Nat) : State := writeBack s fun k => l1Core k == ck
/-- Drop every clean byte of a core (an acquire at QUAD scope or wider). -/
def dropClean (s : State) (ck : Nat) : State := l1Drop s fun k b => l1Core k == ck && !b.dirty
/-- Whether every dirty byte of a core has been written back. -/
def coreClean (s : State) (ck : Nat) : Bool := s.l1.all fun e => l1Core e.1 != ck || !e.2.dirty
def inLine (ck asid va k : Nat) : Bool := l1Core k == ck && l1Asid k == asid && l1Va k / 64 == va / 64
/-- Write back and drop one line of a core; a byte that can not be written back yet stays. -/
def flushLine (s : State) (ck asid va : Nat) : State :=
  l1Drop (backLine s ck asid va) fun k b => inLine ck asid va k && !b.dirty
/-- Whether a core holds a dirty byte of a line. -/
def lineDirty (s : State) (ck asid va : Nat) : Bool := s.l1.any fun e => inLine ck asid va e.1 && e.2.dirty

/-- Whether one block serves a load: it covers the access and holds each of its bytes. -/
def l1Has (s : State) (ck asid va n : Nat) : Bool :=
  ((l1Set s ck va).any fun b => b.covers asid va n) && (List.range n).all fun i => (l1Byte s ck asid (va + i)).isSome
/-- A block is used: it comes first in its set. -/
def l1Touch (s : State) (ck asid va n : Nat) : State :=
  let bs := l1Set s ck va
  match bs.find? fun b => b.covers asid va n with
  | some b => setL1Set s ck va (b :: bs.filter (· != b))
  | none => s
/-- The predictor learns from an access (R186). -/
def l1Learned (s : State) (ck site : Nat) (hit : Bool) : State :=
  let k := ck * 1024 + site % 1024
  { s with l1pred := Tab.set s.l1pred 0 k (Config.l1Learn (Tab.get s.l1pred k 0) hit) }
/-- Grow a range of words towards a size, upwards first, without the words of other blocks. -/
def growBlk (taken : Nat → Bool) (size : Nat) : Nat → Nat × Nat → Nat × Nat
  | 0, r => r
  | n + 1, (lo, hi) =>
    if size ≤ hi - lo then (lo, hi)
    else if hi < 8 ∧ !taken hi then growBlk taken size n (lo, hi + 1)
    else if 0 < lo ∧ !taken (lo - 1) then growBlk taken size n (lo - 1, hi)
    else (lo, hi)
/-- Make room in a set: the blocks used longest ago go, their dirty bytes written back; none where one can not go yet. -/
def l1Evict (ck va need : Nat) : Nat → State → Option State
  | 0, _ => none
  | n + 1, s =>
    let bs := l1Set s ck va
    if (bs.map fun b => b.words).sum + need ≤ l1Room s ck va ∧ bs.length < 16 then some s else
    match bs.getLast? with
    | none => none
    | some b =>
      let lo := 8 * b.first
      let hi := 8 * (b.first + b.words)
      let s := backPart s ck b.asid (64 * b.line) lo hi
      if (dirtyIn s ck b.asid (64 * b.line) lo hi).isEmpty then
        let t := s.l1.filter fun e => !(inLine ck b.asid (64 * b.line) e.1 && decide (lo ≤ l1Va e.1 % 64) && decide (l1Va e.1 % 64 < hi))
        l1Evict ck va need n (setL1Set { s with l1 := t } ck va (bs.dropLast))
      else none
/-- Place a block over an access of n bytes: one that covers it is used; else the predictor gives the size of a new one,
which takes in the blocks that the access meets. The block, with the state; none where no room can be made. -/
def l1Place (s : State) (ck asid va n leaf site : Nat) : Option (State × L1Blk) :=
  let bs := l1Set s ck va
  match bs.find? fun b => b.covers asid va n with
  | some b => some (l1Touch s ck asid va n, b)
  | none =>
    let old := bs.filter fun b => b.meets asid va n
    let lo := old.foldl (fun m b => min m b.first) (va % 64 / 8)
    let hi := old.foldl (fun m b => max m (b.first + b.words)) ((va % 64 + n + 7) / 8)
    let others := bs.filter fun b => !(b.meets asid va n)
    let taken (w : Nat) : Bool := others.any fun b => b.asid == asid && b.line == va / 64 && decide (b.first ≤ w) && decide (w < b.first + b.words)
    let size := Config.l1Size (Tab.get s.l1pred (ck * 1024 + site % 1024) 0) % 8 + 1
    let r := growBlk taken size 8 (lo, hi)
    let b : L1Blk := { asid := asid, line := va / 64, first := r.1, words := r.2 - r.1, leaf := leaf }
    (l1Evict ck va b.words 17 (setL1Set s ck va others)).map fun t => (setL1Set t ck va (b :: l1Set t ck va), b)
/-- Fill a block with the bytes of its words as the home holds them; dirty bytes stay. -/
def l1Fill (s : State) (ck : Nat) (b : L1Blk) (bytes : List Nat) : State :=
  { s with l1 := (List.range (8 * b.words)).foldl (fun t i =>
      let k := l1Key ck b.asid (b.at i)
      if ((Tab.find? t k).map fun x => x.dirty) = some true then t
      else Tab.put t k { val := BitVec.ofNat 8 (bytes.getD i 0), dirty := false }) s.l1 }
/-- Store enabled bytes, marked dirty. -/
def l1Store (s : State) (ck asid task va en : Nat) (bytes : List Nat) : State :=
  { s with l1 := (List.range bytes.length).foldl (fun t i =>
      if bitOf en i then Tab.put t (l1Key ck asid (va + i)) { val := BitVec.ofNat 8 (bytes.getD i 0), dirty := true, by_ := task } else t) s.l1 }
/-- Whether a line may lie in a core's L1: not a host-shared frame, host memory or the observation page, nor a line homed in
another package, whose accesses are performed there (R189, R242, R444). -/
def cacheable (gd : Nat) (l : Loc) : Bool := !fHs l.leaf && !l.host && !l.obs && pkgOf l.gd == pkgOf gd
def l1Bytes (s : State) (ck asid va n : Nat) : List Nat := (List.range n).map fun i => ((l1Byte s ck asid (va + i)).map fun b => b.val.toNat).getD 0

/-! ### Rights caches (R364) -/

def rightAt (s : State) (ck asid home key : Nat) : Option Nat :=
  ((Tab.get s.rights ck []).find? fun r => r.asid == asid && r.home == home && r.page == key / 65536).map fun r => r.leaf
/-- Enter a right first in a core's cache, which holds 256. -/
def setRight (s : State) (ck asid home key leaf : Nat) : State :=
  let rs := (Tab.get s.rights ck []).filter fun r => !(r.asid == asid && r.home == home && r.page == key / 65536)
  { s with rights := Tab.put s.rights ck (({ asid := asid, home := home, page := key / 65536, leaf := leaf } :: rs).take 256) }

/-! ### Read-modify-writes (R243, R244) -/

/-- The new value of a read-modify-write and the flags of its rounding. -/
def atomVal (op : AccOp) (ty : Nat) (mode : Nat) (draws : List Nat) (w x b c : Nat) : FRes :=
  let bits := 8 * w
  let xi := if signedTy ty then sextI x bits else (x : Int)
  let bi := if signedTy ty then sextI b bits else (b : Int)
  match op with
  | .load => ⟨x, 0⟩
  | .store => ⟨b, 0⟩
  | .mdead => ⟨0, 0⟩
  | .add => ⟨(x + b) % 2 ^ bits, 0⟩
  | .imin => ⟨if xi < bi then x else b, 0⟩
  | .imax => ⟨if bi < xi then x else b, 0⟩
  | .band => ⟨x &&& b, 0⟩
  | .bor => ⟨x ||| b, 0⟩
  | .bxor => ⟨x ^^^ b, 0⟩
  | .xchg => ⟨b, 0⟩
  | .cas => ⟨if x = c then b else x, 0⟩
  | .fadd =>
    let f := fmtOf ty
    let r := roundingOf mode
    let (n, ew) := elemsOf ty
    let rs := (List.range n).map fun i =>
      finish f r (draws.getD i 0 % 2 ^ 24)
        (fAdd r.rm (decodeF f r.flush (elemRaw ty x i)) (decodeF f r.flush (elemRaw ty b i)))
    ⟨packElems ew (rs.map FRes.code), rs.foldl (fun a r => a ||| r.flags) 0⟩

def AccOp.isLoad : AccOp → Bool
  | .load => true | _ => false
def AccOp.isStore : AccOp → Bool
  | .store => true | _ => false
def AccOp.isAtomic : AccOp → Bool
  | .load => false | .store => false | .mdead => false | _ => true
def AccOp.writes : AccOp → Bool
  | .load => false | _ => true

def Acc.loc (a : Acc) : Loc := mkLoc a.home a.leaf a.key

/-- Whether two accesses touch a common byte; MDEAD touches its whole page. -/
def Acc.overlaps (a b : Acc) : Bool :=
  let la := if a.op = .mdead then 65536 else a.width
  let lb := if b.op = .mdead then 65536 else b.width
  a.asid == b.asid && decide (a.va < b.va + lb) && decide (b.va < a.va + la)

def AccStage.pending : AccStage → Bool
  | .issued => true | .missed _ => true | .going => true | .done => false | .failed _ => false

/-- Whether an access goes to its home: all but a store that L1 takes (R187). -/
def Acc.toHome (a : Acc) : Bool := !(a.scope == 0 && a.op.isStore && cacheable (gdOf a.g) a.loc)
/-- Whether an access must wait for an earlier one (R217, R218, R234): the earlier one has not been performed,
and it is an acquire, the later is a release, they overlap, or both are requests to one home; within one instruction, they
overlap. -/
def Acc.after (a : Acc) (b : Acc) : Bool :=
  (b.stage.pending || (b.acq && b.waiting)) && a.g == b.g &&
    (if a.lane = b.lane then b.acq || a.rel || a.overlaps b || (b.stage == .going && a.home == b.home && a.toHome && b.toHome)
     else a.hold == b.hold && a.overlaps b)

def accBlocked (s : State) (id : Nat) (a : Acc) : Bool :=
  s.accs.any fun e => decide (e.1 < id) && a.after e.2

end Sys2Proof.Machine
end

