-- ==== Sys2Proof/Machine/Ops.lean ====
section
/-! DEFINITION. The shared operations: semaphores and signals (R38, R39, R297), commands in flight, the ends of
groups, teams and tasks (R306, R315, R316), kills (R307, R389), convergence barriers (R289), and taking a trap
and returning from one (R329, R405, R411). -/
namespace Sys2Proof.Machine

/-! ### Causes (R406) -/
def cILLEGAL_OP : Nat := 0x01
def cRESERVED_FIELD : Nat := 0x02
def cREG_RANGE : Nat := 0x03
def cMODE_INVALID : Nat := 0x04
def cSEM_WINDOW : Nat := 0x05
def cSEM_CAPACITY : Nat := 0x06
def cCONVERGENCE : Nat := 0x07
def cOPERAND_ALIAS : Nat := 0x08
def cCOLUMN_FAULT : Nat := 0x09
def cALIGN : Nat := 0x0A
def cPAGE_FAULT : Nat := 0x0B
def cPROTECTION : Nat := 0x0C
def cBANK_TIER : Nat := 0x0D
def cCHANNEL_CLOSED : Nat := 0x0E
def cDATA_LOST : Nat := 0x0F
def cPEER_LOST : Nat := 0x10
def cINDETERMINATE : Nat := 0x11
def cCOLL_ABORTED : Nat := 0x12
def cMACRO_FAULT : Nat := 0x13
def cSOFTWARE : Nat := 0x14
def cKILLED : Nat := 0x15
def cPRIVILEGE : Nat := 0x16
def cTOKEN_FAULT : Nat := 0x17
def cTABLE_FULL : Nat := 0x18
def cGUARD_DROP : Nat := 0x19
def cDEBUG : Nat := 0x1A

/-! ### The sync word (R36) -/
def wSem (w : BitVec 32) : Nat := bitsOf w.toNat 31 24
def wThr (w : BitVec 32) : Nat := bitsOf w.toNat 23 14
def sSem (w : BitVec 32) : Nat := bitsOf w.toNat 13 6
def sInc (w : BitVec 32) : Nat := bitsOf w.toNat 5 2
def wEn (w : BitVec 32) : Bool := bitOf w.toNat 1
def sEn (w : BitVec 32) : Bool := bitOf w.toNat 0

/-! ### Mode fields (R47) -/
def modeScope (m : Nat) : Nat := bitsOf m 6 4
def modeOrder (m : Nat) : Nat := bitsOf m 3 2
/-- A scope of QUAD or wider. -/
def wideScope (sc : Nat) : Bool := sc != 0

/-! ### Semaphores (R296, R297) -/
def State.sem (s : State) (ck e : Nat) : Sem := Tab.get s.sems (semKey ck e) {}
def State.setSem (s : State) (ck e : Nat) (x : Sem) : State := { s with sems := Tab.set s.sems {} (semKey ck e) x }
/-- Whether a block of a core is granted to a task (R38). -/
def blockGranted (s : State) (ck blk task : Nat) : Bool :=
  match Tab.find? s.grants (ck * 16 + blk) with
  | some gr => gr.task == task && !gr.ended
  | none => false
def semGranted (s : State) (g e : Nat) : Bool := blockGranted s (ckOf g) (e / 16) (s.grp g).task

/-- Add to the pending increments. -/
def addPending (s : State) (ck e n : Nat) : State :=
  let x := s.sem ck e
  s.setSem ck e { x with pending := x.pending + n }
/-- Move an increment from pending to the count and OR the fault flag (R39). -/
def applyInc (s : State) (ck e n : Nat) (fault wide : Bool) : State :=
  let x := s.sem ck e
  s.setSem ck e { count := x.count + n, pending := x.pending - n, fault := x.fault || fault, wide := x.wide || wide }
/-- `ssig` of R14. -/
def ssig (s : State) (ck : Nat) (w : BitVec 32) (fault wide : Bool) : State :=
  if sEn w then applyInc s ck (sSem w) (sInc w) fault wide else s
/-- The wait condition of R39: `some true` met, `some false` the fault flag is set, `none` not yet. -/
def waitMet (s : State) (ck : Nat) (w : BitVec 32) : Option Bool :=
  if !wEn w then some true
  else
    let x := s.sem ck (wSem w)
    if x.fault then some false else if wThr w ≤ x.count then some true else none
/-- The acquire of a party that a semaphore starts: clean L1 bytes are dropped where some release was wider
than CORE (R225). -/
def acquireSem (s : State) (ck : Nat) (w : BitVec 32) : State :=
  if wEn w && (s.sem ck (wSem w)).wide then dropClean s ck else s

/-- Whether a command or a SEMA.ADD in progress names a semaphore of a block (R298). -/
def blockBusy (s : State) (ck blk task : Nat) : Bool :=
  (s.cmds.any fun e => e.2.ck == ck && e.2.task == task &&
      ((wEn e.2.sync && wSem e.2.sync / 16 == blk) || (sEn e.2.sync && sSem e.2.sync / 16 == blk))) ||
  (s.sigs.any fun e => e.2.task.isNone && e.2.ck == ck && e.2.sem / 16 == blk)
/-- Return the blocks of ended tasks that nothing names any more (R298). -/
def returnBlocks (s : State) : State :=
  { s with grants := s.grants.filter fun e => !(e.2.ended && !blockBusy s (e.1 / 16) (e.1 % 16) e.2.task) }
/-- Grant a block to a task: count 0, pending 0, fault clear (R297). -/
def grantBlock (s : State) (ck task blk : Nat) : State :=
  if blockGranted s ck blk task then s else
  { s with grants := Tab.put s.grants (ck * 16 + blk) { task := task },
           sems := Tab.cut s.sems (semKey ck (16 * blk)) (semKey ck (16 * blk + 16)) }
def blocksOf (sems : Nat) : List Nat := (List.range 16).filter fun b => bitOf sems b
def grantBlocks (s : State) (ck task sems : Nat) : State :=
  (blocksOf sems).foldl (fun s b => grantBlock s ck task b) s
/-- Whether every block of a mask can be granted on a core. -/
def blocksFree (s : State) (ck task sems : Nat) : Bool :=
  (blocksOf sems).all fun b => !Tab.has s.grants (ck * 16 + b) || blockGranted s ck b task

/-! ### Site words (R83) -/
/-- The base of the code section that holds an address of a context; 0 where no image holds it (log 38). -/
def codeBase (s : State) (ctx va : Nat) : Nat :=
  ((List.find? (fun c : Nat × Nat => decide (c.1 ≤ va) && decide (va < c.1 + c.2)) (s.ctxOf ctx).codes).map Prod.fst).getD 0
/-- The site word of an instruction: its word offset in its own image, and its macro entry. -/
def siteAt (s : State) (g : Nat) (pc : Nat) (j : Nat) : Nat :=
  (32 * ((pc + 2 ^ 56 - codeBase s (s.grp g).ctx pc % 2 ^ 56) % 2 ^ 56 / 4) + j) % 2 ^ 32
def macEntry : Option MacPos → Nat
  | some m => m.entry
  | none => 0
def curSite (s : State) : Nat := siteAt s s.cur.g s.cur.pc.toNat (macEntry s.cur.mac)

/-! ### Places (R34, R58) -/

/-- The place after an instruction of n words: inside a macro the next entry, after LAST the word after the
CALLM. -/
def storeEntry (s : State) (ck idx ent : Nat) : Nat := (Tab.get s.store (ck * 2048 + idx * 32 + ent) 0).toNat
def advanceLane (s : State) (ck n : Nat) (y : Lane) : Lane :=
  match y.mac with
  | none => { y with pc := y.pc + BitVec.ofNat 56 (4 * n) }
  | some m =>
    if bitOf (storeEntry s ck m.index m.entry) 32 then { y with pc := y.pc + 4, mac := none }
    else { y with mac := some { m with entry := m.entry + 1 } }

/-! ### Convergence barriers (R289, R412) -/
def Group.cb (x : Group) (b : Nat) : CBar := Tab.get x.cbars b {}
def Group.setCb (x : Group) (b : Nat) (c : CBar) : Group := { x with cbars := Tab.set x.cbars {} b c }
/-- Release a barrier whose expected lanes have all arrived: each goes on after its CBAR.WAIT. -/
def releaseCbar (s : State) (g b : Nat) : State :=
  let c := (s.grp g).cb b
  if c.expected ≠ 0 ∧ c.arrived = c.expected then
    let s := s.modGrp g fun x => x.setCb b {}
    s.onLanes g (lanesIn c.arrived) fun _ y => { advanceLane s (ckOf g) 1 y with stand := .run }
  else if c.expected = 0 ∧ c.arrived ≠ 0 then s.modGrp g fun x => x.setCb b {}
  else s
def releaseCbars (s : State) (g : Nat) : State := (List.range 8).foldl (fun s b => releaseCbar s g b) s
/-- Withdraw lanes from a barrier. -/
def withdraw (s : State) (g b : Nat) (m : Mask) : State :=
  s.modGrp g fun x => let c := x.cb b; x.setCb b { expected := c.expected &&& ~~~m, arrived := c.arrived &&& ~~~m }

/-! ### The Proof table (R314 to R316, R323, R325) -/

/-- The launch condition of R315, on the die's DCC. -/
def launchFlag (s : State) (e : Nat) (x : Entry) : Bool :=
  if x.len then (s.sem (e / 16384 * 17 + 16) x.lsem).fault else x.lflag
def launchOk (s : State) (e : Nat) (x : Entry) : Bool :=
  !launchFlag s e x && (!x.len || decide (x.lthr ≤ (s.sem (e / 16384 * 17 + 16) x.lsem).count))
/-- Waiting to Ready when DEP = 0 and the launch condition holds; the entry joins the queue of its PRIO. -/
def tryReady (s : State) (e : Nat) : State :=
  let x := s.entry e
  if x.st = .waiting ∧ x.dep = 0 ∧ launchOk s e x then
    let (n, s) := s.fresh
    s.setEntry e { x with st := .ready, level := dPrio x.words, since := s.cycle, order := n }
  else s

/-- The first faulted task of a submission completes it with status 0x05 (R310). -/
def jobFault (s : State) (j : Option Nat) (task : Nat) : State :=
  match j with
  | none => s
  | some j =>
    match Tab.find? s.jobs j with
    | none => s
    | some x => if x.status = 0 then { s with jobs := Tab.put s.jobs j { x with status := 5, detail := task, doneAt := some (x.doneAt.getD s.cycle) } } else s
/-- A node of a submission has ended; with the last one the submission is done (R310). -/
def jobDone (s : State) (e : Nat) (j : Option Nat) : State :=
  match j with
  | none => s
  | some j =>
    match Tab.find? s.jobs j with
    | none => s
    | some x =>
      let p := x.pending.filter (· != e)
      let x := { x with pending := p, doneAt := if p.isEmpty ∧ x.doneAt.isNone then some s.cycle else x.doneAt }
      { s with jobs := Tab.put s.jobs j x }

/-- Pass records to the steward: they stay Held (R305, R434). -/
def recsToSteward (s : State) (p : Rec → Bool) : State :=
  { s with recs := s.recs.map fun e => if p e.2 then (e.1, { e.2 with st := .steward }) else e }
def heldBy (e : Nat) (r : Rec) : Bool := r.st == .held e || r.st == .heldEntry e
/-- A task that ends while it holds records passes them to the steward, with one TOKEN_FAULT report (R305). -/
def dropRecords (s : State) (e : Nat) : State :=
  if s.recs.any (fun r => heldBy e r.2) then
    let slots := (s.recs.filter fun r => heldBy e r.2).map fun r => w32 (r.1 % 65536)
    (recsToSteward s (heldBy e)).report (e / 16384) (causeReport s cTOKEN_FAULT (taskIdOf e) 0 0 ++ slots)
  else s

/-- Set the launch fault flag of an entry: that of LSEM when LEN = 1, LFLAG otherwise (R314). -/
def setLaunchFlag (s : State) (e : Nat) : State :=
  let x := s.entry e
  if x.len then applyInc s (e / 16384 * 17 + 16) x.lsem 0 true true else s.setEntry e { x with lflag := true }
/-- An entry becomes Faulted: one report, and the submission's status (R316). -/
def markFaulted (s : State) (e : Nat) : State :=
  let x := s.entry e
  if x.st = .waiting ∨ x.st = .ready then
    let s := setLaunchFlag s e
    let s := s.modEntry e fun y => { y with st := .faulted, fault := true, saves := [] }
    let s := dropRecords s e
    (jobFault s x.job (taskIdOf e)).report (e / 16384) (causeReport s 0 (taskIdOf e) 0 0)
  else s

/-- One edge reaches a dependant: DEP falls by one, or the launch fault flag is set (R316). -/
def applyDep (s : State) (e : Nat) (fault : Bool) (src : Option Nat) : State :=
  let x := s.entry e
  if fault then markFaulted s e
  else if x.st = .waiting then
    tryReady (s.setEntry e { x with dep := x.dep - 1, after := x.after ++ src.toList }) e
  else s
/-- The dies between which a message travels. -/
def Msg.ends : Msg → Nat × Nat
  | .depDec src dst _ => (src / 16384, dst / 16384)
  | .arrival k g _ => (gdOf (g % 2 ^ 32), k % 2 ^ 16)
  | .borrow a b => (a, b)
  | .grant a b => (a, b)
  | .refuse a b => (a, b)
  | .repay a b => (a, b)
/-- Send a message over MGT. -/
def sendMsg (s : State) (m : Msg) : State :=
  let (n, s) := s.fresh
  { s with msgs := Tab.put s.msgs n { msg := m, sentAt := s.cycle } }
/-- Release one dependant of an entry of die gd: in another die's table, over MGT. -/
def releaseDep (s : State) (gd : Nat) (src : Nat) (t : Word) (fault : Bool) : State :=
  let e := entryOf t.toNat
  if e / 16384 = gd then applyDep s e fault (some src) else sendMsg s (.depDec src e fault)

/-- The root of a child RANGE entry (R319). -/
def rangeRoot (s : State) (e : Nat) : Option Nat :=
  let x := s.entry e
  let r := entryOf x.parent.toNat
  if dType x.words = 0 ∧ !x.root ∧ x.parent.toNat ≠ 0xFFFFFFFF ∧ (s.entry r).root then some r else none
/-- Change an entry, and the root it is a child of. -/
def State.modTask (s : State) (e : Nat) (f : Entry → Entry) : State :=
  match rangeRoot s e with
  | some r => (s.modEntry e f).modEntry r f
  | none => s.modEntry e f
/-- Whether any command of a task, or of a child of a RANGE root, is outstanding; trailing PUTs are counted apart
(R231, R232). -/
def taskBusy (s : State) (e : Nat) : Bool :=
  s.cmds.any fun c => !c.2.trailing && (c.2.task == e || rangeRoot s c.2.task == some e)
/-- Free an entry, or return it to the Tray buffer that reserved it (R315, R325). -/
def freeEntry (s : State) (e : Nat) : State :=
  let x := s.entry e
  let s := jobDone s e x.job
  s.setEntry e (match x.reservedTray with
    | some t => { reservedTray := some t }
    | none => {})
/-- A Tray buffer is freed when its TILE task has ended or was killed, and its commands have completed (R325, R467). -/
def freeBuffer (s : State) (e : Nat) : State :=
  match (s.entry e).reservedTray with
  | none => s
  | some (t, b) =>
    match Tab.find? s.trays t with
    | none => s
    | some x => { s with trays := Tab.put s.trays t { x with bufs := x.bufs.set b { (x.bufs.getD b {}) with rows := [], building := false, fired := false, boarded := false, signalled := false, due := false } } }

/-- An Ending entry becomes Free once its release is complete: no trailing PUT, no command outstanding. -/
def settleEntry (s : State) (e : Nat) : State :=
  let x := s.entry e
  if x.st = .ending ∧ !taskBusy s e then
    let s := freeBuffer s e
    if x.trail = 0 then freeEntry s e else s
  else s

/-- Settle an entry and the root it is a child of. -/
def settleTask (s : State) (e : Nat) : State :=
  match rangeRoot s e with
  | some r => settleEntry (settleEntry s e) r
  | none => settleEntry s e

/-- A task's column handles are to be unbound once its commands are done (R164). -/
def unbindHandles (s : State) (e : Nat) : State :=
  { s with handles := s.handles.map fun h => if h.task = e then { h with ended := true } else h }
/-- Whether a command works on a quad's tiles, banks or arrays (R154). -/
def CmdOp.isMatrix : CmdOp → Bool
  | .mtileLd => true | .mtileSt => true | .mwload => true | .mwswap => true | .mma => true | .mmaSp => true
  | .maccZero => true | .maccRd => true | .mcfg => true | _ => false
/-- Columns of a freed handle return when every matrix command that its task issued on the quad before the free has
completed (R163); those of an ended task when all its commands have (R164). -/
def returnColumns (s : State) : State :=
  { s with handles := s.handles.filter fun h =>
      match h.freed with
      | none => !h.ended || s.cmds.any fun c => c.2.task == h.task
      | some n => s.cmds.any fun c => c.2.task == h.task && c.2.op.isMatrix && qkOf c.2.g == h.qk && decide (c.1 < n) }

/-- Remove a task's roles on a channel; the last producer gone closes it, and a Closed channel that is empty
and has no consumer becomes Free (R299, R300). -/
def closeCheck (hadProd : Bool) (c : Channel) : Option Channel :=
  let c := if hadProd && c.prods.isEmpty then { c with closed := true } else c
  if c.closed && c.rows.isEmpty && c.cons.isEmpty then none else some c
def unbindChannels (s : State) (e : Nat) (fault : Bool) : State :=
  { s with chans := s.chans.filterMap fun k =>
      if k.2.prods.contains e || k.2.cons.contains e then
        let had := k.2.prods.contains e
        let c := { k.2 with prods := if had && fault then [] else k.2.prods.filter (· != e), cons := k.2.cons.filter (· != e) }
        (closeCheck had c).map fun c => (k.1, c)
      else some k }

def releaseArrays (s : State) (e : Nat) : State :=
  { s with arrays := s.arrays.map fun a => if a.2.grant = some e then (a.1, { a.2 with grant := none }) else a }

/-- Whether a command is a PUT into another package (R232, R256). -/
def remotePut (s : State) (c : Cmd) : Bool :=
  c.op == .put && (match walkHome s c.gd (s.ctxOf c.ctx).asid c.d with
    | .ok leaf => pkgOf (homeOf leaf c.d).1 != pkgOf c.gd
    | .miss _ => false)
/-- Mark the trailing PUTs of a task that ends, and count them (R232). -/
def markTrailing (s : State) (e : Nat) : State :=
  let p (c : Cmd) : Bool := c.task == e && !c.trailing && remotePut s c
  let n := (s.cmds.filter fun c => p c.2).length
  let s := { s with cmds := s.cmds.map fun c => if p c.2 then (c.1, { c.2 with trailing := true }) else c }
  if n = 0 then s else s.modTask e fun x => { x with trail := x.trail + n }

/-- Write back what a task has stored in L1 and in owned stash lines (R231). -/
def writeTask (s : State) (e : Nat) : State :=
  let s := writeBack s fun k => ((Tab.find? s.l1 k).map fun b => b.by_) == some e
  (s.stash.filter fun x => x.2.owned && x.2.task == e).foldl (fun s x => stashBack s x.1 x.2) s
/-- Whether everything that a task has stored has been written back. -/
def taskWritten (s : State) (e : Nat) : Bool :=
  (s.l1.all fun b => !b.2.dirty || b.2.by_ != e) && s.stash.all fun x => !x.2.owned || x.2.task != e
/-- The write-back of a task's cores that its dependants or the host need; a drop in it faults the entry, with a report,
as a failed trailing PUT does (R231, R232, R481). What can not be written back yet is waited for where it is needed. -/
def flushTask (s : State) (e : Nat) : State :=
  let x := s.entry e
  if x.deps.isEmpty ∧ x.job.isNone then s else
  let t := writeTask (x.cores.foldl writeBackCore s) e
  if t.wbFails.length = s.wbFails.length then t
  else
    let t := { t with wbFails := s.wbFails }
    (t.report (e / 16384) (causeReport t cPROTECTION (taskIdOf e) 0 0 ++ x.deps)).modEntry e fun x => { x with fault := true }
/-- The end of a task (R231, R305, R306, R315, R316): its resources go back, its dependants are released. -/
def endTask (s : State) (e : Nat) (fault : Bool) : State :=
  let s := markTrailing s e
  let s := if fault then s else flushTask s e
  let x := s.entry e
  let fault := fault || x.fault
  let s := unbindHandles s e
  let s := unbindChannels s e fault
  let s := releaseArrays s e
  let s := { s with grants := s.grants.map fun g => if g.2.task = e then (g.1, { g.2 with ended := true }) else g }
  let s := dropRecords s e
  let s := s.setEntry e { x with st := .ending, fault := fault, deps := if x.trail = 0 then [] else x.deps, running := 0 }
  let s := if fault then jobFault s x.job (taskIdOf e) else s
  let s := x.deps.foldl (fun s t => releaseDep s (e / 16384) e t fault) s
  let s := returnColumns (returnBlocks s)
  settleEntry s e

/-- A RANGE child has ended: its root ends with its last child and held part (R319, R322). -/
def childDone (s : State) (root : Nat) (fault : Bool) : State :=
  let r := s.entry root
  if r.root ∧ r.st = .running then
    let r := { r with children := r.children - 1, fault := r.fault || fault }
    let s := s.setEntry root r
    if r.children = 0 ∧ r.held.isEmpty then endTask s root r.fault else s
  else s

/-- The chunks of a RANGE child not yet handed out. -/
def partsLeft (x : Entry) : Bool := x.parts.any fun p => decide (p.1 < p.2)

/-- One team of an entry has ended. A RANGE child goes on while chunks remain; a fault abandons them (R322). -/
def teamEnded (s : State) (e : Nat) (fault : Bool) : State :=
  let x := s.entry e
  let x := { x with running := x.running - 1, fault := x.fault || fault, parts := if fault then [] else x.parts }
  let s := s.setEntry e x
  if x.running = 0 ∧ !partsLeft x ∧ x.saves.isEmpty ∧ x.st = .running then
    let child := dType x.words == 0 && x.parent.toNat != 0xFFFFFFFF
    let s := endTask s e x.fault
    if child then childDone s (entryOf x.parent.toNat) x.fault else s
  else s

/-! ### Teams and groups (R303, R306) -/

/-- A barrier releases a suspended group: its signal is applied, and its continuation may be dispatched (R40, R303);
`broken` is the answer of a broken barrier (R304). -/
def answerSync (s : State) (g : Nat) (broken : Bool) : State :=
  match (s.grp g).susp with
  | none => s
  | some x =>
    if x.barrier.isNone then s else
    let s := ssig s (ckOf g) x.sync broken true
    s.modGrp g fun y => { y with susp := some { x with barrier := none, acq := true, broken := broken } }
/-- Whether a team barrier's phase is complete: every group of the team that has not ended has arrived. -/
def tbarComplete (t : Team) (b : TBar) : Bool :=
  !b.arrived.isEmpty && t.groups.all fun g => b.arrived.contains g
/-- The first arrival of each group, and the arrivals after it. -/
def firsts (xs : List Nat) : List Nat × List Nat :=
  xs.foldl (fun p g => if p.1.contains g then (p.1, p.2 ++ [g]) else (p.1 ++ [g], p.2)) ([], [])
/-- Release the complete phases of a team barrier (R303). A group whose SYNC counts for a later phase stays. -/
def settleTBar (tk i : Nat) : Nat → State → State
  | 0, s => s
  | n + 1, s =>
    let t := s.team tk
    let b := Tab.get t.bars i {}
    if !tbarComplete t b then s else
    let p := firsts b.next
    let s := { s with teams := Tab.put s.teams tk { t with bars := Tab.set t.bars {} i { arrived := p.1, next := p.2 } } }
    let s := (b.arrived.filter fun g => !b.next.contains g && ((s.grp g).susp.bind fun x => x.barrier) == some i).foldl
      (fun s g => answerSync s g false) s
    settleTBar tk i n s
/-- A group arrives at a barrier of its team (R303). -/
def arriveTeam (s : State) (g i : Nat) : State :=
  let tk := (s.grp g).team
  let t := s.team tk
  let b := Tab.get t.bars i {}
  let b := if b.arrived.contains g then { b with next := b.next ++ [g] } else { b with arrived := b.arrived ++ [g] }
  settleTBar tk i (b.next.length + 1) { s with teams := Tab.put s.teams tk { t with bars := Tab.put t.bars i b } }
/-- Drop the arrivals of a group that has ended, and release what that completes (R303). -/
def dropArrivals (s : State) (tk g : Nat) : State :=
  let t := s.team tk
  let bars : Tab TBar := t.bars.map fun b => (b.1, { b.2 with arrived := b.2.arrived.filter (· != g), next := b.2.next.filter (· != g) })
  let s := { s with teams := Tab.put s.teams tk { t with bars := bars } }
  bars.foldl (fun s b => settleTBar tk b.1 (b.2.next.length + 1) s) s

/-- The key of a level barrier: level, index, and the die, package or pod that holds it (R301, R302). -/
def lbarKey (l i p : Nat) : Nat := (l * 32 + i) * 2 ^ 16 + p
def lbarPlace (l gd : Nat) : Nat := if l = 1 then gd else if l = 2 then pkgOf gd else 0
/-- A level barrier counts groups by team and slot. -/
def groupId (s : State) (g : Nat) : Nat := (s.grp g).team * 2 ^ 32 + g
def answerId (s : State) (broken : Bool) (id : Nat) : State :=
  let g := id % 2 ^ 32
  if Tab.has s.groups g && groupId s g == id then answerSync s g broken else s
def State.lbar (s : State) (k : Nat) : LBar := Tab.get s.lbars k {}
/-- Count one arrival in the current phase, or keep it for the next. -/
def LBar.add (b : LBar) (id : Nat) (sync : Bool) : LBar :=
  let b := if b.parts.contains id then b else { b with parts := b.parts ++ [id] }
  if b.arrived.contains id then { b with later := b.later ++ [(id, sync)] }
  else { b with arrived := b.arrived ++ [id], count := b.count + 1, waiting := if sync then b.waiting ++ [id] else b.waiting }
/-- Release the complete phases of a level barrier (R303). -/
def settleLevel (k : Nat) : Nat → State → State
  | 0, s => s
  | n + 1, s =>
    let b := s.lbar k
    if b.count ≠ b.e ∨ b.e = 0 then s else
    let b' := b.later.foldl (fun (c : LBar) l => c.add l.1 l.2) { b with count := 0, waiting := [], arrived := [], later := [] }
    let s := { s with lbars := Tab.put s.lbars k b' }
    settleLevel k n (b.waiting.foldl (fun s id => answerId s false id) s)
/-- An arrival is counted at a level barrier; a broken one answers at once (R303, R304). -/
def arriveLevel (s : State) (k id : Nat) (sync : Bool) : State :=
  let b := s.lbar k
  if b.brk then (if sync then answerId s true id else s)
  else if !b.en then s
  else settleLevel k (b.later.length + 2) { s with lbars := Tab.put s.lbars k (b.add id sync) }
/-- Break a level barrier: every group that waits at it is answered (R304). -/
def breakBar (s : State) (k : Nat) : State :=
  let b := s.lbar k
  let s := { s with lbars := Tab.put s.lbars k { b with brk := true, waiting := [] } }
  (b.waiting ++ (b.later.filter fun l => l.2).map Prod.fst).foldl (fun s id => answerId s true id) s
/-- Break every level barrier in which a group of a set takes part: it has arrived in this phase or an earlier one
(R304; log 39). -/
def breakBars (s : State) (p : Nat → Bool) : State :=
  (s.lbars.filter fun b => b.2.en && !b.2.brk && b.2.parts.any p).foldl (fun s b => breakBar s b.1) s
/-- Write back and drop the stash lines of a team; a line that can not be written back yet stays Owned. -/
def trimStash (s : State) (t : Nat) : State :=
  (s.stash.filter fun e => e.1 / 2 ^ 14 == t).foldl (fun s e => stashOut s e.1 e.2) s
/-- The end of a team: owned stash lines are written back, then the window goes (R198, R306). -/
def endTeam (s : State) (t : Nat) (fault : Bool) : State :=
  let x := s.team t
  let s := trimStash s t
  let s := { s with wins := Tab.cut s.wins (t * 2 ^ 20) ((t + 1) * 2 ^ 20),
                    dirtyLines := Tab.cut s.dirtyLines (t * 2 ^ 12) ((t + 1) * 2 ^ 12),
                    teams := Tab.del s.teams t }
  teamEnded s x.task (fault || (s.entry x.task).fault)

def returnCredit (s : State) (ck : Nat) : State :=
  { s with credits := Tab.set s.credits 0 ck (Tab.get s.credits ck 0 - 1) }
/-- Remove a group: its slot, banks, lanes and registers go at once (R306). -/
def dropGroup (s : State) (g : Nat) : State :=
  let x := s.grp g
  let s := if x.inHandler then returnCredit s (ckOf g) else s
  let t := s.team x.team
  { s with groups := Tab.del s.groups g,
           lanes := Tab.cut s.lanes (laneKey g 0) (laneKey (g + 1) 0),
           vregs := Tab.cut s.vregs (regKey g 0 0) (regKey (g + 1) 0 0),
           sregs := Tab.cut s.sregs (g * 32) ((g + 1) * 32),
           dirtyBanks := Tab.cut s.dirtyBanks (g * 16) ((g + 1) * 16),
           accs := s.accs.filter fun a => a.2.g != g || (a.2.op.writes && !a.2.ret && a.2.stage == .going),
           teams := Tab.put s.teams x.team { t with groups := t.groups.filter (· != g) } }
/-- The end of a group (R306). -/
def endGroup (s : State) (g : Nat) (fault : Bool) : State :=
  let t := (s.grp g).team
  let s := dropArrivals (dropGroup s g) t g
  if (s.team t).groups.isEmpty then endTeam s t fault else s

/-! ### Commands (R39, R389) -/

def CmdOp.isColl : CmdOp → Bool
  | .collAr => true | .collAg => true | .collRs => true | .collA2a => true | .collBc => true | _ => false
def CmdOp.isBank : CmdOp → Bool
  | .bopAdd => true | .bopAxpy => true | .bopMax => true | .bopCvt => true | .bopFill => true | _ => false

/-! ### Communicators (R261, R262) -/

/-- COMMTAB and the rank lists are page-space addresses with the die in [63:58] (R262; log 16). -/
def tableWord (s : State) (pkg p : Nat) : Nat := readWord s (pkg * 64 + bitsOf p 63 58) (p % 2 ^ 37)
/-- The ranks of a communicator: global die and TASKID of each; none where the entry is not valid. -/
def commRanks (s : State) (gd ctx comm : Nat) : Option (List (Nat × Nat)) :=
  let base := (s.ctxOf ctx).commtab + 16 * comm
  let w (i : Nat) := tableWord s (pkgOf gd) (base + 4 * i)
  if !bitOf (w 0) 31 then none else
  let list := w 2 + 2 ^ 32 * w 3
  some ((List.range (w 0 % 4096)).map fun q => (tableWord s (pkgOf gd) (list + 8 * q) % 65536, tableWord s (pkgOf gd) (list + 8 * q + 4)))
def cmdComm (desc : Nat) : Nat := bitsOf desc 31 20

/-! ### The bank dispatcher of a die (R206, R208) -/

/-- The bank queue in which a piece of a bank command waits, by die and bank. -/
def pieceQueue (c : Cmd) (off : Nat) : Nat := c.bank.1 * 1024 + bankOf c.bank.2 (c.d % 65536 + off)
/-- Queue a command's pieces in ascending order, as far as their queues, of 16 each, have room: the bytes queued. -/
def pushPieces (id : Nat) (c : Cmd) : Nat → State → Nat → State × Nat
  | 0, s, off => (s, off)
  | n + 1, s, off =>
    let q := Tab.get s.bankQs (pieceQueue c off) []
    if c.k ≤ off ∨ 16 ≤ q.length then (s, off)
    else pushPieces id c n { s with bankQs := Tab.put s.bankQs (pieceQueue c off) (q ++ [(id, off)]) } (off + 256)
/-- The dispatcher queues what it can of a die's started bank commands; a group's later command waits behind its earlier
ones. -/
def fillBanks (s : State) (gd : Nat) : State :=
  ((s.cmds.filter fun c => c.2.op.isBank && c.2.started && c.2.bank.1 == gd && decide (c.2.disp < c.2.k)).foldl
    (fun (p : State × List Nat) e =>
      if p.2.contains e.2.g then p else
      let r := pushPieces e.1 e.2 256 p.1 e.2.disp
      ({ r.1 with cmds := Tab.put r.1.cmds e.1 { e.2 with disp := r.2 } }, if r.2 < e.2.k then p.2 ++ [e.2.g] else p.2)) (s, [])).1

/-- Commands whose signal is a release at PKG scope or wider whatever was captured (R211, R230, R256, R257, R418). -/
def CmdOp.wideSig : CmdOp → Bool
  | .put => true | .get => true | .ratom => true | .bopAdd => true | .bopAxpy => true | .bopMax => true | .bopCvt => true
  | .bopFill => true | .tokSend => true | .ctxSave => true | .ctxLoad => true | op => op.isColl

/-- Whether a command's signal is a release at QUAD scope or wider. -/
def Cmd.wideSig (c : Cmd) : Bool := sEn c.sync && (c.op.wideSig || wideScope (modeScope c.mode.toNat))
/-- A command completes: a wide signal releases what happened before it, the signal is applied with its fault outcome, the
command leaves the list and the queues, and what waited for it goes on (R39, R40, R163, R208, R224, R298). -/
def completeCmd (s : State) (id : Nat) (c : Cmd) (fault : Bool) : State :=
  let s := if c.wideSig then writeBackCore s c.ck else s
  let s := leaveQueues { s with cmds := Tab.del s.cmds id, bankQs := s.bankQs.filterMap fun q => let ps := q.2.filter fun p => p.1 != id; if ps.isEmpty then none else some (q.1, ps) } id
  let s := if c.op.isBank then fillBanks s c.bank.1 else s
  let s := ssig s c.ck c.sync fault (c.op.wideSig || wideScope (modeScope c.mode.toNat))
  let s := s.event c.ck (slotOf c.g) 48 (b2n fault)
  let s := returnColumns (returnBlocks s)
  settleTask s c.task

/-- The report of a command that failed (R253). -/
def failReport (s : State) (c : Cmd) (cause : Nat) : State :=
  s.report c.gd (causeReport s cause (taskIdOf c.task) 0 c.site)

/-- Whether a task is a rank of a collective's communicator. -/
def rankOf (s : State) (c : Cmd) (e : Nat) : Bool :=
  c.task == e || ((commRanks s c.gd c.ctx (cmdComm c.b)).getD []).any fun r => r == (e / 16384, taskIdOf e)
/-- The commands of a task that is killed (R229, R389): those that have not started are discarded with their pending
increments; the outstanding collectives of every communicator in which it is a rank abort. -/
def discardCmds (s : State) (e : Nat) : State :=
  let s := (s.cmds.filter fun c => c.2.task == e && !c.2.started).foldl
    (fun s c =>
      let w := c.2.sync
      let s := { s with cmds := Tab.del s.cmds c.1 }
      if sEn w then
        let x := s.sem c.2.ck (sSem w)
        s.setSem c.2.ck (sSem w) { x with pending := x.pending - sInc w }
      else s) s
  { s with cmds := s.cmds.map fun c => if c.2.op.isColl && rankOf s c.2 e then (c.1, { c.2 with aborted := true }) else c }
/-- Kill a running task with a report of the given cause and a further word pair (R307, R389, R434). An abort has no report
of 0x15; of a task that is Ending already only its report is added. -/
def killTask (s : State) (e cause site : Nat) (extra : Nat := 0) : State :=
  let x := s.entry e
  if x.st = .ending ∧ cause = cDATA_LOST then s.report (e / 16384) (causeReport s cause (taskIdOf e) extra site) else
  if x.st ≠ .running then s else
  let gs := (s.groups.filter fun g => g.2.task == e).map Prod.fst
  let s := discardCmds s e
  let ids := gs.map (groupId s)
  let s := breakBars s fun id => ids.contains id
  let s := s.report (e / 16384) (causeReport s cause (taskIdOf e) extra site)
  let s := if cause = cKILLED ∨ cause = cDATA_LOST then s else s.report (e / 16384) (causeReport s cKILLED (taskIdOf e) 0 site)
  let s := s.setEntry e { x with fault := true, parts := [], saves := [] }
  if gs.isEmpty then (if x.running = 0 then endTask s e true else s)
  else gs.foldl (fun s g => if Tab.has s.groups g then endGroup s g true else s) s

/-! ### Traps (R54, R93, R329, R377, R405, R407) -/

/-- A cause met by a lane: its place in the order of causes, its code, its TINFO. -/
structure Trap where
  ord : Nat
  cause : Nat
  info : Nat
  deriving DecidableEq, Repr

def creditsFree (s : State) (ck : Nat) : Bool := decide (Tab.get s.credits ck 0 < 4)

/-- The lanes of a set go back to the instruction and back off, with the largest back-off any of them held (R329). -/
def refuseTrap (s : State) (g : Nat) (m : Mask) : State :=
  let s := s.event (ckOf g) (slotOf g) 34 1
  let b := (lanesIn m).foldl (fun b l => max b (s.lane g l).backoff) 64
  s.onLanes g (lanesIn m) fun _ y =>
    { y with stand := .run, waitUntil := s.cycle + b, backoff := min (2 * b) 4096 }

/-- Entry into the context's handler, in one cycle (R405). `info` gives each lane's TINFO. -/
def enterHandler (s : State) (g : Nat) (who : Mask) (cause : Nat) (info : Nat → Nat) (pc : BitVec 56) (mac : Option MacPos) : State :=
  let x := s.grp g
  let ck := ckOf g
  let s := { s with credits := Tab.put s.credits ck (Tab.get s.credits ck 0 + 1) }
  let tc := cause + (match mac with
    | some m => 256 + 512 * m.entry
    | none => 0)
  let s := s.setGrp g { x with inHandler := true, tcause := w32 tc, taddr := pc.zeroExtend 64, tmask := who, tmac := mac,
                               amask := x.active, addpc := 0, hctl := 0 }
  let s := s.event ck (slotOf g) 33 (lanesIn who).length
  let ent := (s.ctxOf x.ctx).trapent
  s.onLanes g (lanesIn who) fun l y =>
    { y with inHandler := true, savedMode := y.mode, savedK := y.k, savedDepth := y.ret.length,
             resumePc := pc.zeroExtend 64, tinfo := BitVec.ofNat 64 (info l),
             mode := 0x00070000#32, k := 0, pc := BitVec.ofNat 56 ent, mac := none, stand := .run, kept := [],
             backoff := 64, waitUntil := 0 }

/-- Deliver causes to lanes of one path at one instruction (R405): the first in order goes to the handler, the
lanes that met another cause are held; where the instruction stops every lane, the rest are held too (R93). With
no credit free, or a handler already entered, the delivery is refused (R329). In handler mode, or with no
handler, the task is killed (R377, R407). -/
def deliver (s : State) (g : Nat) (met : List (Nat × Trap)) (rest : Mask) (pc : BitVec 56) (mac : Option MacPos) : State :=
  match met with
  | [] => s
  | m0 :: ms =>
    let first := ms.foldl (fun a b => if b.2.ord < a.2.ord then b else a) m0
    let who := maskOf fun l => met.any fun m => m.1 == l && m.2.cause == first.2.cause && m.2.ord == first.2.ord
    let all := maskOf fun l => met.any fun m => m.1 == l
    let x := s.grp g
    let site := siteAt s g pc.toNat (macEntry mac)
    if (lanesIn all).any (fun l => (s.lane g l).inHandler) || (s.ctxOf x.ctx).trapent == 0 then
      killTask s x.task first.2.cause site (if x.inHandler then x.taddr.toNat else 0)
    else if x.inHandler || !creditsFree s (ckOf g) then refuseTrap s g (all ||| rest)
    else
      let s := enterHandler s g who first.2.cause (fun l => ((met.find? fun m => m.1 == l).map fun m => m.2.info).getD 0) pc mac
      s.onLanes g (lanesIn ((all &&& ~~~who) ||| rest)) fun _ y => { y with stand := .stuck }

/-- The lanes held at an instruction that trapped issue afresh (R93, R405). -/
def freeStuck (s : State) (g : Nat) : State :=
  s.onLanes g (lanesIn (s.grp g).active) fun _ y => if y.stand = .stuck then { y with stand := .run } else y

/-- Withdrawal of one barrier's lanes at RTE (R412): a handler lane that has not arrived stays expected when it
resumes at TADDR or at one of the barrier's wait addresses; a removed lane never stays. -/
def rteBarrier (s : State) (g : Nat) (handlers removed : Mask) (taddr : Dword) (b : Nat) : State :=
  let c := (s.grp g).cb b
  if c.expected = 0 then s else
  let waits := (lanesIn c.arrived).map fun l => (s.lane g l).pc
  let leave := maskOf fun l =>
    c.expected.getLsbD l &&
      (removed.getLsbD l ||
        (handlers.getLsbD l && !c.arrived.getLsbD l &&
          !((s.lane g l).resumePc == taddr || waits.any fun w => (s.lane g l).resumePc == w.zeroExtend 64)))
  withdraw s g b leave

/-- Leave handler mode: the credit returns and held lanes issue afresh, by whatever way the handler's lanes left: RTE, their
removal, or END (R93, R405, R407; log 46). -/
def leaveHandler (s : State) (g : Nat) : State :=
  let s := returnCredit s (ckOf g)
  let s := s.modGrp g fun x => { x with inHandler := false, tmask := 0, tcause := 0, taddr := 0, tmac := none }
  freeStuck s g

/-- Return from a trap (R409, R411, R412). -/
def returnTrap (s : State) (g : Nat) : State :=
  let x := s.grp g
  let handlers := maskOf fun l => x.active.getLsbD l && (s.lane g l).inHandler && (s.lane g l).stand != .ended
  let ended := maskOf fun l => x.active.getLsbD l && (s.lane g l).stand == .ended
  let legal : Mask := if isDcc g then 1 else BitVec.allOnes 64
  let newMask := x.amask &&& legal &&& ~~~(maskOf fun l => !x.active.getLsbD l && (s.lane g l).stand == .ended)
  let added := newMask &&& ~~~x.active
  let removed := x.active &&& ~~~newMask &&& ~~~ended
  let s := (List.range 8).foldl (fun s b => rteBarrier s g handlers removed x.taddr b) s
  let s := s.onLanes g (lanesIn handlers) fun _ y =>
    let back := y.resumePc == x.taddr && x.tmac.isSome
    { y with pc := y.resumePc.truncate 56, mac := if back then x.tmac else none, mode := y.savedMode, k := y.savedK,
             ret := y.ret.drop (y.ret.length - y.savedDepth), inHandler := false, stand := .run }
  let s := s.onLanes g (lanesIn added) fun _ y => { y with pc := x.addpc.truncate 56, mac := none, stand := .run, inHandler := false }
  let s := s.modGrp g fun z =>
    { z with active := (x.active ||| added) &&& ~~~removed,
             parked := (z.parked.map fun p => { p with mask := p.mask &&& ~~~removed }).filter fun p => p.mask != 0 }
  releaseCbars (leaveHandler s g) g

/-! ### Advancing (R34, R58, R287) -/

def advance (s : State) (g n : Nat) (m : Mask) : State :=
  s.onLanes g (lanesIn m) fun _ y => advanceLane s (ckOf g) n y

end Sys2Proof.Machine
end

