-- ==== Sys2Proof/Machine/Issue.lean ====
section
/-! DEFINITION. Issuing one instruction for one path: the issuing lanes, the causes in their order, channels, and
the commit of what the lanes write (R13, R14, R46, R54, R62, R89, R93, R287). -/
namespace Sys2Proof.Machine

abbrev Out := Host.Outcome State Fault Refusal

/-! ### Sync words (R37, R38, R40) -/

inductive SyncKind where
  | command | sync | endOf
  deriving DecidableEq, Repr

/-- Bits that must be zero (R37, R40, R42). -/
def syncOk (k : SyncKind) (w : BitVec 32) : Bool :=
  let sOk := sEn w || bitsOf w.toNat 13 2 == 0
  match k with
  | .command => (wEn w || bitsOf w.toNat 31 14 == 0) && sOk
  | .sync => !wEn w && bitsOf w.toNat 23 14 == 0 && decide (bitsOf w.toNat 31 29 ≤ 3) && sOk
  | .endOf => !wEn w && bitsOf w.toNat 31 14 == 0 && sOk

/-! ### What an instruction demands -/

structure Rule where
  instr : Instr
  words : Nat := 1
  steward : Bool := false
  types : Option (List Nat) := none
  noSto : Bool := false
  stopAll : Bool := false
  group : Bool := false                 -- a group command: its mode is that of the lowest issuing lane (R251)
  sync : Option (SyncKind × BitVec 32) := none
  perLane : Bool := false               -- one command per issuing lane (R38)
  boundary : Bool := false              -- its increment enters pending once, at the first issue (R336)
  reserved : State → Mask → Bool := fun _ _ => false
  all : State → Mask → Option Trap := fun _ _ => none
  own : State → Mask → Nat → Option Trap := fun _ _ _ => none

def laneMode (s : State) (l : Nat) : Nat := (s.lane s.cur.g l).mode.toNat
def laneType (s : State) (l : Nat) : Nat := modeType (laneMode s l)
/-- The issuing lanes (R13). -/
def issuing (s : State) : Mask :=
  maskOf fun l => s.cur.lanes.getLsbD l && (s.lane s.cur.g l).guard
def anyWide (s : State) (m : Mask) : Bool := (lanesIn m).any fun l => laneType s l == 6 || laneType s l == 7
def curWord (s : State) : Nat := s.cur.word.toNat

/-- Channels an instruction pops and pushes (R46). -/
def popCodes (i : Instr) : List Nat := (((opnds i).filter fun o => o.reads && isCh o.code).map fun o => o.code - 0xE0).eraseDups
def pushCodes (i : Instr) : List Nat := (((opnds i).filter fun o => o.writes && isCh o.code).map fun o => o.code - 0xE0).eraseDups

/-- The channels that an instruction pops for the lanes of a path: none that they keep an element of (R291). -/
def popsOf (s : State) (g : Nat) (m : Mask) (i : Instr) : List Nat :=
  (popCodes i).filter fun c => m == 0 || !(lanesIn m).all fun l => (s.lane g l).kept.any fun k => k.1 == c
/-- Roles first (PROTECTION), then a closed and empty channel (R46). Of order 9: they are judged before the instruction's
other causes of that order, which R54 and R46 leave open (log 40). -/
def chanCause (s : State) (i : Instr) : Option Trap :=
  let g := s.cur.g
  let task := (s.grp g).task
  let pops := popsOf s g s.cur.lanes i
  if pops.any (fun c => !(s.chan g c).cons.contains task) || (pushCodes i).any (fun c => !(s.chan g c).prods.contains task) then
    some ⟨9, cPROTECTION, 0⟩
  else
    match pops.find? fun c => (s.chan g c).closed && (s.chan g c).rows.isEmpty with
    | some c => some ⟨9, cCHANNEL_CLOSED, c⟩
    | none => none

/-- SEM_WINDOW and SEM_CAPACITY (R38). -/
def semCause (s : State) (r : Rule) (m : Mask) : Option Trap :=
  match r.sync with
  | none => none
  | some (k, w) =>
    let g := s.cur.g
    let ws := k == .command && wEn w
    if ws && !semGranted s g (wSem w) then some ⟨7, cSEM_WINDOW, wSem w⟩
    else if sEn w && !semGranted s g (sSem w) then some ⟨7, cSEM_WINDOW, sSem w⟩
    else
      let n := if r.perLane then (lanesIn m).length
        else if r.boundary && (s.grp g).bounds.any (fun b => b.1 == s.cur.pc) then 0 else 1
      let x := s.sem (ckOf g) (sSem w)
      if sEn w && decide (1023 < x.count + x.pending + n * sInc w) then some ⟨8, cSEM_CAPACITY, sSem w⟩ else none

def syncBad (r : Rule) : Bool :=
  match r.sync with
  | none => false
  | some (k, w) => !syncOk k w

/-- Causes of orders 3 to 5 of R54, which stop every issuing lane. -/
def earlyCause (s : State) (r : Rule) (m : Mask) : Option Trap :=
  let wide := anyWide s m
  if r.steward && !isDcc s.cur.g then some ⟨3, cPRIVILEGE, curWord s⟩
  else if !opndsOk r.instr wide || syncBad r || r.reserved s m then some ⟨4, cRESERVED_FIELD, curWord s⟩
  else if !opndsInRange r.instr wide (s.grp s.cur.g).banks then some ⟨5, cREG_RANGE, curWord s⟩
  else none
/-- MODE_INVALID of one lane (R49); of a group command, that of its captured mode (R251). -/
def modeCause (s : State) (r : Rule) (m : Mask) (l : Nat) : Option Trap :=
  let j := if r.group then lowest m else l
  let bad := (match r.types with
    | none => false
    | some ts => !ts.contains (laneType s j)) || (r.noSto && isSto (laneMode s j))
  if bad then some ⟨6, cMODE_INVALID, laneMode s l⟩ else none
/-- The first cause of one lane, given those common to all (R54). A mode of its own comes before the causes of `late`; that
the lanes' TYPEs differ (R108, R113) is one of the instruction's own, after the channel causes (log 40). -/
def laneCause (s : State) (r : Rule) (m : Mask) (early late : Option Trap) (l : Nat) : Option Trap :=
  early.orElse fun _ => (modeCause s r m l).orElse fun _ => late.orElse fun _ => r.own s m l
/-- The causes of orders 7 to 9 that stop every lane: semaphores, channels, then the instruction's own; the order between
the channel causes of R46 and an instruction's own (ILLEGAL_CONVERGENCE of R107, the table of R157) is the model's (log 40). -/
def lateCause (s : State) (r : Rule) (m : Mask) : Option Trap :=
  (semCause s r m).orElse fun _ => (chanCause s r.instr).orElse fun _ => r.all s m

/-- The lanes that met a cause, with it. -/
def causesOf (s : State) (r : Rule) (m : Mask) : List (Nat × Trap) :=
  let early := earlyCause s r m
  let late := if early.isSome then none else lateCause s r m
  (lanesIn m).filterMap fun l => (laneCause s r m early late l).map fun t => (l, t)

/-- The counter of the class of R62 that an opcode belongs to (R441); a reserved opcode is of the Control class. -/
def classOf (op : Nat) : Nat :=
  if op ≤ 0x04 then 6
  else if op ≤ 0x08 then 7
  else if op ≤ 0x0A then 8
  else if op ≤ 0x2E then 6
  else if op ≤ 0x37 ∨ op = 0x3C then 9
  else if op ≤ 0x3B ∨ (0x67 ≤ op ∧ op ≤ 0x6A) ∨ op = 0x6D then 10
  else if op ≤ 0x3F then 19
  else if op ≤ 0x4F ∨ op = 0x5A ∨ (0x5E ≤ op ∧ op ≤ 0x63) then 11
  else if op ≤ 0x59 then 13
  else if op ≤ 0x5D then 12
  else if op ≤ 0x66 then 14
  else if op ≤ 0x6C then 15
  else if op ≤ 0x7F then 19
  else if op ≤ 0x8B then 18
  else if op ≤ 0x9F then 19
  else if (0xA6 ≤ op ∧ op ≤ 0xA9) ∨ op = 0xB6 ∨ op = 0xB7 then 16
  else if op ≤ 0xBE then 17
  else if op ≤ 0xCE then 18
  else if op = 0xCF then 19
  else if op ≤ 0xD2 then 5
  else if op = 0xDA then 20
  else if op ≤ 0xDF then 19
  else if op ≤ 0xEE then 18
  else if op ≤ 0xF1 then 19
  else if op ≤ 0xFC then 20
  else 19
/-- Count an issue (R441). -/
def countIssue (s : State) : State :=
  let ck := ckOf s.cur.g
  let sl := slotOf s.cur.g
  (s.event ck sl 1 1).event ck sl (classOf (curWord s / 2 ^ 24)) 1

/-- The state in which an instruction's effect starts: it is counted, and the lanes whose guard is false are past it
(R287). -/
def counted (s : State) (words : Nat) (m : Mask) : State :=
  let rest := s.cur.lanes &&& ~~~m
  (advance (countIssue s) s.cur.g words rest).event (ckOf s.cur.g) (slotOf s.cur.g) 53 (lanesIn rest).length

/-- Issue an instruction: lanes whose guard is false advance; lanes with a cause are trapped; the others take the
effect `body`, which places them (R54, R287). -/
def issueWith (r : Rule) (m : Mask) (s : State) (body : State → Mask → State) : State :=
  let g := s.cur.g
  let met := causesOf s r m
  let bad := maskOf fun l => met.any fun t => t.1 == l
  let ok := m &&& ~~~bad
  let stop := r.stopAll && bad != 0
  let s := counted s r.words m
  let s := if ok = 0 || stop then s else body s ok
  deliver s g met (if stop then ok else 0) s.cur.pc s.cur.mac
/-- The lanes whose guard is true issue (R13). -/
def issueRaw (r : Rule) (s : State) (body : State → Mask → State) : State := issueWith r (issuing s) s body
/-- The same for an instruction after which its lanes advance. -/
def issue (r : Rule) (s : State) (body : State → Mask → State) : Out :=
  .next (issueRaw r s fun s ok => advance (body s ok) s.cur.g r.words ok)

/-! ### What a lane writes -/

/-- What one lane's execution gives: register writes in order, ASTAT flags, draws taken. -/
structure LaneOut where
  writes : List (Nat × Nat) := []
  flags : Nat := 0
  draws : Nat := 0
  deriving DecidableEq, Repr

def out1 (c : Code) (x : Nat) : LaneOut := { writes := [(c.toNat, x)] }
/-- A 64-bit result into a pair; ZERO discards (R45). -/
def out64 (c : Code) (x : Nat) : LaneOut :=
  if c.toNat = 0xFE then {} else { writes := [(c.toNat, x % 2 ^ 32), (c.toNat + 1, x / 2 ^ 32 % 2 ^ 32)] }

/-- The i-th next draw of a lane at the instruction at hand (R82, R83). -/
def laneDraw (s : State) (l i : Nat) : Nat :=
  let g := s.cur.g
  let y := s.lane g l
  drawOf (s.ctxOf (s.grp g).ctx).seed y.streamid.toNat (curSite s) (y.drawctr.toNat + i)

def popChan (s : State) (g c : Nat) : State :=
  let x := s.chan g c
  let x := { x with rows := x.rows.drop 1 }
  match closeCheck false x with
  | some x => { s with chans := Tab.put s.chans (chanKey g c) x }
  | none => { s with chans := Tab.del s.chans (chanKey g c) }
def pushChan (s : State) (g c : Nat) (row : List Word) : State :=
  let x := s.chan g c
  { s with chans := Tab.put s.chans (chanKey g c) { x with rows := x.rows ++ [row] } }
/-- The row that lanes push: 0 in the elements of lanes that did not issue (R46). -/
def rowOf (outs : List (Nat × LaneOut)) (c : Nat) : List Word :=
  laneNums.map fun l =>
    match outs.find? fun o => o.1 == l with
    | some o => ((o.2.writes.find? fun w => w.1 == 0xE0 + c).map fun w => w32 w.2).getD 0
    | none => 0

def writeAll (s : State) (g l : Nat) (ws : List (Nat × Nat)) : State := ws.foldl (fun s w => wr s g l w.1 w.2) s
def noteLane (s : State) (g l : Nat) (o : LaneOut) : State :=
  if o.flags = 0 ∧ o.draws = 0 then s
  else s.modLane g l fun y => { y with astat := y.astat ||| w32 (o.flags % 256), drawctr := y.drawctr + w32 o.draws }

/-- Commit the lanes' results in ascending lane order; each channel is popped or pushed once (R14, R46, R89). -/
def commit (s : State) (i : Instr) (outs : List (Nat × LaneOut)) : State :=
  let g := s.cur.g
  let s := (popsOf s g s.cur.lanes i).foldl (fun s c => popChan s g c) s
  let s := outs.foldl (fun s o => noteLane (writeAll s g o.1 o.2.writes) g o.1 o.2) s
  let s := (pushCodes i).foldl (fun s c => pushChan s g c (rowOf outs c)) s
  let s := s.event (ckOf g) (slotOf g) 51 ((outs.map fun o => o.2.draws).sum)
  s.event (ckOf g) (slotOf g) 52 ((outs.filter fun o => o.2.flags != 0).length)

/-- A per-lane instruction: every issuing lane reads before any lane writes (R13). -/
def laneOp (r : Rule) (s : State) (f : State → Mask → Nat → LaneOut) : Out :=
  issue r s fun s ok => commit s r.instr ((lanesIn ok).map fun l => (l, f s ok l))

/-- Operand reads of the path that is issuing. -/
def rdA (s : State) (l : Nat) (c : Code) : Nat := rd s s.cur.g l c.toNat
def rdP (s : State) (l : Nat) (c : Code) : Nat := rd64 s s.cur.g l c.toNat
def laneK (s : State) (l : Nat) : Nat := (s.lane s.cur.g l).k.toNat
def laneSat (s : State) (l : Nat) : Bool := bitOf (laneMode s l) 8
/-- λ: the lowest-numbered issuing lane (R107, R251, R332). -/
def lam (m : Mask) : Nat := lowest m

/-! ### Registers with a write outstanding (R62) -/

/-- Whether every lane shares a register code: an s register or a channel. -/
def sharedCode (c : Nat) : Bool := isS c || isCh c
def Cmd.writes (x : Cmd) (c : Nat) : Bool := x.dst.any fun d => decide (d.1 ≤ c) && decide (c < d.1 + d.2)
/-- Whether a register of some lanes has a write outstanding: a load or atomic in flight, or a command's result. A row to a
channel reaches it before a later instruction of the group pushes one (R299). -/
def codeBusy (s : State) (g : Nat) (m : Mask) (c : Nat) : Bool :=
  (s.accs.any fun a => a.2.g == g && a.2.ret && a.2.waiting && a.2.dst.contains c && (sharedCode c || m.getLsbD a.2.lane)) ||
  (s.cmds.any fun x => x.2.g == g && x.2.writes c && (sharedCode c || x.2.mask &&& m != 0))
/-- Rows on their way into a channel of a group's quad. -/
def rowsComing (s : State) (g c : Nat) : Nat :=
  (((s.accs.filter fun a => qkOf a.2.g == qkOf g && a.2.ret && a.2.waiting && a.2.dst.contains (0xE0 + c)).map fun a => (a.2.g, a.2.hold)).eraseDups).length +
    (s.cmds.filter fun x => qkOf x.2.g == qkOf g && x.2.writes (0xE0 + c)).length
/-- Whether a row that a group of the same task pushed is on its way into a channel (R341). -/
def pushesComing (s : State) (g c : Nat) : Bool :=
  let t := (s.grp g).task
  (s.accs.any fun a => (s.grp a.2.g).task == t && qkOf a.2.g == qkOf g && a.2.ret && a.2.waiting && a.2.dst.contains (0xE0 + c)) ||
    s.cmds.any fun x => x.2.task == t && qkOf x.2.g == qkOf g && x.2.writes (0xE0 + c)
/-- Whether a guard predicate of some lanes has a write outstanding. -/
def guardBusy (s : State) (g : Nat) (m : Mask) : Bool :=
  (lanesIn m).any fun l => codeBusy s g (1#64 <<< l) (0xF0 + bitsOf (s.lane g l).mode.toNat 18 16)
/-- Whether an instruction must wait for a register it reads or writes, or for the guard (R62). -/
def instrBusy (s : State) (g : Nat) (m : Mask) (i : Instr) : Bool :=
  let wide := (lanesIn m).any fun l => modeType (s.lane g l).mode.toNat == 6 || modeType (s.lane g l).mode.toNat == 7
  ((opnds i).any fun o => (o.codes wide).any fun c => codeBusy s g m c) || guardBusy s g m

end Sys2Proof.Machine
end

