-- ==== Sys2Proof/Machine/Integer.lean ====
section
/-! DEFINITION. Opcodes 0x00 to 0x2E: moves, integer arithmetic, logic, bits, compares, predicates (04: R95 to
R104). -/
namespace Sys2Proof.Machine

/-- The Rule of a per-lane instruction that accepts the given TYPE codes. -/
def laneRule (i : Instr) (tys : Option (List Nat) := none) : Rule := { instr := i, types := tys }
def intTypes : Option (List Nat) := some [0, 1, 2, 3, 4, 5]

/-- Element by element: exact results of f, each clamped or wrapped, flags ORed (R97). -/
def elemwise (ty : Nat) (sat : Bool) (f : Int → Int → Int → Int × Nat) (x y z : Nat) : Nat × Nat :=
  let (n, w) := elemsOf ty
  let rs := (List.range n).map fun i =>
    let (v, fl) := f (elemI ty x i) (elemI ty y i) (elemI ty z i)
    let r := narrowI ty w sat v
    (r.code, r.flags ||| fl)
  (packElems w (rs.map Prod.fst), rs.foldl (fun a r => a ||| r.2) 0)

/-- An element instruction on A, B and D's old value. -/
def elemOut (s : State) (l : Nat) (d : Code) (x y z : Nat) (f : Int → Int → Int → Int × Nat) : LaneOut :=
  let (v, fl) := elemwise (laneType s l) (laneSat s l) f x y z
  { writes := [(d.toNat, v)], flags := fl }
def elem3 (i : Instr) (d a b : Code) (s : State) (f : Nat → Int → Int → Int → Int × Nat) : Out :=
  laneOp (laneRule i intTypes) s fun s _ l =>
    elemOut s l d (rdA s l a) (rdA s l b) 0 (f (laneType s l))

/-- Truncated quotient and remainder of R98; the element width w and signedness come from the TYPE. -/
def divElem (ty : Nat) (a b : Int) : Int × Nat :=
  let w := (elemsOf ty).2
  if b = 0 then (if signedTy ty then -1 else ((2 ^ w : Nat) : Int) - 1, flagIZ) else (a.tdiv b, 0)
def remElem (a b : Int) : Int × Nat := if b = 0 then (a, flagIZ) else (a.tmod b, 0)

/-- Shifts of R100: the amount is bits [7:0] of B. -/
def shlW (a b : Nat) : Nat := if 32 ≤ b % 256 then 0 else a * 2 ^ (b % 256) % 2 ^ 32
def shrW (a b : Nat) : Nat := a / 2 ^ (b % 256)
def sarW (a b : Nat) : Nat := wrapI (sextI a 32 / (2 ^ (b % 256) : Nat)) 32
def rotW (a b : Nat) : Nat := let n := b % 32; (a * 2 ^ n + a / 2 ^ (32 - n)) % 2 ^ 32
/-- Bit counts of R101. -/
def popcW (a : Nat) : Nat := (List.range 32).foldl (fun n i => n + a / 2 ^ i % 2) 0
def clzW (a : Nat) : Nat := 32 - bitLen (a % 2 ^ 32)
def ctzW (a : Nat) : Nat := ((List.range 32).find? fun i => bitOf a i).getD 32
def brevW (a : Nat) : Nat := (List.range 32).foldl (fun n i => n + a / 2 ^ (31 - i) % 2 * 2 ^ i) 0
/-- Bit field extract and insert under a control word (R101). -/
def bfxW (a b : Nat) : Nat :=
  let pos := b % 32
  let wd := min (bitsOf b 13 8) (32 - pos)
  if wd = 0 then 0
  else
    let f := a / 2 ^ pos % 2 ^ wd
    if bitOf b 16 then wrapI (sextI f wd) 32 else f
def bfiW (d a b : Nat) : Nat :=
  let pos := b % 32
  let wd := min (bitsOf b 13 8) (32 - pos)
  d - d / 2 ^ pos % 2 ^ wd * 2 ^ pos + a % 2 ^ wd * 2 ^ pos
/-- Byte select of R102: each byte from cat(B, A), its sign byte, or zero, in ascending order. -/
def bmixByte (k src : Nat) (prev : Nat) (i : Nat) : Nat :=
  let y := src / 2 ^ (8 * (k / 2 ^ (3 * i) % 8)) % 256
  let y := if i ≠ 0 ∧ bitOf k (16 + i) then (if 128 ≤ prev then 255 else 0) else y
  if bitOf k (12 + i) then 0 else y
def bmixW (k a b : Nat) : Nat :=
  let src := a + 2 ^ 32 * b
  let y0 := bmixByte k src 0 0
  let y1 := bmixByte k src y0 1
  let y2 := bmixByte k src y1 2
  let y3 := bmixByte k src y2 3
  y0 + 256 * y1 + 65536 * y2 + 16777216 * y3

/-- A three-register bit-string instruction. -/
def bitOp (i : Instr) (d a b : Code) (s : State) (f : Nat → Nat → Nat) : Out :=
  laneOp (laneRule i) s fun s _ l => out1 d (f (rdA s l a) (rdA s l b))
def bitOp1 (i : Instr) (d a : Code) (s : State) (f : Nat → Nat) : Out :=
  laneOp (laneRule i) s fun s _ l => out1 d (f (rdA s l a))

/-- An operand of a compare as an exact integer (R103). -/
def cmpVal (s : State) (l : Nat) (c : Code) : Int :=
  match laneType s l with
  | 0 => sextI (rdA s l c) 32
  | 6 => sextI (rdP s l c) 64
  | 7 => (rdP s l c : Int)
  | _ => (rdA s l c : Int)
def cmpOp (i : Instr) (d a b : Code) (s : State) (f : Int → Int → Bool) : Out :=
  laneOp (laneRule i (some [0, 1, 6, 7])) s fun s _ l => out1 d (b2n (f (cmpVal s l a) (cmpVal s l b)))
def predOp (i : Instr) (d a b : Code) (s : State) (f : Bool → Bool → Bool) : Out :=
  laneOp (laneRule i) s fun s _ l => out1 d (b2n (f (rdA s l a == 1) (rdA s l b == 1)))

/-- NOP (R96). -/
def execNop (s : State) : Out :=
  issue (laneRule .nop) s fun s _ => s

/-- MOV (R96). -/
def execMov (d a : Code) (s : State) : Out :=
  bitOp1 (.mov d a) d a s id

/-- SEL: D is the mask (R96). -/
def execSel (d a b : Code) (s : State) : Out :=
  laneOp (laneRule (.sel d a b)) s fun s _ l =>
    let m := rdA s l d
    out1 d ((rdA s l a &&& m) ||| (rdA s l b &&& (m ^^^ (2 ^ 32 - 1))))

/-- ADD (R97). -/
def execAdd (d a b : Code) (s : State) : Out :=
  elem3 (.add d a b) d a b s fun _ x y _ => (x + y, 0)

/-- SUB (R97). -/
def execSub (d a b : Code) (s : State) : Out :=
  elem3 (.sub d a b) d a b s fun _ x y _ => (x - y, 0)

/-- MUL (R97). -/
def execMul (d a b : Code) (s : State) : Out :=
  elem3 (.mul d a b) d a b s fun _ x y _ => (x * y, 0)

/-- MULH (R97): floor of the product over 2^w. -/
def execMulh (d a b : Code) (s : State) : Out :=
  elem3 (.mulh d a b) d a b s fun ty x y _ => (x * y / (2 ^ (elemsOf ty).2 : Nat), 0)

/-- MULW (R99). -/
def execMulw (d a b : Code) (s : State) : Out :=
  laneOp (laneRule (.mulw d a b) (some [0, 1])) s fun s _ l =>
    let ty := laneType s l
    out64 d (wrapI (elemI ty (rdA s l a) 0 * elemI ty (rdA s l b) 0) 64)

/-- MAD (R97): one wrap or clamp after the exact sum. -/
def execMad (d a b : Code) (s : State) : Out :=
  laneOp (laneRule (.mad d a b) intTypes) s fun s _ l =>
    elemOut s l d (rdA s l a) (rdA s l b) (rdA s l d) fun x y z => (x * y + z, 0)

/-- DIV (R98). -/
def execDiv (d a b : Code) (s : State) : Out :=
  elem3 (.div d a b) d a b s fun ty x y _ => divElem ty x y

/-- REM (R98). -/
def execRem (d a b : Code) (s : State) : Out :=
  elem3 (.rem d a b) d a b s fun _ x y _ => remElem x y

/-- MIN (R97). -/
def execImin (d a b : Code) (s : State) : Out :=
  elem3 (.imin d a b) d a b s fun _ x y _ => (min x y, 0)

/-- MAX (R97). -/
def execImax (d a b : Code) (s : State) : Out :=
  elem3 (.imax d a b) d a b s fun _ x y _ => (max x y, 0)

/-- ABS (R97). -/
def execAbs (d a : Code) (s : State) : Out :=
  laneOp (laneRule (.abs d a) intTypes) s fun s _ l =>
    elemOut s l d (rdA s l a) 0 0 fun x _ _ => ((x.natAbs : Int), 0)

/-- NEG (R97). -/
def execNeg (d a : Code) (s : State) : Out :=
  laneOp (laneRule (.neg d a) intTypes) s fun s _ l =>
    elemOut s l d (rdA s l a) 0 0 fun x _ _ => (-x, 0)

/-- ADD64 (R99). -/
def execAdd64 (d a b : Code) (s : State) : Out :=
  laneOp (laneRule (.add64 d a b)) s fun s _ l => out64 d ((rdP s l a + rdP s l b) % 2 ^ 64)

/-- SUB64 (R99). -/
def execSub64 (d a b : Code) (s : State) : Out :=
  laneOp (laneRule (.sub64 d a b)) s fun s _ l => out64 d ((rdP s l a + 2 ^ 64 - rdP s l b) % 2 ^ 64)

/-- AND (R100). -/
def execBAnd (d a b : Code) (s : State) : Out :=
  bitOp (.bAnd d a b) d a b s (· &&& ·)

/-- OR (R100). -/
def execBOr (d a b : Code) (s : State) : Out :=
  bitOp (.bOr d a b) d a b s (· ||| ·)

/-- XOR (R100). -/
def execBXor (d a b : Code) (s : State) : Out :=
  bitOp (.bXor d a b) d a b s (· ^^^ ·)

/-- NOT (R100). -/
def execBNot (d a : Code) (s : State) : Out :=
  bitOp1 (.bNot d a) d a s (· ^^^ (2 ^ 32 - 1))

/-- ANDN (R100). -/
def execAndn (d a b : Code) (s : State) : Out :=
  bitOp (.andn d a b) d a b s fun x y => x &&& (y ^^^ (2 ^ 32 - 1))

/-- SHL (R100). -/
def execShl (d a b : Code) (s : State) : Out :=
  bitOp (.shl d a b) d a b s shlW

/-- SHR (R100). -/
def execShr (d a b : Code) (s : State) : Out :=
  bitOp (.shr d a b) d a b s shrW

/-- SAR (R100). -/
def execSar (d a b : Code) (s : State) : Out :=
  bitOp (.sar d a b) d a b s sarW

/-- ROT (R100). -/
def execRot (d a b : Code) (s : State) : Out :=
  bitOp (.rot d a b) d a b s rotW

/-- POPC (R101). -/
def execPopc (d a : Code) (s : State) : Out :=
  bitOp1 (.popc d a) d a s popcW

/-- CLZ (R101). -/
def execClz (d a : Code) (s : State) : Out :=
  bitOp1 (.clz d a) d a s clzW

/-- CTZ (R101). -/
def execCtz (d a : Code) (s : State) : Out :=
  bitOp1 (.ctz d a) d a s ctzW

/-- BREV (R101). -/
def execBrev (d a : Code) (s : State) : Out :=
  bitOp1 (.brev d a) d a s brevW

/-- BFX (R101). -/
def execBfx (d a b : Code) (s : State) : Out :=
  bitOp (.bfx d a b) d a b s bfxW

/-- BFI (R101): written even when the width is 0. -/
def execBfi (d a b : Code) (s : State) : Out :=
  laneOp (laneRule (.bfi d a b)) s fun s _ l => out1 d (bfiW (rdA s l d) (rdA s l a) (rdA s l b))

/-- BMIX (R102). -/
def execBmix (d a b : Code) (s : State) : Out :=
  laneOp (laneRule (.bmix d a b)) s fun s _ l => out1 d (bmixW (laneK s l) (rdA s l a) (rdA s l b))

/-- LEA (R99). -/
def execLea (d a b : Code) (s : State) : Out :=
  laneOp (laneRule (.lea d a b)) s fun s _ l =>
    out1 d ((rdA s l a + rdA s l b * 2 ^ (laneK s l % 8)) % 2 ^ 32)

/-- LEA64 (R99). -/
def execLea64 (d a b : Code) (s : State) : Out :=
  laneOp (laneRule (.lea64 d a b)) s fun s _ l =>
    out64 d (wrapI ((rdP s l a : Int) + sextI (rdA s l b) 32 * (2 ^ (laneK s l % 8) : Nat)) 64)

/-- CMP.EQ (R103). -/
def execCmpEq (d a b : Code) (s : State) : Out :=
  cmpOp (.cmpEq d a b) d a b s fun x y => decide (x = y)

/-- CMP.NE (R103). -/
def execCmpNe (d a b : Code) (s : State) : Out :=
  cmpOp (.cmpNe d a b) d a b s fun x y => decide (x ≠ y)

/-- CMP.LT (R103). -/
def execCmpLt (d a b : Code) (s : State) : Out :=
  cmpOp (.cmpLt d a b) d a b s fun x y => decide (x < y)

/-- CMP.LE (R103). -/
def execCmpLe (d a b : Code) (s : State) : Out :=
  cmpOp (.cmpLe d a b) d a b s fun x y => decide (x ≤ y)

/-- CMP.GT (R103). -/
def execCmpGt (d a b : Code) (s : State) : Out :=
  cmpOp (.cmpGt d a b) d a b s fun x y => decide (y < x)

/-- CMP.GE (R103). -/
def execCmpGe (d a b : Code) (s : State) : Out :=
  cmpOp (.cmpGe d a b) d a b s fun x y => decide (y ≤ x)

/-- PAND (R104). -/
def execPand (d a b : Code) (s : State) : Out :=
  predOp (.pand d a b) d a b s (· && ·)

/-- POR (R104). -/
def execPor (d a b : Code) (s : State) : Out :=
  predOp (.por d a b) d a b s (· || ·)

/-- PXOR (R104). -/
def execPxor (d a b : Code) (s : State) : Out :=
  predOp (.pxor d a b) d a b s (· != ·)

/-- PNOT (R104). -/
def execPnot (d a : Code) (s : State) : Out :=
  laneOp (laneRule (.pnot d a)) s fun s _ l => out1 d (1 - rdA s l a)

/-- P2V (R104). -/
def execP2v (d : Code) (s : State) : Out :=
  laneOp (laneRule (.p2v d)) s fun s _ l => out1 d ((s.lane s.cur.g l).preds.toNat + 128)

/-- V2P (R104). -/
def execV2p (a : Code) (s : State) : Out :=
  laneOp (laneRule (.v2p a)) s fun s _ l =>
    { writes := (List.range 7).map fun j => (0xF0 + j, rdA s l a / 2 ^ j) }

end Sys2Proof.Machine
end

