-- ==== Sys2Proof/Machine/LaneOps.lean ====
section
/-! DEFINITION. Opcodes 0x2F to 0x3C: lane exchange, votes, group reductions and scan (04: R93, R105 to R108).
A cause met by some lane stops every lane. -/
namespace Sys2Proof.Machine

/-- The Rule of an exchange or group-reduce instruction (R93). -/
def groupRule (i : Instr) (tys : Option (List Nat) := none) : Rule := { instr := i, types := tys, stopAll := true }

/-- Source lane of an exchange (R105): segment code Z and distance J from the lane's own B. -/
def xchSrc (kind : Nat) (l b : Nat) : Option Nat :=
  let z := min (bitsOf b 10 8) 6
  let w := 64 / 2 ^ z
  let j := b % 64
  let r := l % w
  let base := l - r
  match kind with
  | 0 => some (base + j % w)
  | 1 => some (base + (r ^^^ j) % w)
  | 2 => if r < j then none else some (base + r - j)
  | _ => if w ≤ r + j then none else some (base + r + j)
def xchOp (i : Instr) (kind : Nat) (d a b : Code) (s : State) : Out :=
  laneOp (groupRule i) s fun s ok l =>
    out1 d (match xchSrc kind l (rdA s l b) with
      | some t => if ok.getLsbD t then rdA s t a else 0
      | none => 0)

/-- The lanes of a set whose A is not zero, as a 64-bit value (R106). -/
def nonzeroMask (s : State) (ok : Mask) (a : Code) : Nat := (maskOf fun l => ok.getLsbD l && rdA s l a != 0).toNat

/-- ILLEGAL_CONVERGENCE for RDLANE and WRLANE when the lane they name does not issue (R107). -/
def laneTarget (s : State) (m : Mask) (b : Code) : Nat := rdA s (lam m) b % 64
def targetRule (i : Instr) (b : Code) : Rule :=
  { groupRule i with all := fun s m => if m.getLsbD (laneTarget s m b) then none else some ⟨9, cCONVERGENCE, curWord s⟩ }

/-- Whether two issuing lanes differ in TYPE: then every lane has MODE_INVALID (R108, R113). -/
def mixedTypes (s : State) (m : Mask) : Bool := (lanesIn m).any fun l => laneType s l != laneType s (lam m)
def sameTypeRule (i : Instr) (tys : Option (List Nat)) : Rule :=
  { groupRule i tys with own := fun s m l => if mixedTypes s m then some ⟨6, cMODE_INVALID, laneMode s l⟩ else none }

/-- Element i of A over lanes of a set, combined exactly, narrowed under the lane's own SAT (R108). -/
def reduceOut (s : State) (l : Nat) (d a : Code) (ms : List Nat) (f : List Int → Int) : LaneOut :=
  let ty := laneType s l
  let (n, w) := elemsOf ty
  let rs := (List.range n).map fun i => narrowI ty w (laneSat s l) (f (ms.map fun m => elemI ty (rdA s m a) i))
  { writes := [(d.toNat, packElems w (rs.map FRes.code))], flags := rs.foldl (fun x r => x ||| r.flags) 0 }
def sumI (xs : List Int) : Int := xs.foldl (· + ·) 0
def leastI : List Int → Int
  | [] => 0
  | x :: xs => xs.foldl min x
def greatestI : List Int → Int
  | [] => 0
  | x :: xs => xs.foldl max x
def reduceOp (i : Instr) (d a : Code) (s : State) (f : List Int → Int) : Out :=
  laneOp (sameTypeRule i intTypes) s fun s ok l => reduceOut s l d a (lanesIn ok) f

/-- XCH.IDX (R105). -/
def execXchIdx (d a b : Code) (s : State) : Out :=
  xchOp (.xchIdx d a b) 0 d a b s

/-- XCH.XOR (R105). -/
def execXchXor (d a b : Code) (s : State) : Out :=
  xchOp (.xchXor d a b) 1 d a b s

/-- XCH.UP (R105). -/
def execXchUp (d a b : Code) (s : State) : Out :=
  xchOp (.xchUp d a b) 2 d a b s

/-- XCH.DN (R105). -/
def execXchDn (d a b : Code) (s : State) : Out :=
  xchOp (.xchDn d a b) 3 d a b s

/-- LNANY (R106). -/
def execLnany (d a : Code) (s : State) : Out :=
  laneOp (groupRule (.lnany d a)) s fun s ok _ => out1 d (b2n (nonzeroMask s ok a != 0))

/-- LNALL (R106). -/
def execLnall (d a : Code) (s : State) : Out :=
  laneOp (groupRule (.lnall d a)) s fun s ok _ => out1 d (b2n (nonzeroMask s ok a == ok.toNat))

/-- LNMASK (R106). -/
def execLnmask (d a : Code) (s : State) : Out :=
  laneOp (groupRule (.lnmask d a)) s fun s ok _ => out64 d (nonzeroMask s ok a)

/-- RDLANE (R107). -/
def execRdlane (d a b : Code) (s : State) : Out :=
  laneOp (targetRule (.rdlane d a b) b) s fun s ok _ => out1 d (rdA s (laneTarget s ok b) a)

/-- WRLANE (R107): only lane t writes its D, with the value of the lowest issuing lane. -/
def execWrlane (d a b : Code) (s : State) : Out :=
  laneOp (targetRule (.wrlane d a b) b) s fun s ok l =>
    if l = laneTarget s ok b then out1 d (rdA s (lam ok) a) else {}

/-- IRED.ADD (R108). -/
def execIredAdd (d a : Code) (s : State) : Out :=
  reduceOp (.iredAdd d a) d a s sumI

/-- IRED.MIN (R108). -/
def execIredMin (d a : Code) (s : State) : Out :=
  reduceOp (.iredMin d a) d a s leastI

/-- IRED.MAX (R108). -/
def execIredMax (d a : Code) (s : State) : Out :=
  reduceOp (.iredMax d a) d a s greatestI

/-- ISCAN.ADD (R108): inclusive. -/
def execIscanAdd (d a : Code) (s : State) : Out :=
  laneOp (sameTypeRule (.iscanAdd d a) intTypes) s fun s ok l =>
    reduceOut s l d a ((lanesIn ok).filter (· ≤ l)) sumI

/-- LNEQ (R106): compares the bits that the lane's own k selects. -/
def execLneq (d a : Code) (s : State) : Out :=
  laneOp (groupRule (.lneq d a)) s fun s ok l =>
    out64 d (maskOf fun m => ok.getLsbD m && ((rdA s m a ^^^ rdA s l a) &&& laneK s l) == 0).toNat

end Sys2Proof.Machine
end

