-- ==== Sys2Proof/Machine/Float.lean ====
section
/-! DEFINITION. Opcodes 0x40 to 0x5D: floating-point arithmetic, compares, classes, functions and dot products
(05: R109 to R122). -/
namespace Sys2Proof.Machine

def fltTypes : Option (List Nat) := some [8, 9, 10]
def fltRule (i : Instr) (tys : Option (List Nat) := fltTypes) : Rule := { instr := i, types := tys }
def laneRnd (s : State) (l : Nat) : Rounding := roundingOf (laneMode s l)
def laneFlush (s : State) (l : Nat) : Bool := bitOf (laneMode s l) 7
/-- The FP32 value of a register under the lane's FLUSH (R70, R77). -/
def f32Val (s : State) (l : Nat) (x : Nat) : FVal := decodeF .f32 (laneFlush s l) x
/-- Draws a rounding instruction takes: n under STO, else none (R110). -/
def stoDraws (s : State) (l n : Nat) : Nat := if isSto (laneMode s l) then n else 0
/-- The random bits of draw i of a lane's instruction (R81). -/
def drawBits (s : State) (l i : Nat) : Nat := laneDraw s l i % 2 ^ 24

/-- The values of element i of a register (R70, R77). -/
def elemF (s : State) (l : Nat) (x i : Nat) : FVal :=
  let ty := laneType s l
  decodeF (fmtOf ty) (laneFlush s l) (elemRaw ty x i)
def packRes (w : Nat) (d : Code) (rs : List FRes) (draws : Nat) : LaneOut :=
  { writes := [(d.toNat, packElems w (rs.map FRes.code))], flags := rs.foldl (fun a r => a ||| r.flags) 0, draws := draws }

/-- The common form of R111: each element's exact value rounded once, one draw per element under STO. -/
def fltOut (s : State) (l : Nat) (d : Code) (x y z : Nat) (f : Nat → FVal → FVal → FVal → XRes) : LaneOut :=
  let ty := laneType s l
  let (n, w) := elemsOf ty
  let r := laneRnd s l
  packRes w d ((List.range n).map fun i =>
    finish (fmtOf ty) r (drawBits s l i) (f r.rm (elemF s l x i) (elemF s l y i) (elemF s l z i))) (stoDraws s l n)
def flt2 (i : Instr) (d a b : Code) (s : State) (f : Nat → FVal → FVal → XRes) : Out :=
  laneOp (fltRule i) s fun s _ l => fltOut s l d (rdA s l a) (rdA s l b) 0 fun rm x y _ => f rm x y
def flt1 (i : Instr) (d a : Code) (s : State) (f : FVal → XRes) : Out :=
  laneOp (fltRule i) s fun s _ l => fltOut s l d (rdA s l a) 0 0 fun _ x _ _ => f x
def flt3 (i : Instr) (d a b : Code) (s : State) (f : Nat → FVal → FVal → FVal → XRes) : Out :=
  laneOp (fltRule i) s fun s _ l => fltOut s l d (rdA s l a) (rdA s l b) (rdA s l d) f

/-- An element instruction that rounds nothing and draws nothing: each result is a code (R110). -/
def exactOut (s : State) (l : Nat) (d : Code) (x y : Nat) (f : FVal → FVal → XRes) : LaneOut :=
  let ty := laneType s l
  let (n, w) := elemsOf ty
  packRes w d ((List.range n).map fun i => finish (fmtOf ty) rneKeep 0 (f (elemF s l x i) (elemF s l y i))) 0
def nvIf (b : Bool) : Nat := if b then flagNV else 0
def fmm (wantMax : Bool) (x y : FVal) : XRes := { val := fMinMax wantMax x y, flags := nvIf (anySnan [x, y]) }

/-- A compare into a predicate (R117). -/
def fcmpOp (i : Instr) (d a b : Code) (s : State) (anyNv : Bool) (f : FVal → FVal → Bool) : Out :=
  laneOp (fltRule i (some [8])) s fun s _ l =>
    let x := f32Val s l (rdA s l a)
    let y := f32Val s l (rdA s l b)
    { writes := [(d.toNat, b2n (f x y))], flags := nvIf (if anyNv then anyNan [x, y] else anySnan [x, y]) }
def ordered (x y : FVal) : Bool := !(anyNan [x, y])

/-- The dot products into an FP32 accumulator (R122): one draw under STO. -/
def fdotOp (i : Instr) (d a b : Code) (tys : List Nat) (s : State) : Out :=
  laneOp (fltRule i (some tys)) s fun s _ l =>
    let n := (elemsOf (laneType s l)).1
    let r := laneRnd s l
    let c := f32Val s l (rdA s l d)
    let ps := (List.range n).map fun i => (elemF s l (rdA s l a) i, elemF s l (rdA s l b) i)
    packRes 32 d [finish .f32 r (drawBits s l 0) (fDot r.rm c ps)] (stoDraws s l 1)

/-- FADD (R115). -/
def execFadd (d a b : Code) (s : State) : Out :=
  flt2 (.fadd d a b) d a b s fun rm x y => fAdd rm x y

/-- FSUB (R115). -/
def execFsub (d a b : Code) (s : State) : Out :=
  flt2 (.fsub d a b) d a b s fun rm x y => fAdd rm x y.negate

/-- FMUL (R115). -/
def execFmul (d a b : Code) (s : State) : Out :=
  flt2 (.fmul d a b) d a b s fun _ x y => fMul x y

/-- FMA (R115): one rounding of the exact product and sum. -/
def execFma (d a b : Code) (s : State) : Out :=
  flt3 (.fma d a b) d a b s fun rm x y z => fFma rm false false x y z

/-- FMS (R115): one rounding of the exact product and sum. -/
def execFms (d a b : Code) (s : State) : Out :=
  flt3 (.fms d a b) d a b s fun rm x y z => fFma rm false true x y z

/-- FNMA (R115): one rounding of the exact product and sum. -/
def execFnma (d a b : Code) (s : State) : Out :=
  flt3 (.fnma d a b) d a b s fun rm x y z => fFma rm true false x y z

/-- FMIN (R116). -/
def execFmin (d a b : Code) (s : State) : Out :=
  laneOp (fltRule (.fmin d a b)) s fun s _ l => exactOut s l d (rdA s l a) (rdA s l b) (fmm false)

/-- FMAX (R116). -/
def execFmax (d a b : Code) (s : State) : Out :=
  laneOp (fltRule (.fmax d a b)) s fun s _ l => exactOut s l d (rdA s l a) (rdA s l b) (fmm true)

/-- FABS (R116). -/
def execFabs (d a : Code) (s : State) : Out :=
  laneOp (fltRule (.fabs d a)) s fun s _ l =>
    exactOut s l d (rdA s l a) 0 fun x _ => { val := x.absV, flags := nvIf x.isSnan }

/-- FNEG (R116). -/
def execFneg (d a : Code) (s : State) : Out :=
  laneOp (fltRule (.fneg d a)) s fun s _ l =>
    exactOut s l d (rdA s l a) 0 fun x _ => { val := x.negate, flags := nvIf x.isSnan }

/-- FCMP.EQ (R117). -/
def execFcmpEq (d a b : Code) (s : State) : Out :=
  fcmpOp (.fcmpEq d a b) d a b s false fun x y => ordered x y && !numLt x y && !numLt y x

/-- FCMP.NE (R117). -/
def execFcmpNe (d a b : Code) (s : State) : Out :=
  fcmpOp (.fcmpNe d a b) d a b s false fun x y => !ordered x y || numLt x y || numLt y x

/-- FCMP.LT (R117). -/
def execFcmpLt (d a b : Code) (s : State) : Out :=
  fcmpOp (.fcmpLt d a b) d a b s true fun x y => ordered x y && numLt x y

/-- FCMP.LE (R117). -/
def execFcmpLe (d a b : Code) (s : State) : Out :=
  fcmpOp (.fcmpLe d a b) d a b s true fun x y => ordered x y && !numLt y x

/-- FCMP.UN (R117). -/
def execFcmpUn (d a b : Code) (s : State) : Out :=
  fcmpOp (.fcmpUn d a b) d a b s false fun x y => !ordered x y

/-- FCLASS (R118): a one-hot mask per element, 16 bits apart in a packed type. -/
def execFclass (d a : Code) (s : State) : Out :=
  laneOp (fltRule (.fclass d a)) s fun s _ l =>
    let ty := laneType s l
    let n := (elemsOf ty).1
    { writes := [(d.toNat, packElems 16 ((List.range n).map fun i => classBits (fmtOf ty) (elemF s l (rdA s l a) i)))] }

/-- FRCP (R119, R120). -/
def execFrcp (d a : Code) (s : State) : Out :=
  flt1 (.frcp d a) d a s fRcp

/-- FRSQ (R119, R120). -/
def execFrsq (d a : Code) (s : State) : Out :=
  flt1 (.frsq d a) d a s fRsq

/-- FSQRT (R119, R120). -/
def execFsqrt (d a : Code) (s : State) : Out :=
  flt1 (.fsqrt d a) d a s fSqrt

/-- FDIV (R119, R120). -/
def execFdiv (d a b : Code) (s : State) : Out :=
  flt2 (.fdiv d a b) d a b s fun _ x y => fDiv x y

/-- FEXP2 (R119, R120). -/
def execFexp2 (d a : Code) (s : State) : Out :=
  flt1 (.fexp2 d a) d a s fExp2

/-- FLOG2 (R119, R120). -/
def execFlog2 (d a : Code) (s : State) : Out :=
  flt1 (.flog2 d a) d a s fLog2

/-- FSIN (R119, R120). -/
def execFsin (d a : Code) (s : State) : Out :=
  flt1 (.fsin d a) d a s (fSinCos false)

/-- FCOS (R119, R120). -/
def execFcos (d a : Code) (s : State) : Out :=
  flt1 (.fcos d a) d a s (fSinCos true)

/-- FTANH (R119, R120). -/
def execFtanh (d a : Code) (s : State) : Out :=
  flt1 (.ftanh d a) d a s fTanh

/-- FSIGM (R119, R120). -/
def execFsigm (d a : Code) (s : State) : Out :=
  flt1 (.fsigm d a) d a s fSigm

/-- FRND (R121): the last place is the units place. -/
def execFrnd (d a : Code) (s : State) : Out :=
  laneOp (fltRule (.frnd d a)) s fun s _ l =>
    let ty := laneType s l
    let (n, w) := elemsOf ty
    packRes w d ((List.range n).map fun i => fRound (fmtOf ty) (laneRnd s l) (drawBits s l i) (elemF s l (rdA s l a) i))
      (stoDraws s l n)

/-- FDOT2 (R122). -/
def execFdot2 (d a b : Code) (s : State) : Out :=
  fdotOp (.fdot2 d a b) d a b [9, 10] s

/-- FDOT4 (R122). -/
def execFdot4 (d a b : Code) (s : State) : Out :=
  fdotOp (.fdot4 d a b) d a b [11, 12] s

/-- IDOT4 (R122): the exact sum, clamped under SAT or wrapped. -/
def execIdot4 (d a b : Code) (s : State) : Out :=
  laneOp (fltRule (.idot4 d a b) (some [4, 5])) s fun s _ l =>
    let ty := laneType s l
    let c : Int := if ty = 4 then sextI (rdA s l d) 32 else (rdA s l d : Int)
    let x := (List.range 4).foldl (fun t i => t + elemI ty (rdA s l a) i * elemI ty (rdA s l b) i) c
    packRes 32 d [narrowI ty 32 (laneSat s l) x] 0

end Sys2Proof.Machine
end

