-- ==== Sys2Proof/Machine/Convert.lean ====
section
/-! DEFINITION. Opcodes 0x5E to 0x6D: conversions, PXF4 blocks, group reductions of floating-point values, random
bits (05: R123 to R132). -/
namespace Sys2Proof.Machine

def wideTypes : Option (List Nat) := some [0, 1, 6, 7]
def intBits (ty : Nat) : Nat := if ty = 6 ∨ ty = 7 then 64 else 32
/-- A result in one register, or in a pair for a 64-bit TYPE. -/
def outTyped (ty : Nat) (d : Code) (x : Nat) : LaneOut := if ty = 6 ∨ ty = 7 then out64 d x else out1 d x

/-- The elements CVT.UP.LO (h = 0) or CVT.UP.HI (h = 1) writes (R124). -/
def cvtUp (s : State) (l : Nat) (d : Code) (x h : Nat) : LaneOut :=
  let ty := laneType s l
  if ty = 2 ∨ ty = 3 then packRes 32 d [⟨wrapI (elemI ty x h) 32, 0⟩] 0
  else if ty = 4 ∨ ty = 5 then packRes 16 d [⟨wrapI (elemI ty x (2 * h)) 16, 0⟩, ⟨wrapI (elemI ty x (2 * h + 1)) 16, 0⟩] 0
  else if ty = 9 ∨ ty = 10 then packRes 32 d [convF .f32 rneKeep 0 (elemF s l x h)] 0
  else packRes 16 d [convF .bf16 rneKeep 0 (elemF s l x (2 * h)), convF .bf16 rneKeep 0 (elemF s l x (2 * h + 1))] 0
def upTypes : Option (List Nat) := some [2, 3, 4, 5, 9, 10, 11, 12]

/-- The elements CVT.DN and CVT.DN4 write, from 32-bit sources (R125). -/
def cvtDown (s : State) (l : Nat) (d : Code) (xs : List Nat) : LaneOut :=
  let ty := laneType s l
  let (n, w) := elemsOf ty
  let r := laneRnd s l
  if 9 ≤ ty then
    packRes w d ((List.range n).map fun i => convF (fmtOf ty) r (drawBits s l i) (f32Val s l (xs.getD i 0))) (stoDraws s l n)
  else
    packRes w d ((List.range n).map fun i =>
      let x := xs.getD i 0
      narrowI ty w r.sat (if signedTy ty then sextI x 32 else (x : Int))) 0

/-- Register c + i of a run of v registers. -/
def runReg (s : State) (l : Nat) (c : Code) (i : Nat) : Nat := rd s s.cur.g l (c.toNat + i)

/-- FP32 codes of members of a set, each read under its own lane's FLUSH (R113). -/
def memberF (s : State) (l : Nat) (a : Code) (ms : List Nat) (i : Nat) : List FVal := ms.map fun m =>
  decodeF (fmtOf (laneType s l)) (laneFlush s m) (elemRaw (laneType s l) (rdA s m a) i)
/-- The sum of R129: a NaN gives NaN, and sets no flag beside that of a signalling one, whatever infinities stand with it
(log 45); else the exact sum. An exactly zero sum is -0 if every member is, or under RDN. -/
def fredSum (rm : Nat) (xs : List FVal) : XRes :=
  if anyNan xs then xnan (anySnan xs)
  else
    let r := sumTerms rm xs
    if r.val.isZero ∧ rm = 2 then { r with val := .fin true 0 0 } else r
/-- The greatest member by the rule of R116, NaN passed over (R129, log 17). -/
def greatestF (xs : List FVal) : FVal :=
  match xs with
  | [] => .nan false
  | x :: ys => ys.foldl (fMinMax true) x
/-- The sums of a lane over the members `ms`; a signalling NaN among the elements of any issuing lane sets NV. -/
def fredOut (s : State) (l : Nat) (d a : Code) (ms all : List Nat) : LaneOut :=
  let ty := laneType s l
  let (n, w) := elemsOf ty
  let r := laneRnd s l
  packRes w d ((List.range n).map fun i => finish (fmtOf ty) r (drawBits s l i) 
      (let x := fredSum r.rm (memberF s l a ms i); { x with flags := x.flags ||| nvIf (anySnan (memberF s l a all i)) }))
    (stoDraws s l n)

/-- The lane of the greatest key, the lowest on a tie; none if every key is NaN (R130). -/
def argBest : List (Nat × FVal) → Option (Nat × FVal) → Option (Nat × FVal)
  | [], acc => acc
  | (l, v) :: t, acc =>
    if v.isNan then argBest t acc
    else match acc with
      | none => argBest t (some (l, v))
      | some (k, w) => argBest t (some (if ltV w v then (l, v) else (k, w)))

/-- RNE_FP32(c × 2^d) for a dyadic d ≤ 0 and finite c ≥ 0: the code, and whether it was inexact (R131). -/
def expTerm (c d : Dy) : FRes :=
  if c.m = 0 then ⟨0, 0⟩
  else
    let x : XRes :=
      if d.lt ⟨-1000, 0⟩ then { val := .fin false 1 0, mag := some { n := 0, e := -900, sticky := true } }
      else
        let fl : Int := if 0 ≤ d.e then d.m * (2 ^ d.e.toNat : Nat) else d.m / (2 ^ (-d.e).toNat : Nat)
        let fr := d.add ⟨-fl, 0⟩
        if fr.m = 0 then xval (.fin false c.m.natAbs (c.e + fl))
        else
          let y := fxMag (fxExp (fxMul (fxOfDy fr) fxLn2)) fl
          { val := .fin false 1 0, mag := some { n := y.n * c.m.natAbs, e := y.e + c.e, sticky := true } }
    let y := finish .f32 rneKeep 0 x
    ⟨y.code, y.flags &&& flagNX⟩
def posInf : FVal → Bool
  | .inf n => !n | _ => false
def negInf : FVal → Bool
  | .inf n => n | _ => false
def subDy (x y : FVal) : Dy := x.dy.add y.dy.neg

/-- One lane's SMXUP (R131) from its pair (m, s) and the members' values: the new pair and flags. Where the maximum is -∞, the
registers' own bits stay, a subnormal that FLUSH reads as zero too (log 47). -/
def smxStep (r : Rounding) (g : Nat) (m so : Nat) (mo sv : FVal) (xs : List FVal) : Nat × Nat × Nat :=
  if (mo :: sv :: xs).any (fun v => v.isNan || posInf v) || (sv.sign && !sv.isZero) then (Fmt.f32.nanCode, Fmt.f32.nanCode, flagNV)
  else
    let mn := greatestF (mo :: xs)
    if negInf mn then (m, so, 0)
    else
      let t0 : FRes := if negInf mo then ⟨0, 0⟩ else expTerm sv.dy (subDy mo mn)
      let ts := t0 :: xs.map fun x => if negInf x then ⟨0, 0⟩ else expTerm ⟨1, 0⟩ (subDy x mn)
      let d := ts.foldl (fun (acc : Dy) t => acc.add (decodeF .f32 false t.code).dy) ⟨0, 0⟩
      let y := finish .f32 r g (xval (exactOf d false))
      ((finish .f32 rneKeep 0 (xval mn)).code, y.code, ts.foldl (fun a t => a ||| t.flags) y.flags)

/-- CVT.F2I (R123): STO raises MODE_INVALID. -/
def execCvtF2i (d a : Code) (s : State) : Out :=
  laneOp { instr := .cvtF2i d a, types := wideTypes, noSto := true } s fun s _ l =>
    let ty := laneType s l
    let r := toInt ty (intBits ty) (laneRnd s l).rm (f32Val s l (rdA s l a))
    { outTyped ty d r.code with flags := r.flags }

/-- CVT.I2F (R123). -/
def execCvtI2f (d a : Code) (s : State) : Out :=
  laneOp (fltRule (.cvtI2f d a) wideTypes) s fun s _ l =>
    let ty := laneType s l
    let raw := if ty = 6 ∨ ty = 7 then rdP s l a else rdA s l a
    let x : Int := if signedTy ty then sextI raw (intBits ty) else (raw : Int)
    packRes 32 d [finish .f32 (laneRnd s l) (drawBits s l 0) (xval (.fin (decide (x < 0)) x.natAbs 0))] (stoDraws s l 1)

/-- CVT.UP.LO (R124). -/
def execCvtUpLo (d a : Code) (s : State) : Out :=
  laneOp (fltRule (.cvtUpLo d a) upTypes) s fun s _ l => cvtUp s l d (rdA s l a) 0

/-- CVT.UP.HI (R124). -/
def execCvtUpHi (d a : Code) (s : State) : Out :=
  laneOp (fltRule (.cvtUpHi d a) upTypes) s fun s _ l => cvtUp s l d (rdA s l a) 1

/-- CVT.DN (R125). -/
def execCvtDn (d a b : Code) (s : State) : Out :=
  laneOp (fltRule (.cvtDn d a b) (some [2, 3, 9, 10])) s fun s _ l => cvtDown s l d [rdA s l a, rdA s l b]

/-- CVT.DN4 (R125). -/
def execCvtDn4 (d a b : Code) (s : State) : Out :=
  laneOp (fltRule (.cvtDn4 d a b) (some [4, 5, 11, 12])) s fun s _ l =>
    let x := rdP s l a
    let y := rdP s l b
    cvtDown s l d [x % 2 ^ 32, x / 2 ^ 32, y % 2 ^ 32, y / 2 ^ 32]

/-- QBLK (R126, R87): 32 values into the five registers of one block. -/
def execQblk (d a : Code) (s : State) : Out :=
  laneOp (laneRule (.qblk d a)) s fun s _ l =>
    let q := quantBlock ((List.range 32).map fun j => f32Val s l (runReg s l a j))
    let ws := (List.range 4).map fun j => (d.toNat + j, packElems 4 ((q.codes.drop (8 * j)).take 8))
    { writes := ws ++ [(d.toNat + 4, q.scale + 256 * q.spare)], flags := q.flags }

/-- DQBLK (R127): one element of a block. -/
def execDqblk (d a b : Code) (s : State) : Out :=
  laneOp (laneRule (.dqblk d a b)) s fun s _ l =>
    let i := rdA s l b % 32
    let code := runReg s l a (i / 8) / 2 ^ (4 * (i % 8)) % 16
    let t := runReg s l a 4
    let v := pxDecode code (t % 256) (t / 256 % 256)
    let y : FRes := if v.isNan then ⟨Fmt.f32.nanCode, flagNB⟩ else finish .f32 (laneRnd s l) (drawBits s l 0) (xval v)
    packRes 32 d [y] (stoDraws s l 1)

/-- NIBPK (R128). -/
def execNibpk (d a b : Code) (s : State) : Out :=
  laneOp (laneRule (.nibpk d a b)) s fun s _ l =>
    let nib (x : Nat) : List Nat := (List.range 4).map fun i => x / 2 ^ (8 * i) % 16
    out1 d (packElems 4 (nib (rdA s l a) ++ nib (rdA s l b)))

/-- FRED.ADD (R129). -/
def execFredAdd (d a : Code) (s : State) : Out :=
  laneOp (sameTypeRule (.fredAdd d a) fltTypes) s fun s ok l => fredOut s l d a (lanesIn ok) (lanesIn ok)

/-- FRED.MAX (R129). -/
def execFredMax (d a : Code) (s : State) : Out :=
  laneOp (sameTypeRule (.fredMax d a) fltTypes) s fun s ok l =>
    let ty := laneType s l
    let (n, w) := elemsOf ty
    packRes w d ((List.range n).map fun i =>
      let xs := memberF s l a (lanesIn ok) i
      finish (fmtOf ty) rneKeep 0 { val := greatestF xs, flags := nvIf (anySnan xs) }) 0

/-- FSCAN.ADD (R129): inclusive. -/
def execFscanAdd (d a : Code) (s : State) : Out :=
  laneOp (sameTypeRule (.fscanAdd d a) fltTypes) s fun s ok l => fredOut s l d a ((lanesIn ok).filter (· ≤ l)) (lanesIn ok)

/-- ARGMAX (R130). -/
def execArgmax (d a b : Code) (s : State) : Out :=
  laneOp (sameTypeRule (.argmax d a b) (some [8])) s fun s ok _ =>
    let ks := (lanesIn ok).map fun m => (m, f32Val s m (rdA s m a))
    let w := (argBest ks none).map Prod.fst
    let key := match w with
      | some w => rdA s w a
      | none => Fmt.f32.nanCode
    { out64 d (key + 2 ^ 32 * rdA s (w.getD (lam ok)) b) with flags := nvIf (anySnan (ks.map Prod.snd)) }

/-- RAND (R132): always one draw. -/
def execRand (d : Code) (s : State) : Out :=
  laneOp (laneRule (.rand d)) s fun s _ l => { out1 d (laneDraw s l 0) with draws := 1 }

/-- RANDF (R132). -/
def execRandf (d : Code) (s : State) : Out :=
  laneOp (laneRule (.randf d)) s fun s _ l =>
    { out1 d (finish .f32 rneKeep 0 (xval (.fin false (bitsOf (laneDraw s l 0) 31 8) (-24)))).code with draws := 1 }

/-- SMXUP (R131): D holds the running maximum and the running sum. -/
def execSmxup (d a : Code) (s : State) : Out :=
  laneOp (sameTypeRule (.smxup d a) (some [8])) s fun s ok l =>
    let p := rdP s l d
    let m := p % 2 ^ 32
    let so := p / 2 ^ 32
    let xs := (lanesIn ok).map fun k => f32Val s k (rdA s k a)
    let (y, z, fl) := smxStep (laneRnd s l) (drawBits s l 0) m so (f32Val s l m) (f32Val s l so) xs
    { out64 d (y + 2 ^ 32 * z) with flags := fl, draws := stoDraws s l 1 }

end Sys2Proof.Machine
end

