-- ==== Sys2Proof/Machine/Fault.lean ====
section
/-! DEFINITION. Fault records, parked sub-groups, and the pieces in which commands move memory (R253, R291,
R369 to R371). -/
namespace Sys2Proof.Machine

/-! ### Fault records (R369, R370) -/

/-- Accesses of one address space to one key page on one die share a record; records of KIND 1, which have no key,
are shared by the 2 MiB region of the address (log 18). -/
def sameRecord (kind asid va key : Nat) (r : FaultRec) : Bool :=
  r.asid == asid && (if kind = 1 then r.kind == 1 && r.va / 2 ^ 21 == va / 2 ^ 21 else r.kind != 1 && r.key / 65536 == key / 65536)
/-- The record of a miss found at a die: its number, shared or new; none when 256 are outstanding. -/
def makeFault (s : State) (gd kind acc asid req va key site : Nat) : Option (Nat × State) :=
  match List.find? (fun e : Nat × FaultRec => e.1 / 256 == gd && sameRecord kind asid va key e.2) s.faultRecs with
  | some e => some (e.1, s)
  | none =>
    match (List.range 256).find? (fun n => !Tab.has s.faultRecs (gd * 256 + n)) with
    | none => none
    | some n =>
      let r : FaultRec := { kind := kind, acc := acc, asid := asid, req := req, va := va,
                            key := if kind = 1 then 0 else key, time := s.cycle % 2 ^ 32, site := site }
      some (gd * 256 + n, { s with faultRecs := Tab.put s.faultRecs (gd * 256 + n) r })

/-! ### Parking (R291) -/

/-- Park lanes at an instruction with a fault record; a ninth sub-group stays held (R288). -/
def parkLanes (s : State) (g : Nat) (m : Mask) (pc : BitVec 56) (mac : Option MacPos) (frec : Nat) (vas : List (Nat × Nat)) : State :=
  if m = 0 then s else
  let x := s.grp g
  let same (p : Park) : Bool := p.pc == pc && p.mac == mac && p.frec == frec
  if x.parked.any same then
    let s := s.setGrp g { x with parked := x.parked.map fun p => if same p then { p with mask := p.mask ||| m, vas := p.vas ++ vas } else p }
    s.onLanes g (lanesIn m) fun _ y => { y with pc := pc, mac := mac, stand := .parked }
  else if 8 ≤ x.parked.length then
    s.onLanes g (lanesIn m) fun _ y => { y with pc := pc, mac := mac, stand := .full }
  else
    let s := s.setGrp g { x with parked := x.parked ++ [{ mask := m, pc := pc, mac := mac, frec := frec, vas := vas }] }
    let s := s.event (ckOf g) (slotOf g) 35 1
    s.onLanes g (lanesIn m) fun _ y => { y with pc := pc, mac := mac, stand := .parked }
/-- Park lanes for a miss: with no record free they stay held at the instruction (R369). -/
def parkMiss (s : State) (g : Nat) (m : Mask) (pc : BitVec 56) (mac : Option MacPos) (gd kind acc asid va key : Nat) (vas : List (Nat × Nat)) : State :=
  match makeFault s gd kind acc asid (gdOf g) va key (siteAt s g pc.toNat (macEntry mac)) with
  | some (r, s) => parkLanes s g m pc mac r vas
  | none => s.onLanes g (lanesIn m) fun _ y => { y with pc := pc, mac := mac, stand := .full }
/-- Lanes that stay held for want of a sub-group or a record re-issue. -/
def freeFull (s : State) (g : Nat) : State :=
  s.onLanes g (lanesIn (s.grp g).active) fun _ y => if y.stand = .full then { y with stand := .run } else y
/-- Answer one parked sub-group (R291, R371). -/
def answerPark (s : State) (g : Nat) (p : Park) (decline : Bool) : State :=
  let s := s.modGrp g fun x => { x with parked := x.parked.filter fun q => q != p }
  let ls := lanesIn p.mask
  let s := s.onLanes g ls fun _ y => { y with stand := .run }
  let s := if decline then
      deliver s g (ls.map fun l => (l, ⟨11, cPAGE_FAULT, ((p.vas.find? fun v => v.1 == l).map Prod.snd).getD 0⟩)) 0 p.pc p.mac
    else s.event (ckOf g) (slotOf g) 36 1
  if Tab.has s.groups g then freeFull s g else s

/-! ### Pieces of memory that a command reads or writes (R224, R253, R435) -/

/-- What stops a piece. -/
inductive Prob where
  | miss (kind home key va : Nat)
  | cause (c va home : Nat)
  | held (gd page : Nat)                -- its page moves, or a copy of the line can not be written back yet (R197, R200)
  | absent (gd page : Nat)
  deriving DecidableEq, Repr

/-- Aligned 64-byte pieces of a range: address and length. -/
def piecesAux : Nat → Nat → Nat → List (Nat × Nat)
  | 0, _, _ => []
  | f + 1, va, n => if n = 0 then [] else let k := min n (64 - va % 64); (va, k) :: piecesAux f (va + k) (n - k)
def pieces (va n : Nat) : List (Nat × Nat) := piecesAux (n / 64 + 2) va n

/-- The location of a piece under the leaves and rights now in force. -/
def pieceAt (s : State) (gd asid va : Nat) (write : Bool) : Except Prob Loc :=
  match locate s gd asid va with
  | .miss k h key => .error (.miss k h key va)
  | .at l =>
    if l.absent then .error (.absent l.gd l.page)
    else if peerLost s gd l then .error (.cause cPEER_LOST va l.gd)
    else if !guardOpen s asid gd l.gd then .error (.cause cGUARD_DROP va l.gd)
    else if !(if write then fWr l.leaf else fR l.leaf) || l.obs then .error (.cause cPROTECTION va l.gd)
    else if chanHeld s l asid va || gatedDie s l.gd || !slotsOn s asid gd l.gd then .error (.held l.gd l.page)
    else .ok l
/-- The core's dirty bytes of a line, and owned stash copies, come before an agent of that core; `drop` takes the core's
clean bytes of the line too, which the agent's write would leave behind (R187, R224). -/
def lineReady (s : State) (l : Loc) (ck asid va : Nat) (write drop : Bool) : Except Prob State :=
  let s := if drop then flushLine s ck asid va else backLine s ck asid va
  let s := recallLine s asid (va - va % 64) write
  if lineDirty s ck asid va || (stashOf s asid (va - va % 64)).any (fun e => e.2.owned) then .error (.held l.gd l.page) else .ok s
/-- The agent and the site word of a command's requests (R448). -/
def Cmd.who (c : Cmd) : Nat × Nat := (if c.op.isColl then 3 else 1, c.site)
/-- What the home logs of a request: a requester of another package has no core (R448). -/
def askOf (l : Loc) (gd core agent op asid va bytes : Nat) (site : Nat := 0) : Ask :=
  if pkgOf gd = pkgOf l.gd then { req := gd, core := core, agent := agent, op := op, asid := asid, va := va, bytes := bytes, site := site }
  else { req := gd, core := 31, agent := 4, op := op, asid := asid, va := va, bytes := bytes, site := site }
/-- Read bytes of one line as a command of a core; `who` is the agent and site word that the home logs. -/
def pieceRead (s : State) (gd ck asid va n : Nat) (who : Nat × Nat := (1, 0)) : Except Prob (State × List Nat) :=
  match pieceAt s gd asid va false with
  | .error p => .error p
  | .ok l =>
    match lineReady s l ck asid va false false with
    | .error p => .error p
    | .ok s =>
      match homeRead s l n with
      | some bs => .ok (homeAsk s l (askOf l gd (coreOfCk ck) who.1 0 asid va n who.2) false false false, bs)
      | none => .error (.cause cDATA_LOST va l.gd)
/-- Write bytes of one line as a command of a core. -/
def pieceWrite (s : State) (gd ck asid kslot va en : Nat) (bs : List Nat) (who : Nat × Nat := (1, 0)) : Except Prob State :=
  match pieceAt s gd asid va true with
  | .error p => .error p
  | .ok l =>
    match lineReady s l ck asid va true true with
    | .error p => .error p
    | .ok s =>
      match homePut s kslot l (askOf l gd (coreOfCk ck) who.1 1 asid va bs.length who.2) en bs with
      | some s => .ok s
      | none => .error (.cause cDATA_LOST va l.gd)
/-- Take a line from every cache but L1, for a bank unit, which reads and writes the DRAM (R210). -/
def bankLine (s : State) (l : Loc) (ck asid va : Nat) (write : Bool) : Except Prob State :=
  match lineReady s l ck asid va true false with
  | .error p => .error p
  | .ok s =>
    let s := l2Drop s fun k x => k == l2Key l.gd (sliceOf va) va && x.is asid va false
    .ok (chanAccess (if write then dropReplicas s l asid va else s) l.gd l.page)
/-- Read, or write, bytes of one line as a bank unit. -/
def bankRead (s : State) (gd ck asid va n : Nat) : Except Prob (State × List Nat) :=
  match pieceAt s gd asid va false with
  | .error p => .error p
  | .ok l =>
    match bankLine s l ck asid va false with
    | .error p => .error p
    | .ok s => match homeRead s l n with
      | some bs => .ok (s, bs)
      | none => .error (.cause cDATA_LOST va l.gd)
def bankWrite (s : State) (gd ck asid kslot va en site : Nat) (bs : List Nat) : Except Prob State :=
  match pieceAt s gd asid va true with
  | .error p => .error p
  | .ok l =>
    match bankLine s l ck asid va true with
    | .error p => .error p
    | .ok s => match homeWrite s kslot l en bs with
      | some s => .ok (logTrace s l.gd (sliceOf va) { req := gd, core := coreOfCk ck, agent := 2, op := 7, asid := asid, va := va, site := site } 1)
      | none => .error (.cause cDATA_LOST va l.gd)
def bankReads (gd ck asid : Nat) : List (Nat × Nat) → State → Except Prob (State × List Nat)
  | [], s => .ok (s, [])
  | p :: ps, s =>
    match bankRead s gd ck asid p.1 p.2 with
    | .error e => .error e
    | .ok (s, bs) =>
      match bankReads gd ck asid ps s with
      | .error e => .error e
      | .ok (s, cs) => .ok (s, bs ++ cs)
def bankWrites (gd ck asid kslot site : Nat) : List (Nat × Nat) → List Nat → State → Except Prob State
  | [], _, s => .ok s
  | p :: ps, bs, s =>
    match bankWrite s gd ck asid kslot p.1 (2 ^ p.2 - 1) site (bs.take p.2) with
    | .error e => .error e
    | .ok s => bankWrites gd ck asid kslot site ps (bs.drop p.2) s
def readPieces (gd ck asid : Nat) (ps : List (Nat × Nat)) (s : State) (who : Nat × Nat := (1, 0)) : Except Prob (State × List Nat) :=
  match ps with
  | [] => .ok (s, [])
  | p :: ps =>
    match pieceRead s gd ck asid p.1 p.2 who with
    | .error e => .error e
    | .ok (s, bs) =>
      match readPieces gd ck asid ps s who with
      | .error e => .error e
      | .ok (s, cs) => .ok (s, bs ++ cs)
/-- Read a range. -/
def readRange (s : State) (gd ck asid va n : Nat) (who : Nat × Nat := (1, 0)) : Except Prob (State × List Nat) :=
  readPieces gd ck asid (pieces va n) s who
/-- A byte as a read that a moving page holds finds it once it goes on (R200): the core's own dirty byte, an owner's, or the
home's. -/
def peekByte (s : State) (gd ck asid va : Nat) : Nat :=
  match (l1Byte s ck asid va).filter fun b => b.dirty with
  | some b => b.val.toNat
  | none =>
    match (stashOf s asid (va - va % 64)).find? fun e => e.2.owned with
    | some e => (e.2.bytes.getD (va % 64) 0).toNat
    | none => match locate s gd asid va with
      | .at l => ((homeRead s l 1).getD []).headD 0
      | .miss _ _ _ => 0
/-- Read a range for an instruction that waits for its data within its own step; none where a read stops. -/
def readThrough (gd ck asid : Nat) : List (Nat × Nat) → State → Option (List Nat)
  | [], _ => some []
  | p :: ps, s =>
    match pieceRead s gd ck asid p.1 p.2 with
    | .ok (s, bs) => (readThrough gd ck asid ps s).map fun cs => bs ++ cs
    | .error (.held _ _) => (readThrough gd ck asid ps s).map fun cs => (List.range p.2).map (fun i => peekByte s gd ck asid (p.1 + i)) ++ cs
    | .error _ => none
/-- Write a range piece by piece; on a failure the pieces already written stay (R253). -/
def writePieces (gd ck asid kslot : Nat) (ps : List (Nat × Nat)) (bs : List Nat) (s : State) (who : Nat × Nat := (1, 0)) : State × Option Prob :=
  match ps with
  | [] => (s, none)
  | p :: ps =>
    match pieceWrite s gd ck asid kslot p.1 (2 ^ p.2 - 1) (bs.take p.2) who with
    | .error e => (s, some e)
    | .ok s => writePieces gd ck asid kslot ps (bs.drop p.2) s who
def writeRange (s : State) (gd ck asid kslot va : Nat) (bs : List Nat) (who : Nat × Nat := (1, 0)) : State × Option Prob :=
  writePieces gd ck asid kslot (pieces va bs.length) bs s who
/-- Copy the destination pieces of a range from a source `off` below or above; the offset reached so far. -/
def copyPieces (gd ck asid kslot src dst : Nat) (ps : List (Nat × Nat)) (s : State) (who : Nat × Nat := (1, 0)) : State × Nat × Option Prob :=
  match ps with
  | [] => (s, 0, none)
  | p :: ps =>
    match readRange s gd ck asid (src + (p.1 - dst)) p.2 who with
    | .error e => (s, p.1 - dst, some e)
    | .ok (s, bs) =>
      match pieceWrite s gd ck asid kslot p.1 (2 ^ p.2 - 1) bs who with
      | .error e => (s, p.1 - dst, some e)
      | .ok s =>
        let r := copyPieces gd ck asid kslot src dst ps s who
        (r.1, if r.2.2.isNone then p.1 + p.2 - dst else r.2.1, r.2.2)

/-- Whether every byte of a range is homed in a package; a region whose home map has no leaf is left to its pieces
(R252). -/
def homedIn (s : State) (gd asid pkg va n : Nat) : Bool :=
  (List.range ((va % 2 ^ 21 + n + 2 ^ 21 - 1) / 2 ^ 21)).all fun i =>
    let a := va - va % 2 ^ 21 + i * 2 ^ 21
    match walkHome s gd asid a with
    | .ok leaf => pkgOf (homeOf leaf a).1 == pkg
    | .miss _ => true

end Sys2Proof.Machine
end

