-- ==== Sys2Proof/Machine/Command.lean ====
section
/-! DEFINITION. Asynchronous commands: issue, queues, start, failure and completion, shared by every command
instruction (R38 to R41, R159, R208, R224, R251 to R253). -/
namespace Sys2Proof.Machine

/-! ### Issue (R38, R41, R251) -/

/-- Pop the channels that an instruction names as sources (R46). -/
def popAll (s : State) (i : Instr) : State := (popsOf s s.cur.g s.cur.lanes i).foldl (fun s c => popChan s s.cur.g c) s
/-- Keep for lanes that may park the elements that their instruction pops of p, so that a replay acts on them (R291). -/
def keepRows (p s : State) (m : Mask) (i : Instr) : State :=
  let g := p.cur.g
  let cs := popsOf p g p.cur.lanes i
  if cs.isEmpty then s else
  s.onLanes g (lanesIn m) fun l y => { y with kept := cs.map fun c => (c, w32 (chanElem p g l c)) }
/-- Lanes that have completed their instruction keep nothing of it. -/
def dropKept (s : State) (g : Nat) (m : Mask) : State :=
  if (lanesIn m).all fun l => (s.lane g l).kept.isEmpty then s else s.onLanes g (lanesIn m) fun _ y => { y with kept := [] }
/-- A command with the operands that every command captures, from the lowest issuing lane. -/
def baseCmd (s : State) (ok : Mask) (op : CmdOp) (sync : BitVec 32) : Cmd :=
  let g := s.cur.g
  let x := s.grp g
  let l := lam ok
  { op := op, g := g, task := x.task, ctx := x.ctx, gd := gdOf g, ck := ckOf g, k := laneK s l,
    mode := (s.lane g l).mode, sync := sync, site := curSite s, mask := ok, issuedAt := s.cycle }
/-- Enter a command: its increment becomes pending (R38). -/
def postCmd (s : State) (c : Cmd) : State :=
  let (n, s) := s.fresh
  let s := { s with cmds := Tab.put s.cmds n c }
  let s := s.event c.ck (slotOf c.g) 47 1
  if sEn c.sync then addPending s c.ck (sSem c.sync) (sInc c.sync) else s
/-- A group command: `fill` captures its own operands. -/
def groupCmd (r : Rule) (op : CmdOp) (sync : BitVec 32) (s : State) (fill : State → Mask → Cmd → Cmd) : Out :=
  issue { r with sync := some (.command, sync), stopAll := true, group := true } s fun s ok =>
    postCmd (popAll s r.instr) (fill s ok (baseCmd s ok op sync))

def Cmd.asid (s : State) (c : Cmd) : Nat := (s.ctxOf c.ctx).asid
def Cmd.kslot (s : State) (c : Cmd) : Nat := (s.ctxOf c.ctx).kslot
def Cmd.qk (c : Cmd) : Nat := qkOf c.g
def setCmd (s : State) (id : Nat) (c : Cmd) : State := { s with cmds := Tab.put s.cmds id c }

/-! ### Queues (R159, R173, R208) -/

inductive CmdKind where
  | tile | region | config | mover | remote | bank | coll | table | token | image
  deriving DecidableEq, Repr
def CmdOp.kind : CmdOp → CmdKind
  | .mtileLd => .tile | .mtileSt => .tile
  | .mwload => .region | .mwswap => .region | .mma => .region | .mmaSp => .region | .maccZero => .region | .maccRd => .region
  | .mcfg => .config
  | .movCpy => .mover | .movGth => .mover | .movSct => .mover
  | .put => .remote | .get => .remote | .ratom => .remote
  | .bopAdd => .bank | .bopAxpy => .bank | .bopMax => .bank | .bopCvt => .bank | .bopFill => .bank
  | .collAr => .coll | .collAg => .coll | .collRs => .coll | .collA2a => .coll | .collBc => .coll
  | .taskPost => .table | .launch => .table
  | .tokSend => .token
  | .ctxSave => .image | .ctxLoad => .image
/-- The region a region command names. -/
def Cmd.region (c : Cmd) : Nat :=
  match c.op with
  | .mwload => c.d | .mwswap => c.d | _ => c.a
/-- Whether two commands share a queue: one quad's tile queue or region queue, or the bank commands of one group.
`pos` of an MCFG is the set of regions it changes. -/
def sameQueue (a b : Cmd) : Bool :=
  match a.op.kind, b.op.kind with
  | .tile, .tile => a.qk == b.qk
  | .region, .region => a.qk == b.qk && a.region == b.region
  | .region, .config => a.qk == b.qk && bitOf b.pos a.region
  | .config, .region => a.qk == b.qk && bitOf a.pos b.region
  | .config, .config => a.qk == b.qk && (a.pos &&& b.pos) != 0
  | .bank, .bank => a.g == b.g
  | _, _ => false
/-- No earlier command of its queue has yet to start. -/
def queueFree (s : State) (id : Nat) (c : Cmd) : Bool :=
  s.cmds.all fun e => decide (id ≤ e.1) || !sameQueue c e.2 || e.2.started
/-- No earlier command of its queue is still running: the order in which commands of one queue take effect. The bank
commands of a group have their order in each bank (R208). -/
def queueTurn (s : State) (id : Nat) (c : Cmd) : Bool :=
  c.op.kind == .bank || s.cmds.all fun e => decide (id ≤ e.1) || !sameQueue c e.2
/-- The extra conditions of R159: an MMA or MWLOAD waits for every earlier swap, and a swap for every earlier
product and load; an accumulator read waits for the writes before it (R160). Here every region command waits for
the commands before it in its region, and every tile command for those of its quad, whose head slots it may read (R152). -/
def startClear (s : State) (id : Nat) (c : Cmd) : Bool :=
  match c.op.kind with
  | .region => queueTurn s id c
  | .config => queueTurn s id c
  | .tile => queueTurn s id c
  | _ => true

/-- The bank commands of a group: what a release at BANK scope waits for too (R227). -/
def bankCmds (s : State) (g : Nat) : List Nat := (s.cmds.filter fun c => c.2.g == g && c.2.op.kind == .bank).map Prod.fst
/-- BANK of SCOPE (R47). -/
def bankScope (sc : Nat) : Bool := sc == 6

/-! ### The issue edge (R224) -/

/-- Every access of the issuing lanes before the command has been performed. -/
def edgeDone (s : State) (id : Nat) (c : Cmd) : Bool :=
  s.accs.all fun e => decide (id ≤ e.1) || e.2.g != c.g || !c.mask.getLsbD e.2.lane || !e.2.stage.pending

/-- Whether a generation raise holds an address space (R367): commands pause, walks and new accesses wait. -/
def raiseHolds (s : State) (asid : Nat) : Bool := Tab.has s.raises asid

/-- Whether a command stands still because its die is gated (R453); the DCC runs on. -/
def cmdGated (s : State) (c : Cmd) : Bool := gatedDie s c.gd && coreOfCk c.ck != 16
/-- Whether what a command's signal releases can be written back now (R224). -/
def sigClean (s : State) (c : Cmd) : Bool := !c.wideSig || coreClean (writeBackCore s c.ck) c.ck
/-- A started command that nothing holds. -/
def cmdLive (s : State) (id : Nat) (c : Cmd) : Bool :=
  c.started && c.paused.isNone && queueTurn s id c && edgeDone s id c && !raiseHolds s (c.asid s) && !cmdGated s c && !queueHolds s id &&
    sigClean s c

/-! ### Failure (R253) and completion -/

/-- Count an HDR event (R449): words 0 to 3 of an entry. -/
def censusIndex (x : Nat) : Nat := ((x ^^^ (x / 2 ^ 10) ^^^ (x / 2 ^ 20)) % 1024) % 896
def satAdd (x n top : Nat) : Nat := min (x + n) top
/-- Counts of one kind of result (R153, R449). -/
structure Counts where
  nan : Nat := 0
  inf : Nat := 0
  und : Nat := 0
  sat : Nat := 0
  hdr : Nat := 0
  deriving DecidableEq, Repr
def Counts.plus (a b : Counts) : Counts :=
  ⟨a.nan + b.nan, a.inf + b.inf, a.und + b.und, a.sat + b.sat, a.hdr + b.hdr⟩
def Counts.none (c : Counts) : Bool := c.nan + c.inf + c.und + c.sat + c.hdr == 0
def sumCounts (cs : List Counts) : Counts := cs.foldl Counts.plus {}
/-- Apply counts to an entry of a die's census (R449). -/
def addCensus (s : State) (gd idx : Nat) (tag : Nat) (c : Counts) : State :=
  if c.none then s else
  let k := (gd * 1024 + idx) * 4
  let w (i : Nat) : Nat := (Tab.get s.census (k + i) 0#32).toNat
  let fresh := w 0 == 0 && w 1 == 0 && w 2 == 0
  let coll := bitOf (w 2) 23 || (!fresh && w 3 != tag)
  let put (t : Tab Word) (i v : Nat) : Tab Word := Tab.set t 0#32 (k + i) (w32 v)
  let t := put s.census 0 (satAdd (w 0 / 65536) c.nan 65535 * 65536 + satAdd (w 0 % 65536) c.inf 65535)
  let t := put t 1 (satAdd (w 1 / 65536) c.und 65535 * 65536 + satAdd (w 1 % 65536) c.sat 65535)
  let t := put t 2 (satAdd (w 2 / 2 ^ 24) c.hdr 255 * 2 ^ 24 + b2n coll * 2 ^ 23)
  let t := put t 3 (if fresh then tag else w 3)
  let s := { s with census := t }
  if w 0 / 65536 = 0 ∧ 0 < c.nan ∧ bitsOf (s.pkg (pkgOf gd)).stopen 13 4 = idx then scanStop s gd 3 else s
def cmdCensus (s : State) (c : Cmd) (n : Counts) : State := addCensus s c.gd (censusIndex c.site) c.site n

/-- A start fault: nothing is written, one HDR event, fault flag 1 (R158). -/
def startFault (s : State) (id : Nat) (c : Cmd) : State :=
  completeCmd (cmdCensus s c { hdr := 1 }) id c true
/-- The report of a failed command; DATA_LOST aborts its task, whose kill report it is (R253, R434). -/
def failNote (s : State) (c : Cmd) (cause va : Nat) : State :=
  if cause = cDATA_LOST then s.abort c.task va c.site else failReport s c cause
/-- A command that fails on a cause: a report, fault flag 1 (R253). -/
def failCmd (s : State) (id : Nat) (c : Cmd) (cause va : Nat) : State := completeCmd (failNote s c cause va) id c true

/-- What a command does with a piece that stops (R253): it waits for the record of a miss, or it fails. -/
def cmdProb (s : State) (id : Nat) (c : Cmd) (acc : Nat) (p : Prob) : Out :=
  let s := leaveQueues s id
  let ask (op va : Nat) : Ask := { req := c.gd, core := coreOfCk c.ck, agent := 1, op := op, asid := c.asid s, va := va, site := c.site }
  match p with
  | .absent gd page => .fault (.absentPage gd page)
  | .held gd page => .next (setCmd (arriveHeld s gd page id) id c)
  | .miss kind home key va =>
    let s := if kind = 1 then s else logTrace s home (sliceOf va) (ask (if acc = 1 then 1 else 0) va) 3
    if c.cause = cPAGE_FAULT then .next (failCmd s id c cPAGE_FAULT va)
    else
      .next (match makeFault s home kind acc (c.asid s) c.gd va key c.site with
        | some (r, s) => setCmd s id { c with paused := some r }
        | none => setCmd s id c)
  | .cause k va home =>
    if k = cGUARD_DROP then .next (failCmd (guardReport s c.gd home .req c.ctx va c.site) id c cPROTECTION va)
    else
      let s := if k = cPROTECTION then logTrace s home (sliceOf va) (ask (if acc = 1 then 1 else 0) va) 5 else s
      .next (failCmd s id c k va)

/-- What a range of a group command must meet at issue: alignment (9) and place (10), with the address as TINFO. -/
def alignTrap (bad : Bool) (va : Nat) : Option Trap := if bad then some ⟨9, cALIGN, va⟩ else none
def protTrap (bad : Bool) (va : Nat) : Option Trap := if bad then some ⟨10, cPROTECTION, va⟩ else none
def outside (va : Nat) : Bool := decide (2 ^ 56 ≤ va)
/-- The first trap of a list. -/
def firstTrap : List (Option Trap) → Option Trap
  | [] => none
  | t :: ts => t.orElse fun _ => firstTrap ts
def overlap (a n b m : Nat) : Bool := decide (a < b + m) && decide (b < a + n) && decide (0 < n) && decide (0 < m)
def issueAsid (s : State) : Nat := (s.ctxOf (s.grp s.cur.g).ctx).asid
def issueHomed (s : State) (va n : Nat) : Bool := homedIn s (gdOf s.cur.g) (issueAsid s) (pkgOf (gdOf s.cur.g)) va n

end Sys2Proof.Machine
end

