-- ==== Sys2Proof/Machine/LoadStore.lean ====
section
/-! DEFINITION. Opcodes 0xA0 to 0xBE: lane loads and stores, atomics, scratchpad and stash, fences (10: R237 to
R250; 08: R182 to R198; 09: R213 to R221). A global access is entered here and goes on through the events of
Machine/Access.lean. -/
namespace Sys2Proof.Machine

def memRule (i : Instr) (tys : Option (List Nat) := none) : Rule := { instr := i, types := tys }

/-! ### Global accesses (R238, R288) -/

/-- Address of a per-lane access: a pair plus a sign-extended offset, wrapped to 64 bits (R238). -/
def globalVa (s : State) (l : Nat) (base : Code) (off : Int) : Nat := wrapI (((rdP s l base : Nat) : Int) + off) 64
def offOf (s : State) (l : Nat) (b : Code) : Int := sextI (rdA s l b) 32
/-- ALIGN, then PROTECTION for an address outside every space, judged at issue (R239). -/
def vaTrap (va w : Nat) : Option Trap := firstTrap [alignTrap (va % w != 0) va, protTrap (outside va) va]

/-- Codes that hold a value after a write: reads of p7 to ZERO never wait (R43). -/
def liveCodes (cs : List Nat) : List Nat := cs.filter fun c => decide (c < 0xF7) || c == 0xFF
/-- Codes of a pair destination (R45). -/
def pairCodes (d : Code) : List Nat := if d.toNat = 0xFE then [] else [d.toNat, d.toNat + 1]

/-- One lane's access as every instruction captures it. -/
def baseAcc (s : State) (l : Nat) (op : AccOp) (va w : Nat) : Acc :=
  let g := s.cur.g
  let x := s.grp g
  let m := laneMode s l
  { op := op, g := g, ck := ckOf g, ctx := x.ctx, asid := (s.ctxOf x.ctx).asid, task := x.task, lane := l, hold := s.nextId,
    pc := s.cur.pc, va := va, width := w, enable := 2 ^ w - 1, mode := w32 m, scope := modeScope m, home := gdOf g,
    site := curSite s }
/-- A store that enables no byte makes no access (R241). -/
def Acc.idle (a : Acc) : Bool := a.op == .store && a.enable == 0

/-- Enter the accesses of one instruction: the path is held until every translation answer has returned (R288); an HLB miss
of some lane is counted once (R443). Lanes whose enable is 0 and that perform no release have nothing to wait for. -/
def enterAccs (s : State) (ok : Mask) (n : Nat) (acc : Nat → Acc) : State :=
  let g := s.cur.g
  let as := (lanesIn ok).map fun l => acc l
  if as.all fun a => a.idle && !a.rel then dropKept (advance s g n ok) g ok else
  let s := s.event (ckOf g) (slotOf g) 44 (b2n (as.any fun a => !a.idle && (hlbHit s (gdOf g) a.asid a.va).isNone))
  let s' : State := as.foldl (fun s a =>
    let (k, s) := s.fresh
    { s with accs := Tab.put s.accs k { a with stage := if a.idle then .going else .issued } }) s
  s'.onLanes g (lanesIn ok) fun _ y => { y with stand := .held }
/-- A per-lane global access instruction: `acc` gives each lane's access; its channels are popped at issue. -/
def accOp (r : Rule) (s : State) (va : State → Nat → Nat) (w : State → Nat → Nat) (acc : State → Nat → Acc) : Out :=
  let r' : Rule := { r with own := fun s _ l => vaTrap (va s l) (w s l) }
  .next (issueRaw r' s fun s ok =>
    enterAccs (keepRows s (popAll s r.instr) ok r.instr) ok r.words fun l => acc s l)

def leLoad (s : State) (i : Instr) (a b : Code) (w : Nat) (acq : Bool) (dst : List Nat) : Out :=
  let va (s : State) (l : Nat) := globalVa s l a (offOf s l b)
  accOp (memRule i) s va (fun _ _ => w) fun s l =>
    { baseAcc s l .load (va s l) w with acq := acq, dst := liveCodes dst }
/-- The byte enable of R241 from a lane's k. -/
def storeEnable (k : Nat) : Nat := if bitOf k 4 then k % 16 else 15
def leStore (s : State) (i : Instr) (d b : Code) (w : Nat) (rel : Bool) (en : State → Nat → Nat) (data : State → Nat → Nat) : Out :=
  let va (s : State) (l : Nat) := globalVa s l d (offOf s l b)
  accOp (memRule i) s va (fun _ _ => w) fun s l =>
    { baseAcc s l .store (va s l) w with rel := rel, enable := en s l, data := data s l, ret := false }
/-- The value of a run of n registers, lowest first. -/
def runValue (s : State) (l : Nat) (c : Code) (n : Nat) : Nat :=
  (List.range n).foldl (fun x i => x + 2 ^ (32 * i) * rd s s.cur.g l (c.toNat + i)) 0
def runCodes (d : Code) (n : Nat) : List Nat := (List.range n).map (d.toNat + ·)

/-- LD (R240). -/
def execLd (d a b : Code) (s : State) : Out := leLoad s (.ld d a b) a b 4 false [d.toNat]
/-- LD.X2 (R240). -/
def execLdX2 (d a b : Code) (s : State) : Out := leLoad s (.ldX2 d a b) a b 8 false (pairCodes d)
/-- LD.X4 (R240). -/
def execLdX4 (d a b : Code) (s : State) : Out := leLoad s (.ldX4 d a b) a b 16 false (runCodes d 4)
/-- ST (R240, R241). -/
def execSt (d a b : Code) (s : State) : Out :=
  leStore s (.st d a b) d b 4 false (fun s l => storeEnable (laneK s l)) fun s l => rdA s l a
/-- ST.X2 (R240). -/
def execStX2 (d a b : Code) (s : State) : Out :=
  leStore s (.stX2 d a b) d b 8 false (fun _ _ => 255) fun s l => rdP s l a
/-- ST.X4 (R240). -/
def execStX4 (d a b : Code) (s : State) : Out :=
  leStore s (.stX4 d a b) d b 16 false (fun _ _ => 65535) fun s l => runValue s l a 4
/-- LD.ACQ: an acquire at the lane's SCOPE (R213, R240). -/
def execLdAcq (d a b : Code) (s : State) : Out := leLoad s (.ldAcq d a b) a b 4 true [d.toNat]
/-- ST.REL: a release at the lane's SCOPE (R213, R240). -/
def execStRel (d a b : Code) (s : State) : Out :=
  leStore s (.stRel d a b) d b 4 true (fun s l => storeEnable (laneK s l)) fun s l => rdA s l a

/-! ### Atomics (R243, R244) -/

def atomTypes : Option (List Nat) := some [0, 1, 6, 7]
def isWide (s : State) (l : Nat) : Bool := laneType s l == 6 || laneType s l == 7
def atomWidth (s : State) (l : Nat) : Nat := if isWide s l then 8 else 4
def typedVal (s : State) (l : Nat) (c : Code) : Nat := if isWide s l then rdP s l c else rdA s l c
def orderAcq (m : Nat) : Bool := modeOrder m == 1 || modeOrder m == 3
def orderRel (m : Nat) : Bool := modeOrder m == 2 || modeOrder m == 3
/-- One lane's read-modify-write with the ORDER and SCOPE of its mode. -/
def atomAcc (s : State) (l : Nat) (op : AccOp) (va w data cmp : Nat) (dst : List Nat) : Acc :=
  let m := laneMode s l
  { baseAcc s l op va w with elem := laneType s l, data := data, cmp := cmp, acq := orderAcq m, rel := orderRel m, dst := liveCodes dst }
def typedCodes (s : State) (l : Nat) (d : Code) : List Nat := if isWide s l then pairCodes d else [d.toNat]
def atomOp (i : Instr) (op : AccOp) (d a b : Code) (s : State) : Out :=
  accOp (memRule i atomTypes) s (fun s l => globalVa s l a 0) atomWidth fun s l =>
    atomAcc s l op (globalVa s l a 0) (atomWidth s l) (typedVal s l b) 0 (typedCodes s l d)
/-- The draws that a floating-point addition takes at issue: one per element under STO (R244). -/
def faddDraws (s : State) (l : Nat) : List Nat :=
  if isSto (laneMode s l) then (List.range (elemsOf (laneType s l)).1).map (laneDraw s l) else []

/-- ATOM.ADD (R243). -/
def execAtomAdd (d a b : Code) (s : State) : Out := atomOp (.atomAdd d a b) .add d a b s
/-- ATOM.MIN (R243). -/
def execAtomMin (d a b : Code) (s : State) : Out := atomOp (.atomMin d a b) .imin d a b s
/-- ATOM.MAX (R243). -/
def execAtomMax (d a b : Code) (s : State) : Out := atomOp (.atomMax d a b) .imax d a b s
/-- ATOM.AND (R243). -/
def execAtomAnd (d a b : Code) (s : State) : Out := atomOp (.atomAnd d a b) .band d a b s
/-- ATOM.OR (R243). -/
def execAtomOr (d a b : Code) (s : State) : Out := atomOp (.atomOr d a b) .bor d a b s
/-- ATOM.XOR (R243). -/
def execAtomXor (d a b : Code) (s : State) : Out := atomOp (.atomXor d a b) .bxor d a b s
/-- ATOM.XCHG (R243). -/
def execAtomXchg (d a b : Code) (s : State) : Out := atomOp (.atomXchg d a b) .xchg d a b s
/-- ATOM.CAS: compare in the even register of B and new in the odd; pairs for a 64-bit TYPE (R243). -/
def execAtomCas (d a b : Code) (s : State) : Out :=
  accOp (memRule (.atomCas d a b) atomTypes) s (fun s l => globalVa s l a 0) atomWidth fun s l =>
    let v := if isWide s l then runValue s l b 4 else rdP s l b
    let n := 8 * atomWidth s l
    atomAcc s l .cas (globalVa s l a 0) (atomWidth s l) (v / 2 ^ n) (v % 2 ^ n) (typedCodes s l d)
/-- ATOM.FADD (R243, R244). -/
def execAtomFadd (d a b : Code) (s : State) : Out :=
  accOp (memRule (.atomFadd d a b) (some [8, 9, 10])) s (fun s l => globalVa s l a 0) (fun _ _ => 4) fun s l =>
    { atomAcc s l .fadd (globalVa s l a 0) 4 (rdA s l b) 0 [d.toNat] with draws := faddDraws s l }
/-- RED.ADD (R243, R244): nothing is returned. -/
def execRedAdd (a b : Code) (s : State) : Out :=
  accOp (memRule (.redAdd a b) (some [0, 1, 6, 7, 8])) s (fun s l => globalVa s l a 0) atomWidth fun s l =>
    let x := atomAcc s l (if laneType s l = 8 then .fadd else .add) (globalVa s l a 0) (atomWidth s l) (typedVal s l b) 0 []
    { x with acq := false, ret := false, draws := if laneType s l = 8 then faddDraws s l else [] }

/-! ### Dead pages and prefetch (R249, R250) -/

/-- MDEAD (R249): a write of zero to a page, relaxed at PKG scope. -/
def execMdead (a : Code) (s : State) : Out :=
  accOp (memRule (.mdead a)) s (fun s l => globalVa s l a 0) (fun _ _ => 65536) fun s l =>
    { baseAcc s l .mdead (globalVa s l a 0) 1 with scope := 3, ret := false }

/-- Whether a global line is mapped by a stash of some team of an address space. -/
def stashMapped (s : State) (asid la : Nat) : Bool :=
  s.teams.any fun t => (s.ctxOf t.2.ctx).asid == asid && t.2.stash.any fun r => decide (r.addr ≤ la) && decide (la < r.addr + r.len)
/-- PREF of one lane: at CORE scope it fills an L1 block, at a wider one the home slice (R186, R187, R250). -/
def prefLane (s : State) (g : Nat) (m va : Nat) : State :=
  let asid := (s.ctxOf (s.grp g).ctx).asid
  let gd := gdOf g
  let ck := ckOf g
  let la := va - va % 64
  if outside va then s else
  match locate s gd asid va with
  | .miss _ _ _ => s
  | .at l =>
    if !fR l.leaf || fHs l.leaf || l.host || l.obs || l.absent || stashMapped s asid la || peerLost s gd l || !guardOpen s asid gd l.gd ||
      chanHeld s l asid va || gatedDie s l.gd then s
    else
      let ask (s : State) : State := homeAsk s l (askOf l gd (coreOfCk ck) 0 12 asid va 0 (curSite s)) false false (lineLost s l.gd l.mkey)
      if modeScope m != 0 then ask s
      else if !cacheable gd l || l1Has s ck asid (va - va % 4) 4 then s
      else match l1Place s ck asid (va - va % 4) 4 l.leaf (curSite s) with
        | none => s
        | some (t, b) =>
          match homeRead t (mkLoc l.gd l.leaf (l.key - l.key % 64 + 8 * b.first)) (8 * b.words) with
          | some bs => l1Fill (ask t) ck b bs
          | none => s
/-- PREF (R250): no access, never parks. -/
def execPref (a b : Code) (s : State) : Out :=
  issue (memRule (.pref a b)) s fun s ok =>
    let vas := (lanesIn ok).map fun l => (laneMode s l, globalVa s l a (offOf s l b))
    vas.foldl (fun t v => prefLane t s.cur.g v.1 v.2) (popAll s (.pref a b))

/-! ### Windows and stash (R182 to R185, R194 to R198) -/

def winKey (t o : Nat) : Nat := t * 2 ^ 20 + o
/-- The range of a team that maps a window offset. -/
def rangeAt (t : Team) (o : Nat) : Option StashRange := t.stash.find? fun r => decide (r.off ≤ o) && decide (o < r.off + r.len)
/-- Whether an access must fill or own a line first (R196). -/
def needsFill (s : State) (tk o : Nat) (write : Bool) : Bool :=
  match rangeAt (s.team tk) o with
  | none => false
  | some _ => match Tab.find? s.stash (stashKey tk (o / 64)) with
    | none => true
    | some x => write && !x.owned
/-- The address of the global line that a mapped offset lies in. -/
def StashRange.line (r : StashRange) (o : Nat) : Nat := r.addr + (o - o % 64 - r.off)
/-- The first core of a team. -/
def Team.core0 (t : Team) : Nat := t.gd * 17 + (if t.quad = 4 then 16 else 4 * t.quad + t.base)
/-- Fill a mapped line, with ownership for a writer, which takes every replica (R191): recall it elsewhere, read the home
(R196). -/
def stashFill (s : State) (g tk o : Nat) (r : StashRange) (write : Bool) : Except Prob State :=
  let t := s.team tk
  let asid := (s.ctxOf t.ctx).asid
  let la := r.line o
  let k := stashKey tk (o / 64)
  match pieceAt s (gdOf g) asid la write with
  | .error p => .error p
  | .ok l =>
    if fHs l.leaf || l.host then .error (.cause cPROTECTION la l.gd) else
    match lineReady s l (ckOf g) asid la write true with
    | .error p => .error p
    | .ok s =>
      let q := askOf l (gdOf g) (coreOfCk (ckOf g)) 0 (if write then 4 else 3) asid la 0 (curSite s)
      match homeRead s l 64 with
      | none => .error (.cause cDATA_LOST la l.gd)
      | some bs =>
        let s := homeAsk s l q write false false
        let x : StashLine := { addr := la, ctx := t.ctx, ck := t.core0, task := t.task, win := t.win, cores := t.cores, owned := write, bytes := bs.map (BitVec.ofNat 8) }
        .ok { s with stash := Tab.put s.stash k x }
def winByte (s : State) (tk o : Nat) : Nat :=
  match rangeAt (s.team tk) o with
  | none => (Tab.get s.wins (winKey tk o) 0#8).toNat
  | some _ => (((Tab.get s.stash (stashKey tk (o / 64)) { addr := 0 }).bytes).getD (o % 64) 0).toNat
def setWinByte (s : State) (tk o v : Nat) : State :=
  match rangeAt (s.team tk) o with
  | none => { s with wins := Tab.set s.wins 0#8 (winKey tk o) (BitVec.ofNat 8 v),
                     dirtyLines := Tab.put s.dirtyLines (tk * 2 ^ 12 + o / 256) true }
  | some _ =>
    let k := stashKey tk (o / 64)
    let x := Tab.get s.stash k { addr := 0 }
    { s with stash := Tab.put s.stash k { x with bytes := x.bytes.set (o % 64) (BitVec.ofNat 8 v), dirty := x.dirty ||| (1#64 <<< (o % 64)) } }
def winRead (s : State) (tk o n : Nat) : Nat := leValue ((List.range n).map fun i => winByte s tk (o + i))
def winWrite (s : State) (tk o n en v : Nat) : State :=
  (List.range n).foldl (fun s i => if bitOf en i then setWinByte s tk (o + i) (v / 256 ^ i) else s) s

/-- What one lane asks of the scratchpad. -/
structure WinReq where
  off : Nat
  width : Nat
  enable : Nat := 0                     -- 0 for a load
  data : Nat := 0
  cmp : Nat := 0
  op : AccOp := .load
  elem : Nat := 0
  deriving DecidableEq, Repr
def WinReq.writes (r : WinReq) : Bool := r.op.isAtomic || r.enable != 0

/-- The traps of one lane's access: alignment, the window's end, and of a fill the rights and place of its page (R239). -/
def winTrap (s : State) (r : WinReq) : Option Trap :=
  let tk := (s.grp s.cur.g).team
  let asid := (s.ctxOf (s.grp s.cur.g).ctx).asid
  firstTrap [alignTrap (r.off % r.width != 0) r.off, protTrap (decide ((s.team tk).win < r.off + r.width)) r.off,
    match rangeAt (s.team tk) r.off with
    | none => none
    | some x =>
      if !needsFill s tk r.off r.writes then none else
      match pieceAt s (gdOf s.cur.g) asid (x.line r.off) r.writes with
      | .error (.cause c va _) => protTrap (c == cPROTECTION) va
      | .ok l => protTrap (fHs l.leaf || l.host) (x.line r.off)
      | .error _ => none]

/-- What a lane's access does at its bank: the new state and the old value. -/
def winDo (s : State) (tk : Nat) (r : WinReq) : State × Nat :=
  let x := winRead s tk r.off r.width
  if r.op.isAtomic then (winWrite s tk r.off r.width (2 ^ r.width - 1) (atomVal r.op r.elem 0 [] r.width x r.data r.cmp).code, x)
  else (winWrite s tk r.off r.width r.enable r.data, x)
/-- One lane's access: the old value read, after a fill where the line needs one; or what stops the fill. An access to a
mapped offset is one to the global line: the core's own L1 bytes of the line go first (R215, R216). -/
def winStep (s : State) (g : Nat) (r : WinReq) : Except Prob (State × Nat) :=
  let tk := (s.grp g).team
  if r.op.isStore && r.enable == 0 then .ok (s, 0) else
  match rangeAt (s.team tk) r.off with
  | none => .ok (winDo s tk r)
  | some x =>
    let asid := (s.ctxOf (s.team tk).ctx).asid
    let s := flushLine s (ckOf g) asid (x.line r.off)
    if lineDirty s (ckOf g) asid (x.line r.off) then .error (.held 0 0)
    else if needsFill s tk r.off r.writes then
      (match stashFill s g tk r.off x r.writes with
       | .error p => .error p
       | .ok s => .ok (winDo s tk r))
    else .ok (winDo s tk r)

/-- What became of the lanes of a scratchpad instruction: values of those served, what stopped the others. -/
structure WinRun where
  s : State
  vals : List (Nat × Nat) := []
  miss : List (Nat × Prob) := []
def winRun (s : State) (g : Nat) (rs : List (Nat × WinReq)) : WinRun :=
  rs.foldl (fun (w : WinRun) r =>
    match winStep w.s g r.2 with
    | .ok (s, x) => { w with s := s, vals := w.vals ++ [(r.1, x)] }
    | .error p => { w with miss := w.miss ++ [(r.1, p)] }) { s := s }
/-- Whether some lane's line has to be filled from Invalid. -/
def winFills (s : State) (g : Nat) (rs : List (Nat × WinReq)) : Bool :=
  rs.any fun r => let tk := (s.grp g).team
    !(r.2.op.isStore && r.2.enable == 0) && (rangeAt (s.team tk) r.2.off).isSome && !Tab.has s.stash (stashKey tk (r.2.off / 64))
/-- A lane whose fill stops: a miss parks it (R196, R291), a held line lets it issue again, a lost datum aborts the task
(R242), and a lost peer or a guard's drop is the failure of an access that has left the path (R481). -/
def winMiss (s : State) (g n : Nat) (read : Bool) (dst : List Nat) (m : Nat × Prob) : State :=
  match m.2 with
  | .miss kind home key va =>
    parkMiss s g (1#64 <<< m.1) s.cur.pc s.cur.mac home kind 4 (s.ctxOf (s.grp g).ctx).asid va key [(m.1, va)]
  | .held _ _ => s
  | .absent _ _ => s
  | .cause c va home =>
    if c = cDATA_LOST then s.abort (s.grp g).task va (curSite s) else
    let s := if c = cGUARD_DROP then guardReport s (gdOf g) home .req (s.grp g).ctx va (curSite s) else s
    let f : Failed := { acc := s.nextId, cause := if c = cGUARD_DROP then cPROTECTION else c, va := va, regs := liveCodes dst, read := read }
    let s := (s.fresh).2.modLane g m.1 fun y => { y with failed := y.failed ++ [f] }
    dropKept (advance s g n (1#64 <<< m.1)) g (1#64 <<< m.1)
def winFault (ms : List (Nat × Prob)) : Option (Nat × Nat) :=
  ms.findSome? fun m => match m.2 with
    | .absent gd page => some (gd, page)
    | _ => none
/-- Accesses beyond the first in the busiest of the 64 banks; reads of one word are one access (R62, R184). -/
def bankExtra (rs : List WinReq) : Nat :=
  let words (r : WinReq) : List Nat := (List.range (r.width / 4)).map fun i => r.off / 4 + i
  let made := rs.filter fun r => !(r.op.isStore && r.enable == 0)
  let all := ((made.filter fun r => r.op.isLoad).flatMap words).eraseDups ++ (made.filter fun r => !r.op.isLoad).flatMap words
  ((List.range 64).foldl (fun n b => max n (all.filter fun w => w % 64 == b).length) 0) - 1

/-- A scratchpad instruction: requests from every issuing lane, performed in ascending lane order (R217). -/
def winOp (r : Rule) (s : State) (req : State → Nat → WinReq) (dst : List Nat) : Out :=
  let r' : Rule := { r with own := fun s _ l => winTrap s (req s l) }
  let m := issuing s
  let bad := maskOf fun l => (causesOf s r' m).any fun t => t.1 == l
  let ok0 := m &&& ~~~bad
  let w0 := winRun s s.cur.g ((lanesIn ok0).map fun l => (l, req s l))
  match winFault w0.miss with
  | some (gd, page) => .fault (.absentPage gd page)
  | none =>
    .next (issueRaw r' s fun s ok =>
      let g := s.cur.g
      let ck := ckOf g
      let atomics (p : Nat → Bool) : Bool :=
        (lanesIn ok).any fun l => (req s l).op.isAtomic && p (laneMode s l) && wideScope (modeScope (laneMode s l))
      let acq := atomics orderAcq
      let rs := (lanesIn ok).map fun l => (l, req s l)
      let s := if atomics orderRel then writeBackCore s ck else s
      let s := (s.event ck (slotOf g) 41 (bankExtra (rs.map Prod.snd))).event ck (slotOf g) 42 (b2n (winFills s g rs))
      let w := winRun s g rs
      let outs := w.vals.map fun v => (v.1, ({ writes := (List.range dst.length).map fun i => (dst.getD i 0, v.2 / 2 ^ (32 * i) % 2 ^ 32) } : LaneOut))
      let s := keepRows s (commit w.s r.instr outs) (maskOf fun l => w.miss.any fun v => v.1 == l) r.instr
      let s := if acq then dropClean s ck else s
      let served := maskOf fun l => w.vals.any fun v => v.1 == l
      let s := dropKept (advance s g r.words served) g served
      w.miss.foldl (fun s m => if Tab.has s.groups g then winMiss s g r.words (!(dst.isEmpty)) dst m else s) s)

def winOff (s : State) (l : Nat) (x b : Code) : Nat := (rdA s l x + rdA s l b) % 2 ^ 32
/-- LDS (R238, R240). -/
def execLds (d a b : Code) (s : State) : Out :=
  winOp (memRule (.lds d a b)) s (fun s l => { off := winOff s l a b, width := 4 }) [d.toNat]
/-- LDS.X4 (R238, R240). -/
def execLdsX4 (d a b : Code) (s : State) : Out :=
  winOp (memRule (.ldsX4 d a b)) s (fun s l => { off := winOff s l a b, width := 16 }) (runCodes d 4)
/-- STS (R238, R240, R241). -/
def execSts (d a b : Code) (s : State) : Out :=
  winOp (memRule (.sts d a b)) s
    (fun s l => { off := winOff s l d b, width := 4, enable := storeEnable (laneK s l), data := rdA s l a, op := .store }) []
/-- STS.X4 (R238, R240). -/
def execStsX4 (d a b : Code) (s : State) : Out :=
  winOp (memRule (.stsX4 d a b)) s
    (fun s l => { off := winOff s l d b, width := 16, enable := 65535, data := runValue s l a 4, op := .store }) []
/-- ATOMS.ADD (R243, R244). -/
def execAtomsAdd (d a b : Code) (s : State) : Out :=
  winOp (memRule (.atomsAdd d a b) (some [0, 1])) s
    (fun s l => { off := rdA s l a, width := 4, data := rdA s l b, op := .add }) [d.toNat]
/-- ATOMS.CAS (R243, R244): compare in the even register of B, new in the odd. -/
def execAtomsCas (d a b : Code) (s : State) : Out :=
  winOp (memRule (.atomsCas d a b) (some [0, 1])) s
    (fun s l => { off := rdA s l a, width := 4, data := rdP s l b / 2 ^ 32, cmp := rdP s l b % 2 ^ 32, op := .cas }) [d.toNat]

/-! ### Stash ranges (R247, R248) -/

/-- Lines of a team's stash whose window line lies in a range, in key order; a window has 2^14 lines. -/
def stashIn (s : State) (tk lo hi : Nat) : List (Nat × StashLine) :=
  s.stash.filter fun e => decide (stashKey tk lo ≤ e.1) && decide (e.1 < stashKey tk (min hi (2 ^ 14)))
def stashOuts (s : State) (es : List (Nat × StashLine)) : State := es.foldl (fun s e => stashOut s e.1 e.2) s
def stashBacks (s : State) (es : List (Nat × StashLine)) : State := es.foldl (fun s e => stashBack s e.1 e.2) s
/-- The first of some lines that can not be written back now. -/
def stashStuck (s : State) (es : List (Nat × StashLine)) : Option StashLine :=
  (es.find? fun e => stashOwned (stashBacks s es) e.1).map Prod.snd
/-- The ranges of a team that overlap [o, o + n), and their lines. -/
def goneRanges (s : State) (tk o n : Nat) : List StashRange := (s.team tk).stash.filter fun r => overlap r.off r.len o n
def goneLines (s : State) (tk o n : Nat) : List (Nat × StashLine) :=
  (goneRanges s tk o n).flatMap fun r => stashIn s tk (r.off / 64) ((r.off + r.len) / 64)
/-- Remove the ranges of a team that overlap [o, o + n): their lines are written back and made Invalid. -/
def unmapRanges (s : State) (tk o n : Nat) : State :=
  let s := stashOuts s (goneLines s tk o n)
  { s with teams := Tab.put s.teams tk { s.team tk with stash := (s.team tk).stash.filter fun r => !overlap r.off r.len o n } }
/-- The 4 KiB stripes that a range touches: pages of different homes may alternate so (R361). -/
def stripesOf (va n : Nat) : List Nat :=
  (List.range ((va % 4096 + n + 4095) / 4096)).map fun i => if i = 0 then va else va - va % 4096 + i * 4096
/-- Lanes at an instruction whose line can not be written back yet: they park where its lookup misses, and issue again
otherwise. -/
def stuckLanes (s : State) (g : Nat) (m : Mask) (x : StashLine) : State :=
  let asid := (s.ctxOf (s.grp g).ctx).asid
  match locate s (gdOf g) asid x.addr with
  | .miss k h key => parkMiss s g m s.cur.pc s.cur.mac h k 4 asid x.addr key ((lanesIn m).map fun l => (l, x.addr))
  | .at _ => s

/-- STASH.MAP (R194, R247); every operand from the lowest issuing lane. -/
def execStashMap (d a b : Code) (s : State) : Out :=
  let zero := a.toNat == 0xFE
  let o (s : State) (m : Mask) := rdA s (lam m) d
  let va (s : State) (m : Mask) := rdP s (lam m) a
  let n (s : State) (m : Mask) := rdA s (lam m) b
  let look (s : State) (va n : Nat) := (stripesOf va n).map fun p => (p, locate s (gdOf s.cur.g) (issueAsid s) p)
  let allCause (s : State) (m : Mask) : Option Trap :=
    let t := s.team (s.grp s.cur.g).team
    let bad (f : Nat × Found) : Bool := match f.2 with
      | .at l => fHs l.leaf || l.host || l.obs || !fR l.leaf || pkgOf l.gd != pkgOf (gdOf s.cur.g)
      | .miss _ _ _ => false
    let kept := (t.stash.filter fun r => !overlap r.off r.len (o s m) (n s m)).length
    firstTrap [alignTrap (o s m % 64 != 0 || n s m % 64 != 0 || (!zero && va s m % 64 != 0)) (va s m),
      protTrap (decide (n s m < 64) || decide (t.win < o s m + n s m)) (va s m),
      if zero then none else protTrap (decide (16 ≤ kept) || outside (va s m) || decide (2 ^ 56 < va s m + n s m)) (va s m),
      if zero then none else protTrap ((look s (va s m) (n s m)).any bad) (va s m)]
  .next (issueRaw { memRule (.stashMap d a b) with stopAll := true, all := allCause } s fun s ok =>
    let g := s.cur.g
    let tk := (s.grp g).team
    let a0 := va s ok
    let o0 := o s ok
    let n0 := n s ok
    let missAt := if zero then none else (look s a0 n0).findSome? fun f => match f.2 with
      | .miss k h key => some (f.1, k, h, key)
      | .at _ => none
    match missAt, stashStuck s (goneLines s tk o0 n0) with
    | some (p, k, h, key), _ => parkMiss s g ok s.cur.pc s.cur.mac h k 4 (issueAsid s) p key ((lanesIn ok).map fun l => (l, p))
    | none, some x => stuckLanes s g ok x
    | none, none =>
      let s := unmapRanges (popAll s (.stashMap d a b)) tk o0 n0
      let t := s.team tk
      let s := if zero then s else { s with teams := Tab.put s.teams tk { t with stash := t.stash ++ [{ off := o0, addr := a0, len := n0 }] } }
      advance s g 1 ok)

/-- Write back the mapped lines that meet [o, o + n): Clean afterwards, or Invalid (R196, R248). -/
def stashSweep (i : Instr) (a b : Code) (inv : Bool) (s : State) : Out :=
  .next (issueRaw (memRule i) s fun s ok =>
    let g := s.cur.g
    let tk := (s.grp g).team
    let o := rdA s (lam ok) a
    let n := rdA s (lam ok) b
    let es := if n = 0 then [] else stashIn s tk (o / 64) ((o + n + 63) / 64)
    match stashStuck s es with
    | some x => stuckLanes s g ok x
    | none =>
      let s := popAll s i
      advance (if inv then stashOuts s es else stashBacks s es) g 1 ok)
/-- STASH.WB (R248). -/
def execStashWb (a b : Code) (s : State) : Out := stashSweep (.stashWb a b) a b false s
/-- STASH.INV (R248). -/
def execStashInv (a b : Code) (s : State) : Out := stashSweep (.stashInv a b) a b true s

/-! ### Fences (R221, R227, R246) -/

/-- What the fence of one lane waits for: reads only for an acquire, every access otherwise; at SCOPE = BANK also the
group's bank commands. -/
def fenceAccs (s : State) (g l : Nat) (m : Nat) : List Nat :=
  (s.accs.filter fun a => a.2.g == g && a.2.lane == l && a.2.waiting && (modeOrder m != 1 || a.2.ret)).map Prod.fst
/-- The effect of a fence whose accesses are done: a release or full fence at QUAD scope or wider writes the core's
dirty bytes back, an acquire or full fence drops its clean bytes (R187, R215). -/
def fenceEffect (s : State) (g : Nat) (ms : List Nat) : State :=
  let ck := ckOf g
  let s := if ms.any (fun m => wideScope (modeScope m) && modeOrder m != 1) then writeBackCore s ck else s
  if ms.any (fun m => wideScope (modeScope m) && modeOrder m != 2) then dropClean s ck else s
/-- FENCE (R246): the group waits while an access of some lane is outstanding, its lanes held at the fence. -/
def execFence (s : State) : Out :=
  .next (issueRaw (memRule .fence) s fun s ok =>
    let g := s.cur.g
    let ms := (lanesIn ok).map fun l => (l, laneMode s l)
    let ids := ms.flatMap fun m => fenceAccs s g m.1 m.2
    let cs := if ms.any (fun m => bankScope (modeScope m.2)) then bankCmds s g else []
    if ids.isEmpty && cs.isEmpty then advance (fenceEffect s g (ms.map Prod.snd)) g 1 ok
    else
      let s := s.modGrp g fun x => { x with service := some (.accesses (ids ++ cs) ok) }
      s.onLanes g (lanesIn ok) fun _ y => { y with stand := .held })
/-- FENCE.BANK (R227, R246): the group waits for its bank commands; then the core's clean bytes are dropped. -/
def execFenceBank (s : State) : Out :=
  .next (issueRaw (memRule .fenceBank) s fun s ok =>
    let g := s.cur.g
    let cs := bankCmds s g
    if cs.isEmpty then advance (dropClean s (ckOf g)) g 1 ok
    else
      let s := s.modGrp g fun x => { x with service := some (.commands cs ok) }
      s.onLanes g (lanesIn ok) fun _ y => { y with stand := .held })

end Sys2Proof.Machine
end

