-- ==== Sys2Proof/Machine/Access.lean ====
section
/-! DEFINITION. The rows through which a lane's global access goes after its issue: the two walks, the translation
answer, its performance at the home, its return (08: R187 to R205; 10: R239 to R245, R249, R481; 11: R272, R276;
15: R362 to R369; 19: R446 to R448). A row whose condition does not hold changes nothing. -/
namespace Sys2Proof.Machine

/-! ### Walks (R362, R365) -/

def mapAccs (s : State) (p : Acc → Bool) (f : Acc → Acc) : State :=
  { s with accs := s.accs.map fun e => if p e.2 then (e.1, f e.2) else e }
/-- HLB_WALK_COMPLETE (R362): `req` is the group whose access asked; its miss was counted as it issued. -/
def execHlbWalkComplete (gd asid va _req : Nat) (s : State) : Out :=
  if raiseHolds s asid then .next s else
  let waits (a : Acc) : Bool := a.stage == .issued && gdOf a.g == gd && a.asid == asid && a.va / 2 ^ 21 == va / 2 ^ 21
  .next (match walkHome s gd asid va with
    | .ok leaf => mapAccs (hlbFill s gd asid va leaf) waits fun a => { a with via := some leaf }
    | .miss k => mapAccs s waits fun a => { a with stage := .missed k, home := gd, key := 0 })

/-- Where an access goes: home, key address, and the home-map leaf, which is the one its walk found or the one its die's
HLB holds. -/
def accHome (s : State) (a : Acc) : Option (Nat × Nat × Nat) :=
  (a.via.orElse fun _ => hlbHit s (gdOf a.g) a.asid a.va).map fun leaf => let h := homeOf leaf a.va; (h.1, h.2, leaf)
/-- CTC_WALK_COMPLETE (R365): `req` is the group whose access asked. -/
def execCtcWalkComplete (gd asid key req : Nat) (s : State) : Out :=
  if raiseHolds s asid then .next s else
  let waits (a : Acc) : Bool := a.stage == .issued && a.asid == asid && (match accHome s a with
    | some h => h.1 == gd && h.2.1 / 65536 == key / 65536
    | none => false)
  let il := ((List.find? (fun e : Nat × Acc => e.2.g == req && waits e.2) s.accs).bind fun e => accHome s e.2).elim 0 fun h => leafIl h.2.2
  .next (match walkFrame s gd asid il key with
    | .ok e => ctcFill s gd asid key e
    | .miss k => mapAccs s waits fun a => { a with stage := .missed k, home := gd, key := ((accHome s a).map fun h => h.2.1).getD 0 })

/-! ### Translation answers (R288, R364, R369) -/

inductive AccAns where
  | wait
  | idle
  | miss (kind home key : Nat)
  | move (leaf : Nat)                   -- its home is found anew under another leaf (R366)
  | go (home key leaf : Nat)            -- leaf 0: the request never reaches its home
  deriving DecidableEq, Repr

/-- Whether a request of a die to a home goes nowhere: its peer is lost, or a guard drops it (R272, R276). -/
def noWay (s : State) (asid gd home : Nat) : Bool := homeLost s gd home || !guardOpen s asid gd home
/-- The leaf whose rights answer an access, from the first source that holds it (R364): an L1 block, the line in L2, the
core's rights cache; then the home channel. `true` with it where the rights cache was missed. -/
def rightsOf (s : State) (a : Acc) (home key : Nat) : Option (Nat × Bool) :=
  match (l1Set s a.ck a.va).find? fun b => b.covers a.asid a.va a.width with
  | some b => some (b.leaf, false)
  | none =>
    match (l2Find s home (sliceOf a.va) a.asid a.va false).orElse fun _ => l2Find s (gdOf a.g) (sliceOf a.va) a.asid a.va true with
    | some x => some (x.leaf, false)
    | none => match rightAt s a.ck a.asid home key with
      | some e => some (e, false)
      | none => (ctcHit s home a.asid key).map fun e => (e, true)
/-- The stripes of the page that an MDEAD names where its region is interleaved (R249, R361; log 42). -/
def deadStripes (s : State) (a : Acc) (leaf : Nat) : List (Nat × Found) :=
  if a.op = .mdead ∧ leafIl leaf ≠ 0 then (stripesOf a.va 65536).map fun v => (v, locate s (gdOf a.g) a.asid v) else []
def accAns (s : State) (a : Acc) : AccAns :=
  match a.stage with
  | .missed k => .miss k a.home a.key
  | .issued =>
    if raiseHolds s a.asid then .wait else
    match accHome s a with
    | none => .wait
    | some (h, key, leaf) =>
      match eitherLeaf s a.va (some leaf) (walkHome s (gdOf a.g) a.asid a.va) with
      | .miss k => .miss k (gdOf a.g) 0
      | .ok now =>
      if now ≠ leaf then .move now else
      if noWay s a.asid (gdOf a.g) h then .go h key 0 else
      match (deadStripes s a leaf).findSome? fun f => match f.2 with
        | .miss k h key => some (k, h, key)
        | .at _ => none with
      | some (k, h, key) => .miss k h key
      | none => match rightsOf s a h key with
        | none => .wait
        | some e => match eitherLeaf s key (some e.1) (walkFrame s h a.asid (leafIl leaf) key) with
          | .ok e => .go h key e
          | .miss k => .miss k h key
  | _ => .idle

/-- Rights and the conditions that need a lookup (R35, R239, R249, R364, R444). -/
def accTrap (s : State) (a : Acc) (l : Loc) : Option Trap :=
  if l.leaf = 0 then none else
  let deadOk (l : Loc) : Bool := fWr l.leaf && !fHs l.leaf && !l.host && !l.obs && pkgOf l.gd == pkgOf (gdOf a.g)
  let stripes := (accHome s a).elim [] fun h => deadStripes s a h.2.2
  let ok := if a.op = .mdead then deadOk l && stripes.all fun f => match f.2 with
      | .at l => deadOk l
      | .miss _ _ _ => true
    else (if a.op.isLoad then fR l.leaf else fWr l.leaf) && (!l.obs || ((a.op.isLoad || a.op.isStore) && a.width == 8))
  protTrap (!ok) a.va
def accCode (op : AccOp) : Nat := if op.isLoad then 0 else if op.isAtomic then 2 else 1
/-- What the home logs of a lane access. -/
def accAsk (a : Acc) (held : Bool := false) : Ask :=
  { askOf a.loc (gdOf a.g) (coreOfCk a.ck) 0 (if a.op = .mdead then 10 else accCode a.op) a.asid a.va (if a.op = .mdead then 0 else a.width) a.site with
    held := held }

/-- An access that L1 may serve: a load or store at CORE scope of a line that may lie there (R187). -/
def isNear (s : State) (a : Acc) : Bool :=
  a.scope == 0 && decide (0 < l1Room s a.ck a.va) && a.leaf != 0 && cacheable (gdOf a.g) a.loc && (a.op.isLoad || a.op.isStore)
/-- L1 serves a load that hits, or takes a store, for which it may have to make room. -/
def nearServe (s : State) (a : Acc) : Option (State × Acc) :=
  if (l1Set s a.ck a.va).any fun b => b.bad && b.meets a.asid a.va a.width then none
  else if a.op.isLoad then
    (if l1Has s a.ck a.asid a.va a.width then
      some (l1Learned (l1Touch s a.ck a.asid a.va a.width) a.ck a.site true,
        { a with stage := .done, near := true, value := leValue (l1Bytes s a.ck a.asid a.va a.width) }) else none)
  else (l1Place s a.ck a.asid a.va a.width a.leaf a.site).map fun r =>
    (l1Store r.1 a.ck a.asid a.task a.va a.enable (leBytes a.data a.width), { a with stage := .done, near := true })
/-- An access that the core's own L1 serves as it is answered: a CORE load that hits, a CORE store (R187). -/
def l1Serves (s : State) (id : Nat) (a : Acc) : Option (State × Acc) :=
  if !isNear s a || accBlocked s id a then none else nearServe s a

/-- Whether the group of an access stands still because its die is gated (R453). -/
def accGated (s : State) (g : Nat) : Bool := gatedDie s (gdOf g) && !isDcc g
/-- The accesses of one issue that are not yet served. -/
def holdAccs (s : State) (g h : Nat) : List (Nat × Acc) :=
  s.accs.filter fun e => e.2.g == g && e.2.hold == h &&
    (match e.2.stage with
     | .issued => true
     | .missed _ => true
     | _ => e.2.idle)
/-- What the answers of one issue give each lane; whether some lane hit or missed L1, or missed the rights cache. -/
structure Answer where
  s : State
  served : List Nat := []
  trapped : List (Nat × Trap) := []
  missed : List (Nat × Nat × Nat × Nat × Nat) := []   -- lane, kind, home, key, access code
  hit : Bool := false
  cold : Bool := false
  unright : Bool := false
def answerOne (w : Answer) (e : Nat × Acc) : Answer :=
  let a := e.2
  let gone : State := { w.s with accs := Tab.del w.s.accs e.1 }
  match accAns w.s a with
  | .wait => w
  | .move _ => w
  | .idle => { w with s := gone, served := w.served ++ [a.lane] }
  | .miss k home key =>
    let s := if k = 1 then gone else logTrace gone home (sliceOf a.va) (accAsk { a with home := home }) 3
    { w with s := s, missed := w.missed ++ [(a.lane, k, home, key, accCode a.op)] }
  | .go home key leaf =>
    let fresh := leaf != 0 && ((rightsOf w.s a home key).map Prod.snd) == some true
    let a := { a with home := home, key := key, leaf := leaf, stage := .going, sent := leaf != 0, sentAt := w.s.cycle, route := routeDies w.s (gdOf a.g) home }
    match accTrap w.s a a.loc with
    | some t => { w with s := logTrace gone home (sliceOf a.va) (accAsk a) 5, trapped := w.trapped ++ [(a.lane, t)], unright := w.unright || fresh }
    | none =>
      let s := if fresh then setRight { w.s with ctc := touchCached w.s.ctc (ctcKey home a.asid key) w.s.tick } a.ck a.asid home key leaf else w.s
      let s := { s with hlb := touchCached s.hlb (hlbKey (gdOf a.g) a.asid a.va) s.tick }
      let s := if pkgOf home = pkgOf (gdOf a.g) then s else s.event a.ck (slotOf a.g) 50 1
      let s := if a.draws.isEmpty then s else s.modLane a.g a.lane fun y => { y with drawctr := y.drawctr + w32 a.draws.length }
      let s := s.event a.ck (slotOf a.g) 51 a.draws.length
      let has := if a.op.isLoad then l1Has s a.ck a.asid a.va a.width else (l1Set s a.ck a.va).any fun b => b.covers a.asid a.va a.width
      let w := { w with served := w.served ++ [a.lane], hit := w.hit || (isNear s a && has), cold := w.cold || (isNear s a && !has), unright := w.unright || fresh }
      match l1Serves s e.1 a with
      | some (s, a) => { w with s := { s with accs := Tab.put s.accs e.1 a } }
      | none => { w with s := { s with accs := Tab.put s.accs e.1 a } }
/-- The accesses of an issue whose home is found under another leaf (R366). -/
def movedAccs (s : State) (es : List (Nat × Acc)) : List (Nat × Acc) :=
  es.filterMap fun e => match accAns s e.2 with
    | .move leaf => some (e.1, { e.2 with via := some leaf })
    | _ => none
/-- The page that some answered access names and the die does not have. -/
def absentOf (s : State) (es : List (Nat × Acc)) : Option (Nat × Nat) :=
  es.findSome? fun e => match accAns s e.2 with
    | .go home key leaf => let l := mkLoc home leaf key; if leaf != 0 && l.absent then some (l.gd, l.page) else none
    | _ => none
/-- TRANSLATION_ANSWER (R288): the lanes whose accesses are translated go on, those that lack a right are trapped,
those that miss park. L1 and rights events count once for the instruction (R443). -/
def execTranslationAnswer (g h : Nat) (s : State) : Out :=
  let es := holdAccs s g h
  if es.isEmpty || accGated s g || es.any (fun e => accAns s e.2 == .wait) then .next s else
  if !(movedAccs s es).isEmpty then .next { s with accs := (movedAccs s es).foldl (fun t e => Tab.put t e.1 e.2) s.accs } else
  match absentOf s es with
  | some (gd, page) => .fault (.absentPage gd page)
  | none =>
    let l0 := ((es.head?).map fun e => e.2.lane).getD 0
    let asid := ((es.head?).map fun e => e.2.asid).getD 0
    let pc := (s.lane g l0).pc
    let mac := (s.lane g l0).mac
    let w := es.foldl answerOne { s := s }
    let ok := maskOf fun l => w.served.contains l
    let note (s : State) (p : Bool) (ev : Nat) : State := s.event (ckOf g) (slotOf g) ev (b2n p)
    let s := note (note (note w.s w.hit 38) w.cold 39) w.unright 45
    let s := (dropKept (advance s g 1 ok) g ok).onLanes g (lanesIn ok) fun _ y => { y with stand := .run }
    let s := w.missed.foldl (fun s m =>
      let va := ((List.find? (fun e : Nat × Acc => e.2.lane == m.1) es).map fun e => e.2.va).getD 0
      parkMiss s g (1#64 <<< m.1) pc mac m.2.2.1 m.2.1 m.2.2.2.2 asid va m.2.2.2.1 [(m.1, va)]) s
    .next (deliver s g w.trapped 0 pc mac)

/-! ### Performance at the home (R187, R190 to R193, R203, R204, R215 to R217, R243, R244) -/

/-- Lines of L2 and of stashes, and the issuing core's L1 bytes, of a page of an address space go with no write-back
(R203). -/
def dropPage (s : State) (a : Acc) : State :=
  let page := a.va / 65536
  let mine (e : Nat × StashLine) : Bool := e.2.addr / 65536 == page && (s.ctxOf e.2.ctx).asid == a.asid
  let near (k : Nat) : Bool := l1Core k == a.ck && l1Asid k == a.asid && l1Va k / 65536 == page
  let lines := ((s.l2.flatMap fun e => (e.2.filter fun x => x.replica && x.asid == a.asid && x.line / 1024 == page).map L2Line.line).eraseDups)
  let s := lines.foldl (fun s n => dropReplicas s a.loc a.asid (64 * n)) s
  l1Drop { l2Drop s (fun _ x => x.asid == a.asid && x.line / 1024 == page) with stash := (s.stash.filter fun e => !mine e) } fun k _ => near k
/-- Zero n bytes of DRAM at a key, with the errors and keys of their lines. -/
def zeroLines (s : State) (lo n : Nat) : State :=
  { s with mem := Tab.cut s.mem lo (lo + n), bad := Tab.cut s.bad (lo / 64) (lo / 64 + n / 64), stamps := Tab.cut s.stamps (lo / 64) (lo / 64 + n / 64) }
/-- MDEAD of a page: its lines read as zero from now on, and no copy of them is written back (R203, R204). A page of an
interleaved region lies in stripes of several pages, which are zeroed (log 42). -/
def killPage (s : State) (a : Acc) (l : Loc) : State :=
  let s := dropPage s a
  match (match walkHome s (gdOf a.g) a.asid a.va with
    | .ok leaf => deadStripes s a leaf
    | .miss _ => []) with
  | [] => { zeroLines s (memKey l.gd (l.page * 65536)) 65536 with dead := Tab.put s.dead (pageKey l.gd l.page) true }
  | fs => fs.foldl (fun s f => match f.2 with
      | .at x => zeroLines s x.mkey 4096
      | .miss _ _ _ => s) s
/-- The bytes of a line part that a reader at the home obtains: at CORE scope a block of L1 is filled with them, at a wider
scope the line's own L1 blocks go (R187). All of them are read at once (R240). -/
def homeLoad (s : State) (a : Acc) (l : Loc) : Option (State × Nat) :=
  let la := a.va - a.va % 64
  if isNear s a then
    let s := recallLine s a.asid la false
    match l1Place s a.ck a.asid a.va a.width a.leaf a.site with
    | some (t, b) =>
      (homeRead t (mkLoc a.home a.leaf (a.key - a.key % 64 + 8 * b.first)) (8 * b.words)).map fun bs =>
        let t := l1Learned (l1Fill t a.ck b bs) a.ck a.site false
        (t, leValue (l1Bytes t a.ck a.asid a.va a.width))
    | none =>
      (homeRead s l a.width).map fun bs =>
        (s, leValue ((List.range a.width).map fun i => match l1Byte s a.ck a.asid (a.va + i) with
          | some b => if b.dirty then b.val.toNat else bs.getD i 0
          | none => bs.getD i 0))
  else
    let s := recallLine (flushLine s a.ck a.asid a.va) a.asid la false
    (homeRead s l a.width).map fun bs => (s, leValue bs)
/-- Whether the block of L1, or the replica, that would serve a load is uncorrectable (R434). -/
def copyBad (s : State) (a : Acc) : Bool :=
  (isNear s a && (l1Set s a.ck a.va).any fun b => b.bad && b.meets a.asid a.va a.width) ||
    (match replAt s (gdOf a.g) (coreOfCk a.ck) a.loc a.asid a.va with
     | some z => ((l2Find s z.1 z.2 a.asid a.va true).map fun x => x.bad) == some true
     | none => false)
/-- Perform an access at its home: the new state, the value it returns, its flags; none where the datum is lost. -/
def performAcc (s : State) (a : Acc) (held : Bool := false) : Option (State × Nat × Nat) :=
  let l := a.loc
  let la := a.va - a.va % 64
  let kslot := kslotOf s a.ctx
  let q := accAsk a held
  match a.op with
  | .load => if copyBad s a then none else (homeLoad s a l).map fun r => (loadAsk r.1 l q (coreOfCk a.ck), r.2, 0)
  | .store =>
    let s := recallLine (flushLine s a.ck a.asid a.va) a.asid la true
    (homePut s kslot l q a.enable (leBytes a.data a.width)).map fun s => (s, 0, 0)
  | .mdead => some (logTrace (killPage s a l) l.gd (sliceOf a.va) q 1, 0, 0)
  | op =>
    let s := recallLine (flushLine s a.ck a.asid a.va) a.asid la true
    match homeRead s l a.width with
    | none => none
    | some bs =>
      let x := leValue bs
      let r := atomVal op a.elem a.mode.toNat a.draws a.width x a.data a.cmp
      (homePut s kslot l q (2 ^ a.width - 1) (leBytes r.code a.width)).map fun s => (s.event a.ck (slotOf a.g) 49 1, x, r.flags)

/-- Whether a request is held until every request that its pair sent by an older route has been answered (R269, R275). -/
def routeHolds (s : State) (id : Nat) (a : Acc) : Bool :=
  s.accs.any fun e => e.2.sent && gdOf e.2.g == gdOf a.g && e.2.home == a.home && e.2.route != a.route &&
    (decide (e.2.sentAt < a.sentAt) || (e.2.sentAt == a.sentAt && decide (e.1 < id)))
/-- Whether an access may go on at all: its place in the order of R216 to R218 and R234, and a home that answers. -/
def mayGo (s : State) (id : Nat) (a : Acc) : Bool :=
  let l := a.loc
  a.stage == .going && !a.idle && a.leaf != 0 && !accBlocked s id a && !noWay s a.asid (gdOf a.g) a.home && slotsOn s a.asid (gdOf a.g) a.home && !routeHolds s id a &&
    !(l.host && (s.pkg (pkgOf l.gd)).cxlDown) && !gatedDie s a.home && !accGated s a.g
/-- Whether a request may be performed now: no swap of its page holds it, no dead page must be filled first, and a stash
that owns the line can give it up. -/
def canPerform (s : State) (id : Nat) (a : Acc) : Bool :=
  let l := a.loc
  mayGo s id a && !chanHeld s l a.asid a.va && !queueHolds s id && recallable s a.asid (a.va - a.va % 64) &&
    !(isDead s l.gd l.page && a.op.writes && a.op != .mdead && !l.host && !(isNear s a && a.op.isStore))
/-- Whether a request reaches a channel that holds its page (R200). -/
def arrives (s : State) (id : Nat) (a : Acc) : Bool :=
  mayGo s id a && chanHeld s a.loc a.asid a.va && !(isNear s a && a.op.isStore) && !(s.tier a.loc.gd (a.loc.page / 5)).queue.contains id
/-- The stores of one ST.X4 that cover a whole uncorrectable line between them, which replace it at once (R435). -/
def wholeRun (s : State) (a : Acc) : List (Nat × Acc) :=
  let l := a.loc
  if !a.op.isStore || a.width != 16 || l.host || l.obs || !lineLost s l.gd l.mkey then [] else
  let es := s.accs.filter fun e => e.2.g == a.g && e.2.hold == a.hold && e.2.op.isStore && e.2.width == 16 && e.2.va / 64 == a.va / 64 &&
    e.2.home == a.home && canPerform s e.1 e.2
  if (List.range 4).all fun i => es.any fun e => e.2.va % 64 == 16 * i then es else []
/-- Perform such a run: of two stores to one place the higher lane's stays. -/
def performRun (s : State) (a : Acc) (es : List (Nat × Acc)) : Option State :=
  let la := a.va - a.va % 64
  let bytes := (List.range 4).flatMap fun i =>
    leBytes ((es.foldl (fun (b : Option Acc) e => if e.2.va % 64 = 16 * i ∧ (b.all fun x => decide (x.lane < e.2.lane)) then some e.2 else b) none).elim 0 fun x => x.data) 16
  let s := recallLine (flushLine s a.ck a.asid a.va) a.asid la true
  (homePut s (kslotOf s a.ctx) (mkLoc a.home a.leaf (a.key - a.key % 64)) { accAsk a with va := la, bytes := 64 } (2 ^ 64 - 1) bytes).map fun s =>
    es.foldl (fun s e => leaveQueues { s with accs := Tab.put s.accs e.1 { e.2 with stage := .done } } e.1) s
def wasHeld (s : State) (id : Nat) : Bool := s.tiers.any fun t => t.2.queue.contains id
/-- REMOTE_REQUEST (R234): a request is performed at its home, in L1 where that serves it, or is held at its channel. -/
def execRemoteRequest (acc : Nat) (s : State) : Out :=
  match Tab.find? s.accs acc with
  | none => .next s
  | some a =>
    if arrives s acc a then .next (arriveHeld s a.loc.gd a.loc.page acc) else
    if !canPerform s acc a then .next s else
    let near := if isNear s a then nearServe s a else none
    .next (match near with
      | some (t, b) => leaveQueues { t with accs := Tab.put t.accs acc b } acc
      | none =>
        if isNear s a && a.op.isStore && !copyBad s a then s else
        match (if (wholeRun s a).isEmpty then none else performRun s a (wholeRun s a)) with
        | some t => t
        | none =>
        match (if isNear s a && a.op.isStore then none else performAcc s a (wasHeld s acc)) with
        | some (t, v, fl) => leaveQueues { t with accs := Tab.put t.accs acc { a with stage := .done, value := v, flags := fl } } acc
        | none => leaveQueues (homeAsk { s with accs := Tab.put s.accs acc { a with stage := .failed cDATA_LOST } } a.loc (accAsk a) false false true) acc)
/-- DEAD_PAGE_ZERO_FILL (R204): a write waits at a dead page; the page is filled with zeros and lives again. -/
def writeWaits (s : State) (gd page : Nat) : Bool :=
  s.accs.any fun e => e.2.stage == .going && e.2.leaf != 0 && e.2.op.writes && e.2.op != .mdead && e.2.loc.gd == gd && e.2.loc.page == page && !e.2.loc.host
def execDeadPageZeroFill (gd page : Nat) (s : State) : Out :=
  if isDead s gd page && writeWaits s gd page then .next { s with dead := Tab.set s.dead false (pageKey gd page) false }
  else .next s

/-! ### Returns (R62, R90, R215, R242, R244, R481) -/

/-- The accesses of one issue whose values go into a channel row, once the last of them has returned. -/
def rowReady (s : State) (a : Acc) : Bool :=
  s.accs.all fun e => e.2.g != a.g || e.2.hold != a.hold || (match e.2.stage with
    | .done => true
    | .failed _ => true
    | _ => false)
def dstChan (a : Acc) : Option Nat := (a.dst.find? isCh).map fun c => c - 0xE0
/-- The row that an issue pushes: element L is lane L's value, 0 where a lane has none (R46). -/
def accRow (s : State) (a : Acc) : List Word :=
  laneNums.map fun l =>
    match List.find? (fun e : Nat × Acc => e.2.g == a.g && e.2.hold == a.hold && e.2.lane == l && e.2.stage == .done) s.accs with
    | some e => w32 e.2.value
    | none => 0
/-- The flags of an addition (R90, R244). -/
def noteFlags (s : State) (a : Acc) : State :=
  if a.flags = 0 then s else
    (s.modLane a.g a.lane fun y => { y with astat := y.astat ||| w32 (a.flags % 256) }).event a.ck (slotOf a.g) 52 1
/-- Of the lanes of one instruction that write an s register, the highest keeps it (R14): lower ones write it no more. -/
def muteLower (s : State) (a : Acc) : State :=
  if a.dst.any isS then
    { s with accs := s.accs.map fun e =>
        if e.2.g == a.g && e.2.hold == a.hold && decide (e.2.lane < a.lane) then (e.1, { e.2 with mute := true }) else e }
  else s
/-- Write a returned value, and the flags of an addition. -/
def writeBackReg (s : State) (a : Acc) : State :=
  let s := if a.mute then s else (List.range a.dst.length).foldl (fun s i => wr s a.g a.lane (a.dst.getD i 0) (a.value / 2 ^ (32 * i) % 2 ^ 32)) s
  noteFlags (muteLower s a) a
def dropAcc (s : State) (id : Nat) : State := leaveQueues { s with accs := Tab.del s.accs id } id
/-- Whether an answer on its way comes from a peer that its requester has declared lost (R277). -/
def answerLate (s : State) (a : Acc) : Bool :=
  a.stage == .done && !a.near && a.leaf != 0 && a.home != gdOf a.g && homeLost s (gdOf a.g) a.home
/-- Whether a guard stands in the way of an answer (R271). -/
def answerDropped (s : State) (a : Acc) : Bool :=
  a.stage == .done && !a.near && a.leaf != 0 && !answerLate s a && !guardOpen s a.asid a.home (gdOf a.g)
/-- Whether a performed access can be answered now. -/
def answerable (s : State) (a : Acc) : Bool := a.stage == .done && !accGated s a.g && !answerLate s a && !answerDropped s a &&
  (a.near || a.leaf == 0 || slotsOn s a.asid a.home (gdOf a.g))
/-- An acquire at QUAD scope or wider drops the core's clean bytes when it returns (R187, R215). -/
def acquireAcc (s : State) (a : Acc) : State := if a.acq && wideScope a.scope then dropClean s a.ck else s
/-- LOAD_RETURN (R240): a load's or atomic's value is written. A destination that is a channel receives one row when
the last lane's value is there (R46). The answer of a peer already declared lost is discarded (R277). -/
def execLoadReturn (acc : Nat) (s : State) : Out :=
  match Tab.find? s.accs acc with
  | none => .next s
  | some a =>
    if !answerable s a || !a.ret then .next s else
    match dstChan a with
    | none => .next (acquireAcc (dropAcc (writeBackReg s a) acc) a)
    | some c =>
      if !rowReady s a then .next s else
      let row := accRow s a
      let mine (e : Nat × Acc) : Bool := e.2.g == a.g && e.2.hold == a.hold && e.2.stage == .done
      let es := s.accs.filter mine
      let s := { s with accs := s.accs.filter fun e => !mine e }
      .next (es.foldl (fun s e => acquireAcc (noteFlags s e.2) e.2) (pushChan s a.g c row))
/-- WRITE_ACKNOWLEDGEMENT (R215): the home has performed a store, RED.ADD or MDEAD. -/
def execWriteAcknowledgement (acc : Nat) (s : State) : Out :=
  match Tab.find? s.accs acc with
  | none => .next s
  | some a => if !answerable s a || a.ret then .next s else .next (dropAcc s acc)

/-- The failure of an access reaches its lane: DATA_LOST aborts the task, any other cause is kept for delivery (R242,
R434, R481). -/
def failAcc (s : State) (id : Nat) (a : Acc) (cause : Nat) : State :=
  let s := dropAcc s id
  if !Tab.has s.groups a.g then s
  else if cause = cDATA_LOST then s.abort a.task a.va a.site
  else s.modLane a.g a.lane fun y => { y with failed := y.failed ++
    [{ acc := id, cause := cause, va := a.va, regs := if a.ret then a.dst else [], read := a.op.isLoad || (a.op.isAtomic && a.ret) }] }
/-- Whether the home of an access is host memory behind a link that is down: every request there completes with
PEER_LOST (R280). -/
def hostLost (s : State) (a : Acc) : Bool := a.leaf != 0 && a.loc.host && (s.pkg (pkgOf a.loc.gd)).cxlDown
/-- ACCESS_FAILURE_RETURN (R481): an answer carries a failure. `performed` says whether an atomic whose outcome is not
known was performed (R245), in its place among the accesses to the location (R217). -/
def execAccessFailureReturn (acc cause : Nat) (performed : Bool) (s : State) : Out :=
  match Tab.find? s.accs acc with
  | none => .next s
  | some a =>
    let unknown := cause = cINDETERMINATE ∧ a.op.isAtomic ∧ a.sent ∧ !hostLost s a
    if accGated s a.g then .next s else
    match a.stage with
    | .failed c => .next (failAcc s acc a c)
    | .done =>
      if answerLate s a ∧ (unknown ∨ (cause = cPEER_LOST ∧ !a.op.isAtomic)) then .next (failAcc s acc a cause) else .next s
    | .going =>
      if unknown ∧ performed ∧ a.leaf ≠ 0 then
        (if accBlocked s acc a then .next s else
        .next (match performAcc s a with
          | some (t, _, _) => failAcc t acc a cause
          | none => failAcc s acc a cause))
      else if unknown ∨ cause = cPEER_LOST ∨ cause = cPROTECTION then .next (failAcc s acc a cause)
      else .next s
    | _ => .next s
/-- GUARD_DROP (R272): a flit meets a guard that it fails; `port` is that guard's port. An answer that is dropped never comes:
its request stays unanswered (R276). -/
def execGuardDrop (acc port : Nat) (s : State) : Out :=
  match Tab.find? s.accs acc with
  | none => .next s
  | some a =>
    if answerDropped s a ∧ ((firstDrop s a.home (gdOf a.g)).map fun d => d.2.1) = some port then
      .next { guardReport s a.home (gdOf a.g) .rsp a.ctx a.va a.site with accs := Tab.put s.accs acc { a with stage := .going, leaf := 0 } }
    else if a.stage != .going || stewardAsid s a.asid || ((firstDrop s (gdOf a.g) a.home).map fun d => d.2.1) != some port then .next s else
    let s := guardReport s (gdOf a.g) a.home .req a.ctx a.va a.site
    .next { s with accs := Tab.put s.accs acc { a with stage := .failed cPROTECTION } }
/-- The failure that an access takes whose peer is lost (R245, R276, R280). -/
def lossCause (s : State) (a : Acc) : Nat := if a.op.isAtomic && a.sent && !hostLost s a then cINDETERMINATE else cPEER_LOST
/-- LATE_ANSWER (R277): the answer of a peer already declared lost is discarded, and the outcome of R276 stands. -/
def execLateAnswer (acc : Nat) (s : State) : Out :=
  match Tab.find? s.accs acc with
  | none => .next s
  | some a => if answerLate s a && !accGated s a.g then .next (failAcc s acc a (lossCause s a)) else .next s

/-! ### Recalls (R196) -/

/-- STASH_RECALL (R196): a line of a team's stash is written back for a reader or a writer elsewhere, or as its team has
ended (R198); one that can not be written back yet stays Owned. -/
def execStashRecall (team line : Nat) (write : Bool) (s : State) : Out :=
  let k := stashKey team line
  match Tab.find? s.stash k with
  | none => .next s
  | some x =>
    let s := if x.owned then s.event x.ck 0 43 1 else s
    .next (if write then stashOut s k x else stashBack s k x)

end Sys2Proof.Machine
end

