-- ==== Sys2Proof/Machine/Commands.lean ====
section
/-! DEFINITION. Opcodes 0xBF to 0xCE: movers, PUT and GET, remote atomics, bank commands and collectives as they
issue (10: R251 to R265; 08: R206, R207). -/
namespace Sys2Proof.Machine

def lamPair (s : State) (m : Mask) (c : Code) : Nat := rdP s (lam m) c
def lamReg (s : State) (m : Mask) (c : Code) : Nat := rdA s (lam m) c
def pastEnd (va n : Nat) : Bool := decide (2 ^ 56 < va + n)

/-! ### Movers (R254 to R256) -/

/-- The limits of n and the alignment of R254. -/
def copyTraps (d a n : Nat) : List (Option Trap) :=
  [alignTrap (n % 4 != 0) 0, alignTrap (d % 4 != 0) d, alignTrap (a % 4 != 0) a,
   protTrap (decide (n < 4) || decide (2 ^ 30 < n)) 0, protTrap (pastEnd d n) d, protTrap (pastEnd a n) a]
def copyAlias (s : State) (d a n : Nat) : Option Trap :=
  if overlap d n a n then some ⟨12, cOPERAND_ALIAS, curWord s⟩ else none
/-- Issue a copy: `dHome` and `aHome` say which ranges must be homed in the issuing package. -/
def copyCmd (i : Instr) (op : CmdOp) (d a b : Code) (dHome aHome : Bool) (sync : BitVec 32) (s : State) : Out :=
  let cause (s : State) (m : Mask) : Option Trap :=
    let x := lamPair s m d
    let y := lamPair s m a
    let n := lamReg s m b
    firstTrap (copyTraps x y n ++
      [protTrap (dHome && !issueHomed s x n) x, protTrap (aHome && !issueHomed s y n) y,
       if issueHomed s x n && issueHomed s y n then copyAlias s x y n else none])
  groupCmd { instr := i, words := 2, all := cause } op sync s fun s m c =>
    { c with d := lamPair s m d, a := lamPair s m a, b := lamReg s m b }

/-- MOV.CPY (R254). -/
def execMovCpy (d a b : Code) (sync : BitVec 32) (s : State) : Out :=
  copyCmd (.movCpy d a b sync) .movCpy d a b true true sync s

/-- One element per issuing lane (R255): `base` is λ's range, `per` each lane's address. -/
def elementCmd (i : Instr) (op : CmdOp) (base per b : Code) (sync : BitVec 32) (s : State) : Out :=
  let cause (s : State) (m : Mask) : Option Trap :=
    let x := lamPair s m base
    let e := lamReg s m b
    let vas := (lanesIn m).map fun l => rdP s l per
    firstTrap ([alignTrap (e % 4 != 0) 0, alignTrap (x % 4 != 0) x] ++ vas.map (fun v => alignTrap (v % 4 != 0) v) ++
      [protTrap (decide (e < 4) || decide (256 < e)) 0, protTrap ((lanesIn m).any fun l => pastEnd (x + l * e) e) x] ++ vas.map (fun v => protTrap (pastEnd v e) v) ++
      [protTrap ((lanesIn m).any fun l => !issueHomed s (x + l * e) e) x] ++ vas.map fun v => protTrap (!issueHomed s v e) v)
  groupCmd { instr := i, words := 2, all := cause } op sync s fun s m c =>
    { c with d := lamPair s m base, b := lamReg s m b, lanes := (lanesIn m).map fun l => { lane := l, x := rdP s l per } }
/-- MOV.GTH (R255). -/
def execMovGth (d a b : Code) (sync : BitVec 32) (s : State) : Out :=
  elementCmd (.movGth d a b sync) .movGth d a b sync s
/-- MOV.SCT (R255). -/
def execMovSct (d a b : Code) (sync : BitVec 32) (s : State) : Out :=
  elementCmd (.movSct d a b sync) .movSct a d b sync s

/-- PUT (R256): the source is local. -/
def execPutCmd (d a b : Code) (sync : BitVec 32) (s : State) : Out :=
  copyCmd (.putCmd d a b sync) .put d a b false true sync s
/-- GET (R256): the destination is local. -/
def execGetCmd (d a b : Code) (sync : BitVec 32) (s : State) : Out :=
  copyCmd (.getCmd d a b sync) .get d a b true false sync s

/-- RATOM (R257): the operation is k[2:0] of λ; the pair D waits for the result. -/
def execRatom (d a b : Code) (sync : BitVec 32) (s : State) : Out :=
  let cause (s : State) (m : Mask) : Option Trap :=
    let vas := (lanesIn m).map fun l => rdP s l a
    firstTrap (vas.map (fun v => alignTrap (v % 4 != 0) v) ++ vas.map fun v => protTrap (outside v) v)
  groupCmd { instr := .ratom d a b sync, words := 2, all := cause, reserved := fun s m => decide (8 ≤ laneK s (lam m)) } .ratom sync s
    fun s m c => { c with d := d.toNat, dst := [(d.toNat, 2)],
                          lanes := (lanesIn m).map fun l => { lane := l, x := rdP s l a, y := rdP s l b % 2 ^ 32, z := rdP s l b / 2 ^ 32 } }

/-! ### Bank commands (R206, R207, R258 to R260) -/

/-- The location of an operand range of a bank command, if it meets R207: pinned, not interleaved, not host-shared,
homed in the package, within one page. -/
def bankRange (s : State) (va n : Nat) : Option Loc :=
  let gd := gdOf s.cur.g
  match walkHome s gd (issueAsid s) va with
  | .miss _ => none
  | .ok leaf =>
    match locate s gd (issueAsid s) va with
    | .miss _ _ _ => none
    | .at l =>
      if leafIl leaf == 0 && fPin l.leaf && !fHs l.leaf && !l.host && !l.obs && pkgOf l.gd == pkgOf gd && decide (l.off + n ≤ 65536)
      then some l else none
/-- The colour of the fast frame of a pinned page (R199, R206). -/
def pageColour (page : Nat) : Nat := colourOf (page / 5)
def bankTrap (s : State) (vas : List Nat) (n : Nat) : Option Trap :=
  let ls := vas.map fun v => bankRange s v n
  let bad := n % 256 != 0 || decide (n < 256) || decide (65536 < n) || ls.any Option.isNone ||
    ls.any fun l => match l, ls.getD 0 none with
      | some x, some y => x.gd != y.gd || x.off != y.off || pageColour x.page != pageColour y.page
      | _, _ => true
  if bad then some ⟨11, cBANK_TIER, vas.getD 0 0⟩ else none
/-- A destination that only partly overlaps a source (R259). -/
def partAlias (s : State) (d : Nat) (srcs : List Nat) (n : Nat) : Option Trap :=
  if srcs.any fun a => a != d && overlap d n a n then some ⟨12, cOPERAND_ALIAS, curWord s⟩ else none
def bankCmd (i : Instr) (op : CmdOp) (tys : List Nat) (d : Code) (srcs : List Code) (sync : BitVec 32) (s : State)
    (reserved : State → Mask → Bool) (fill : State → Mask → Cmd → Cmd) : Out :=
  let cause (s : State) (m : Mask) : Option Trap :=
    let n := laneK s (lam m)
    let x := lamPair s m d
    let ys := srcs.map (lamPair s m)
    firstTrap ((x :: ys).map (fun v => protTrap (outside v) v) ++ [bankTrap s (x :: ys) n, partAlias s x ys n])
  groupCmd { instr := i, words := 2, types := if op = .bopFill then none else some tys, noSto := true, all := cause, reserved := reserved } op sync s
    fun s m c =>
      let x := (bankRange s (lamPair s m d) (laneK s (lam m))).elim (0, 0) fun l => (l.gd, pageColour l.page)
      fill s m { c with d := lamPair s m d, bank := x }
def bopTypes : List Nat := [0, 1, 2, 3, 4, 5, 8, 9, 10]

/-- BOP.ADD (R259). -/
def execBopAdd (d a b : Code) (sync : BitVec 32) (s : State) : Out :=
  bankCmd (.bopAdd d a b sync) .bopAdd bopTypes d [a, b] sync s (fun _ _ => false) fun s m c =>
    { c with a := lamPair s m a, b := lamPair s m b }
/-- BOP.AXPY (R259): α is the FP32 value of rd(λ, B). -/
def execBopAxpy (d a b : Code) (sync : BitVec 32) (s : State) : Out :=
  bankCmd (.bopAxpy d a b sync) .bopAxpy [8, 9, 10] d [a] sync s (fun _ _ => false) fun s m c =>
    { c with a := lamPair s m a, b := lamReg s m b }
/-- BOP.MAX (R259). -/
def execBopMax (d a b : Code) (sync : BitVec 32) (s : State) : Out :=
  bankCmd (.bopMax d a b sync) .bopMax bopTypes d [a, b] sync s (fun _ _ => false) fun s m c =>
    { c with a := lamPair s m a, b := lamPair s m b }
/-- The control word of BOP.CVT (R260), against the captured TYPE. -/
def cvtControlBad (w ty : Nat) : Bool :=
  let src := bitsOf w 15 12
  bitsOf w 31 16 != 0 || bitsOf w 11 8 != 0 || bitsOf w 7 0 == 255 ||
    !(decide (src ≤ 5) || (decide (8 ≤ src) && decide (src ≤ 12))) || (elemsOf src).2 != (elemsOf ty).2
/-- BOP.CVT (R260). -/
def execBopCvt (d a b : Code) (sync : BitVec 32) (s : State) : Out :=
  bankCmd (.bopCvt d a b sync) .bopCvt [0, 1, 2, 3, 4, 5, 8, 9, 10, 11, 12] d [a] sync s
    (fun s m => cvtControlBad (lamReg s m b) (laneType s (lam m))) fun s m c =>
    { c with a := lamPair s m a, b := lamReg s m b }
/-- BOP.FILL (R259): TYPE is ignored. -/
def execBopFill (d b : Code) (sync : BitVec 32) (s : State) : Out :=
  bankCmd (.bopFill d b sync) .bopFill [] d [] sync s (fun _ _ => false) fun s m c => { c with b := lamReg s m b }

/-! ### Collectives (R261 to R265) -/

def collRank (s : State) (gd ctx comm task : Nat) : Option Nat :=
  match commRanks s gd ctx comm with
  | none => none
  | some rs => (List.range rs.length).find? fun q => (rs.getD q (0, 0)).2 == taskIdOf task
/-- Bytes of the send and receive buffers for P ranks (R263). -/
def sendLen (op : CmdOp) (n p : Nat) : Nat := match op with
  | .collRs => p * n | .collA2a => p * n | _ => n
def recvLen (op : CmdOp) (n p : Nat) : Nat := match op with
  | .collAg => p * n | .collA2a => p * n | _ => n
/-- Whether send and receive may name one identical range (R263). -/
def sameAllowed (op : CmdOp) (rank root : Nat) : Bool := match op with
  | .collAr => true | .collBc => rank == root | _ => false

def collCmd (i : Instr) (op : CmdOp) (tys : Option (List Nat)) (d a b : Code) (sync : BitVec 32) (s : State) : Out :=
  let cause (s : State) (m : Mask) : Option Trap :=
    let g := s.cur.g
    let desc := lamReg s m b
    let n := laneK s (lam m)
    let x := lamPair s m d
    let y := lamPair s m a
    let ranks := commRanks s (gdOf g) (s.grp g).ctx (cmdComm desc)
    let p := (ranks.getD []).length
    let root := desc % 4096
    let rank := (collRank s (gdOf g) (s.grp g).ctx (cmdComm desc) (s.grp g).task)
    firstTrap [alignTrap (n % 64 != 0) 0, alignTrap (x % 64 != 0) x, alignTrap (y % 64 != 0) y,
      protTrap (decide (n < 64) || decide (2 ^ 28 < n) || ranks.isNone || rank.isNone || decide (p ≤ root) || bitsOf desc 19 18 == 3) 0,
      protTrap (pastEnd x (recvLen op n p)) x, protTrap (pastEnd y (sendLen op n p)) y,
      if overlap x (recvLen op n p) y (sendLen op n p) && !(x == y && sameAllowed op (rank.getD 0) root)
      then some ⟨12, cOPERAND_ALIAS, curWord s⟩ else none]
  let reserved (s : State) (m : Mask) : Bool :=
    let desc := lamReg s m b
    bitsOf desc 17 12 != 0 || (op != .collBc && desc % 4096 != 0)
  groupCmd { instr := i, words := 2, types := tys, noSto := true, all := cause, reserved := reserved } op sync s fun s m c =>
    { c with d := lamPair s m d, a := lamPair s m a, b := lamReg s m b,
             rank := (collRank s c.gd c.ctx (cmdComm (lamReg s m b)) c.task).getD 0 }
def collTypes : Option (List Nat) := some [0, 1, 8, 9, 10]

/-- COLL.AR (R263). -/
def execCollAr (d a b : Code) (sync : BitVec 32) (s : State) : Out := collCmd (.collAr d a b sync) .collAr collTypes d a b sync s
/-- COLL.AG (R263). -/
def execCollAg (d a b : Code) (sync : BitVec 32) (s : State) : Out := collCmd (.collAg d a b sync) .collAg none d a b sync s
/-- COLL.RS (R263). -/
def execCollRs (d a b : Code) (sync : BitVec 32) (s : State) : Out := collCmd (.collRs d a b sync) .collRs collTypes d a b sync s
/-- COLL.A2A (R263). -/
def execCollA2a (d a b : Code) (sync : BitVec 32) (s : State) : Out := collCmd (.collA2a d a b sync) .collA2a none d a b sync s
/-- COLL.BC (R263). -/
def execCollBc (d a b : Code) (sync : BitVec 32) (s : State) : Out := collCmd (.collBc d a b sync) .collBc none d a b sync s

end Sys2Proof.Machine
end

