-- ==== Sys2Proof/Machine/Tile.lean ====
section
/-! DEFINITION. Operand memory, tile headers, tile images and the matrix chain (06, 07: R134 to R144, R161, R165). -/
namespace Sys2Proof.Machine

/-! ### Operand memory (R135, R136) -/

def opKey (qk col row off : Nat) : Nat := (qk * 512 + col) * 2 ^ 16 + row * 512 + off
def opByte (s : State) (qk col row off : Nat) : Nat := (Tab.get s.opmem (opKey qk col row off) 0#8).toNat
def setOpByte (s : State) (qk col row off v : Nat) : State :=
  { s with opmem := Tab.set s.opmem 0#8 (opKey qk col row off) (BitVec.ofNat 8 v) }
def headWord (s : State) (qk col i : Nat) : Nat := (Tab.get s.heads ((qk * 512 + col) * 4 + i) 0#32).toNat
def setHead (s : State) (qk col : Nat) (ws : List Nat) : State :=
  { s with heads := (List.range 4).foldl (fun t i => Tab.set t 0#32 ((qk * 512 + col) * 4 + i) (w32 (ws.getD i 0))) s.heads }

/-! ### Headers (R137 to R139) -/

structure Hdr where
  rows : Nat
  nm : Nat
  sep : Bool
  blk : Nat
  fmt : Nat
  kext : Nat
  roff : Nat
  rhnd : Nat
  ren : Bool
  coff : Nat
  chnd : Nat
  cen : Bool
  clean : Bool                          -- every reserved bit is 0
  deriving DecidableEq, Repr

def parseHdr (ws : List Nat) : Hdr :=
  let h0 := ws.getD 0 0
  let h1 := ws.getD 1 0
  let h2 := ws.getD 2 0
  let h3 := ws.getD 3 0
  { rows := bitsOf h0 31 24, nm := bitsOf h0 19 18, sep := bitOf h0 17, blk := bitsOf h0 13 12, fmt := bitsOf h0 3 0,
    kext := bitsOf h1 11 0, roff := bitsOf h2 17 9, rhnd := bitsOf h2 8 1, ren := bitOf h2 0,
    coff := bitsOf h3 17 9, chnd := bitsOf h3 8 1, cen := bitOf h3 0,
    clean := bitsOf h0 23 20 == 0 && bitsOf h0 16 14 == 0 && bitsOf h0 11 4 == 0 && bitsOf h1 31 12 == 0 &&
      bitsOf h2 31 18 == 0 && bitsOf h3 31 18 == 0 }

def nmN (nm : Nat) : Nat := if nm = 0 then 1 else if nm = 3 then 4 else 2
def nmM (nm : Nat) : Nat := if nm = 0 then 1 else if nm = 1 then 4 else if nm = 2 then 8 else 16
/-- Block size in stored elements; 1 where there are no blocks. -/
def Hdr.bsz (h : Hdr) : Nat := if h.blk = 1 then 32 else if h.blk = 2 then 64 else 1
def Hdr.stored (h : Hdr) : Nat := h.kext * nmN h.nm / nmM h.nm
def Hdr.isInt (h : Hdr) : Bool := h.fmt == 4 || h.fmt == 5 || h.fmt == 8
/-- Product group size of an A format (R134). -/
def groupOf (fmt : Nat) : Nat := if fmt ≤ 1 then 1 else if fmt = 6 then 4 else 2
/-- The K extent one stationary tile may cover (R134). -/
def kLimit (fmt nm : Nat) (split : Bool) : Nat :=
  (if fmt ≤ 1 then 256 else if fmt = 6 then 1024 else 512) / (if split then 2 else 1) * (if nm = 0 then 1 else 2)

/-- Bytes of one row of each area: value, scale, index (R165). -/
def Hdr.areas (h : Hdr) : List Nat :=
  let st := h.stored
  let v := if h.fmt ≤ 1 then 2 * st else if h.fmt ≤ 5 then st
    else if h.fmt = 6 then (if h.sep then st / 2 else 18 * (st / 32)) else 4 * h.kext
  let c := if !h.sep then 0 else if h.fmt = 2 ∨ h.fmt = 3 then st / h.bsz else if h.fmt = 6 then 2 * (st / h.bsz) else 0
  [v, c, if h.nm = 0 then 0 else st / 2]
def Hdr.imageBytes (h : Hdr) : Nat := 64 + h.rows * h.areas.sum
def areaCols (rows len : Nat) : Nat := (rows + 63) / 64 * ((len + 511) / 512)
def Hdr.columns (h : Hdr) : Nat := (h.areas.map (areaCols h.rows)).sum

/-- The items of R139 that depend on the header alone, whatever the tile's role. -/
def Hdr.ok (h : Hdr) : Bool :=
  h.clean && decide (h.fmt ≤ 8) && h.blk != 3 &&
  (h.fmt != 6 || h.blk == 1) &&
  (!(decide (h.fmt ≤ 1) || h.fmt == 4 || h.fmt == 5) || h.blk == 0) &&
  (!(h.fmt == 2 || h.fmt == 3) || h.sep || h.blk == 0) &&
  (!h.sep || h.blk != 0) &&
  decide (1 ≤ h.kext) && decide (h.kext ≤ 2048) && decide (1 ≤ h.rows) && decide (h.rows ≤ 128) &&
  h.kext % h.bsz == 0 && h.kext % nmM h.nm == 0 && h.stored % h.bsz == 0 &&
  !(h.isInt && (h.ren || h.cen))

/-! ### Handles (R161) -/

def handleOf (s : State) (qk task i : Nat) : Option Handle :=
  s.handles.find? fun h => h.qk == qk && h.task == task && h.index == i && h.freed.isNone
def boundRun (s : State) (g i : Nat) : Option (Nat × Nat) := (handleOf s (qkOf g) (s.grp g).task i).map fun h => (h.first, h.count)
/-- The run of a handle as it was bound when the command issued (R163). -/
def Cmd.run (c : Cmd) (i : Nat) : Nat × Nat :=
  ((c.handles.find? fun h => h.1 == i).map fun h => (h.2.1, h.2.2)).getD (0, 0)
def hdrAt (s : State) (qk col : Nat) : Hdr := parseHdr ((List.range 4).map (headWord s qk col))

/-- Whether a header's areas fit its run, and its scale handles are granted and long enough (R139). -/
def Hdr.fits (h : Hdr) (s : State) (qk task : Nat) (count : Nat) : Bool :=
  decide (h.columns ≤ count) &&
  (!h.ren || (handleOf s qk task h.rhnd).isSome) &&
  (!h.cen || (match handleOf s qk task h.chnd with
    | some x => decide ((h.rows + 63) / 64 ≤ x.count)
    | none => false))
def Hdr.okB (h : Hdr) (g : Nat) : Bool :=
  h.ok && decide (h.fmt ≤ 6) && h.nm == 0 && !h.cen && decide (h.rows ≤ 64) && h.kext % g == 0 && h.stored % g == 0
def Hdr.okA (h : Hdr) (split : Bool) : Bool :=
  h.ok && decide (h.fmt ≤ 6) && !h.ren && decide (h.kext ≤ kLimit h.fmt h.nm split) &&
  h.kext % groupOf h.fmt == 0 && h.stored % groupOf h.fmt == 0
/-- A D tile: its KEXT is its column count, no extent of K, so the items on g and M do not bear on it (log 43). -/
def Hdr.okD (h : Hdr) : Bool :=
  h.ok && (h.fmt == 7 || h.fmt == 8) && h.nm == 0 && !h.ren && !h.cen && decide (h.rows ≤ 64) && decide (h.kext ≤ 128)

/-- Whether the header of a tile in columns may be loaded or stored: the items of R139 that do not depend on its role, the
length, its columns and its scale handles (R166, R167). -/
def Hdr.okTile (h : Hdr) (s : State) (qk task n count : Nat) : Bool := h.ok && h.imageBytes == n && h.fits s qk task count

/-! ### Images of tiles (R136, R165) -/

/-- Column, row and offset of byte o of row r in an area of rows of len bytes that starts at a column. -/
def bandAt (base len r o : Nat) : Nat × Nat × Nat := (base + r / 64 * ((len + 511) / 512) + o / 512, r % 64, o % 512)
def areaBytes (s : State) (qk base rows len : Nat) : List Nat :=
  (List.range rows).flatMap fun r => (List.range len).map fun o =>
    let (c, i, b) := bandAt base len r o
    opByte s qk c i b
def setArea (s : State) (qk base rows len : Nat) (bs : List Nat) : State :=
  { s with opmem := (List.range (rows * len)).foldl (fun t i =>
      let (c, r, b) := bandAt base len (i / len) (i % len)
      Tab.set t 0#8 (opKey qk c r b) (BitVec.ofNat 8 (bs.getD i 0))) s.opmem }
/-- The areas of a tile in columns, packed as in an image. -/
def tileBytes (s : State) (qk first : Nat) (h : Hdr) : List Nat :=
  let v := h.areas.getD 0 0
  let c := h.areas.getD 1 0
  let x := h.areas.getD 2 0
  let b1 := first + areaCols h.rows v
  let b2 := b1 + areaCols h.rows c
  areaBytes s qk first h.rows v ++ areaBytes s qk b1 h.rows c ++ areaBytes s qk b2 h.rows x
def setTileBytes (s : State) (qk first : Nat) (h : Hdr) (bs : List Nat) : State :=
  let v := h.areas.getD 0 0
  let c := h.areas.getD 1 0
  let x := h.areas.getD 2 0
  let b1 := first + areaCols h.rows v
  let b2 := b1 + areaCols h.rows c
  let s := setArea s qk first h.rows v bs
  let s := setArea s qk b1 h.rows c (bs.drop (h.rows * v))
  setArea s qk b2 h.rows x (bs.drop (h.rows * (v + c)))
/-- Row scale bytes of a B tile, column scale bytes of an A tile (R137). -/
def rowScales (s : State) (qk task : Nat) (h : Hdr) : List Nat :=
  if !h.ren then [] else
  match handleOf s qk task h.rhnd with
  | some x => (List.range h.rows).map fun m => opByte s qk x.first m h.roff
  | none => []
def colScales (s : State) (qk task : Nat) (h : Hdr) : List Nat :=
  if !h.cen then [] else
  match handleOf s qk task h.chnd with
  | some x => (List.range h.rows).map fun n => opByte s qk (x.first + n / 64) (n % 64) h.coff
  | none => []

/-- A tile by value: its header, its packed areas, one scale byte per row or none. -/
structure TileV where
  hdr : Hdr
  bytes : List Nat
  scales : List Nat
  deriving DecidableEq, Repr

/-! ### Products and the chain (R140 to R144) -/

/-- An E8M0 scale (R74). -/
def e8m0 (b : Nat) : FVal := if b = 255 then .nan false else .fin false 1 ((b : Int) - 127)
def mulN (a b : FVal) : FVal := if a.isNan || b.isNan then .nan false else (mulV a b).getD (.nan false)

def TileV.area (t : TileV) (a r o : Nat) : Nat :=
  let ls := t.hdr.areas
  t.bytes.getD (t.hdr.rows * (ls.take a).sum + r * ls.getD a 0 + o) 0
def nib (b i : Nat) : Nat := if i % 2 = 0 then b % 16 else b / 16
/-- Stored element i of row r with its block scale (R136, R140). -/
def TileV.elem (t : TileV) (r i : Nat) : FVal :=
  let h := t.hdr
  match h.fmt with
  | 0 => decodeF .bf16 false (t.area 0 r (2 * i) + 256 * t.area 0 r (2 * i + 1))
  | 1 => decodeF .f16 false (t.area 0 r (2 * i) + 256 * t.area 0 r (2 * i + 1))
  | 2 => mulN (decodeF .e4m3 false (t.area 0 r i)) (if h.sep then e8m0 (t.area 1 r (i / h.bsz)) else .fin false 1 0)
  | 3 => mulN (decodeF .e5m2 false (t.area 0 r i)) (if h.sep then e8m0 (t.area 1 r (i / h.bsz)) else .fin false 1 0)
  | 6 =>
    if h.sep then pxDecode (nib (t.area 0 r (i / 2)) i) (t.area 1 r (2 * (i / 32))) (t.area 1 r (2 * (i / 32) + 1))
    else
      let b := 18 * (i / 32)
      pxDecode (nib (t.area 0 r (b + i % 32 / 2)) i) (t.area 0 r (b + 16)) (t.area 0 r (b + 17))
  | _ => .nan false
def TileV.elemInt (t : TileV) (r i : Nat) : Int :=
  let b := t.area 0 r i
  if t.hdr.fmt = 4 then sextI b 8 else (b : Int)
/-- The K position of stored element i of row r; none where its index is not legal (R144). -/
def TileV.kPos (t : TileV) (r i : Nat) : Option Nat :=
  let h := t.hdr
  if h.nm = 0 then some i else
  let ix (j : Nat) : Nat := nib (t.area 2 r (j / 2)) j
  let q := ix i
  let n := nmN h.nm
  if nmM h.nm ≤ q || (i % n != 0 && decide (q ≤ ix (i - 1))) then none else some (nmM h.nm * (i / n) + q)
def TileV.scaleOf (t : TileV) (r : Nat) : FVal := if t.scales.isEmpty then .fin false 1 0 else e8m0 (t.scales.getD r 0)

/-- `prod(m, n, i)` (R140): B's K positions start at k0. -/
def prodF (a b : TileV) (k0 m n i : Nat) : FVal :=
  match a.kPos n i with
  | none => .nan false
  | some k => mulN (mulN (mulN (a.elem n i) (b.elem m (k0 + k))) (b.scaleOf m)) (a.scaleOf n)
def prodI (a b : TileV) (k0 m n i : Nat) : Option Int := (a.kPos n i).map fun k => a.elemInt n i * b.elemInt m (k0 + k)

/-- t of one step: the exact sum of a product group (R141, R142). -/
def stepSum (a b : TileV) (k0 m n j : Nat) : FVal :=
  let g := groupOf a.hdr.fmt
  let ps := (List.range g).map fun i => prodF a b k0 m n (j * g + i)
  if anyNan ps then .nan false else (sumTerms 0 ps).val
/-- The float chain over steps j, j+1, … (R141): each rounds once, RNE, subnormals kept. -/
def chainF (a b : TileV) (k0 m n : Nat) (j : Nat) : Nat → Nat → Nat
  | 0, x => x
  | f + 1, x =>
    let y := (finish .f32 rneKeep 0 (fAdd 0 (decodeF .f32 false x) (stepSum a b k0 m n j))).code
    chainF a b k0 m n (j + 1) f y
/-- The integer chain (R143): none once a product is undefined; whether some step clamped. -/
def chainI (a b : TileV) (sat : Bool) (k0 m n : Nat) (j : Nat) : Nat → Option Int → Bool → Option Int × Bool
  | 0, x, c => (x, c)
  | f + 1, x, c =>
    let g := groupOf a.hdr.fmt
    let t := (List.range g).foldl (fun (t : Option Int) i =>
      match t, prodI a b k0 m n (j * g + i) with
      | some u, some v => some (u + v)
      | _, _ => none) (some 0)
    match x, t with
    | some u, some v =>
      let r := narrowI 0 32 sat (u + v)
      chainI a b sat k0 m n (j + 1) f (some (sextI r.code 32)) (c || r.flags != 0)
    | _, _ => chainI a b sat k0 m n (j + 1) f none c

/-- What an FP32 result counts (R153). -/
def countF (code : Nat) : Counts :=
  match decodeF .f32 false code with
  | .nan _ => { nan := 1 }
  | .inf _ => { inf := 1 }
  | .fin _ m _ => if 0 < m ∧ m < 2 ^ 23 then { und := 1 } else {}
/-- The bytes of one row of a tile. -/
def TileV.row (t : TileV) (r : Nat) : List Nat :=
  (List.range 3).flatMap fun a => (List.range (t.hdr.areas.getD a 0)).map fun o => t.area a r o
/-- One element of D after a pass, with its counts. The integer class gives an undefined product no value: the
element is then a free value that the operands fix (R2; log 12). -/
def passElem (a b : TileV) (sat : Bool) (k0 m n old : Nat) : Nat × Counts :=
  let steps := a.hdr.stored / groupOf a.hdr.fmt
  if a.hdr.isInt then
    match chainI a b sat k0 m n 0 steps (some (sextI old 32)) false with
    | (some x, c) => (wrapI x 32, { sat := b2n c })
    | (none, _) => ((Config.illegalIndex ([old, b2n sat, k0, a.hdr.nm] ++ a.row n ++ b.row m)).toNat, {})
  else
    let y := chainF a b k0 m n 0 steps old
    (y, countF y)

/-- The bytes of D[m][n] in a D tile (R136): rows of 4 × KEXT bytes. -/
def dWord (s : State) (qk first kext m n : Nat) : Nat :=
  leValue ((List.range 4).map fun i =>
    let (c, r, b) := bandAt first (4 * kext) m (4 * n + i)
    opByte s qk c r b)
def setDWord (s : State) (qk first kext m n v : Nat) : State :=
  { s with opmem := (List.range 4).foldl (fun t i =>
      let (c, r, b) := bandAt first (4 * kext) m (4 * n + i)
      Tab.set t 0#8 (opKey qk c r b) (BitVec.ofNat 8 (v / 256 ^ i))) s.opmem }
/-- One pass over D (R141, R176): elements outside the ranges are not written. -/
def passTile (s : State) (qk first kext : Nat) (a b : TileV) (sat : Bool) (k0 : Nat) : State × Counts :=
  (List.range b.hdr.rows).foldl (fun (p : State × Counts) m =>
    (List.range a.hdr.rows).foldl (fun (p : State × Counts) n =>
      let (v, c) := passElem a b sat k0 m n (dWord s qk first kext m n)
      (setDWord p.1 qk first kext m n v, p.2.plus c)) p) (s, {})

end Sys2Proof.Machine
end

