-- ==== Sys2Proof/Machine/Matrix.lean ====
section
/-! DEFINITION. Opcodes 0x80 to 0x8B: column handles, tiles, the array's banks, products and configuration
(07: R154 to R180). The steps in which the commands complete stand in ArrayEvents. -/
namespace Sys2Proof.Machine

def allLanes : Mask := BitVec.allOnes 64
/-- R155: all 64 lanes issue, with equal mode registers. -/
def matrixTogether (s : State) (m : Mask) : Bool :=
  m == allLanes && (lanesIn m).all fun l => (s.lane s.cur.g l).mode == (s.lane s.cur.g 0).mode
def columnTrap (bad : Bool) (i : Nat) : Option Trap := if bad then some ⟨11, cCOLUMN_FAULT, i⟩ else none
def State.array (s : State) (qk : Nat) : Array4 := Tab.get s.arrays qk {}
def hasArray (s : State) : Bool := (s.array (qkOf s.cur.g)).grant == some (s.grp s.cur.g).task
/-- The own causes of a matrix instruction, in the order of R157. -/
def matrixRule (i : Instr) (grant : Bool) (causes : State → List (Option Trap)) : Rule :=
  { instr := i, stopAll := true,
    all := fun s m =>
      if !matrixTogether s m then some ⟨9, cCONVERGENCE, curWord s⟩
      else if grant && !hasArray s then some ⟨10, cPROTECTION, 0⟩
      else firstTrap (causes s) }
def unbound (s : State) (i : Code) : Option Trap := columnTrap (boundRun s s.cur.g i.toNat).isNone i.toNat
/-- A region that the latest configuration does not have, or has in Belt mode. -/
def badRegion (s : State) (r : Code) : Option Trap :=
  let w := (s.array (qkOf s.cur.g)).latest
  columnTrap ((r.toNat == 1 && !bitOf w 0) || bitOf w (1 + r.toNat)) r.toNat
/-- An operand of lane 0 (R156). -/
def lane0 (s : State) (c : Code) : Nat := rd s s.cur.g 0 c.toNat
def capture (s : State) (is : List Code) : List (Nat × Nat × Nat) :=
  is.filterMap fun i => (boundRun s s.cur.g i.toNat).map fun r => (i.toNat, r.1, r.2)
/-- A matrix command: one per group, its registers read from lane 0, its handles as they are bound now. -/
def matrixCmd (r : Rule) (op : CmdOp) (sync : BitVec 32) (s : State) (hs : List Code) (fill : State → Cmd → Cmd) : Out :=
  issue { r with words := 2, sync := some (.command, sync) } s fun s ok =>
    postCmd (popAll s r.instr) (fill s { baseCmd s ok op sync with handles := capture s hs, k := laneK s 0 })

/-! ### Columns (R161 to R163) -/

/-- Whether a column of a quad belongs to a handle, to a freed run not yet returned, or to a Tray. -/
def colUsed (s : State) (qk c : Nat) : Bool :=
  (s.handles.any fun h => h.qk == qk && decide (h.first ≤ c) && decide (c < h.first + h.count)) ||
  (s.trays.any fun t => t.2.quad == qk && t.2.bufs.any fun b => decide (b.first ≤ c) && decide (c < b.first + t.2.cols + t.2.rescol))
/-- The lowest free run of n columns. -/
def freeRun (s : State) (qk n : Nat) : Option Nat :=
  (List.range (513 - n)).find? fun c => (List.range n).all fun i => !colUsed s qk (c + i)
def zeroColumns (s : State) (qk first n : Nat) : State :=
  { s with opmem := Tab.cut s.opmem ((qk * 512 + first) * 2 ^ 16) ((qk * 512 + first + n) * 2 ^ 16),
           heads := Tab.cut s.heads ((qk * 512 + first) * 4) ((qk * 512 + first + n) * 4) }

/-- MCOL.ALLOC (R162). -/
def execMcolAlloc (d a b : Code) (s : State) : Out :=
  let r := matrixRule (.mcolAlloc d a b) false fun s =>
    let n := lane0 s a
    [columnTrap (n == 0 || decide (64 < n) || (boundRun s s.cur.g d.toNat).isSome) d.toNat]
  issue r s fun s ok =>
    let g := s.cur.g
    let n := lane0 s a
    let p (s : State) (x : Nat) : State := commit s r.instr ((lanesIn ok).map fun l => (l, out1 b x))
    match freeRun s (qkOf g) n with
    | none => p s 0
    | some c =>
      let h : Handle := { qk := qkOf g, task := (s.grp g).task, index := d.toNat, first := c, count := n }
      p { zeroColumns s (qkOf g) c n with handles := s.handles ++ [h] } 1

/-- MCOL.FREE (R163): unbound at once; the columns return when the commands issued before have completed. -/
def execMcolFree (d : Code) (s : State) : Out :=
  issue (matrixRule (.mcolFree d) false fun s => [unbound s d]) s fun s _ =>
    let g := s.cur.g
    let task := (s.grp g).task
    let hit (h : Handle) : Bool := h.qk == qkOf g && h.task == task && h.index == d.toNat && h.freed.isNone
    let hs := s.handles.map fun h => if hit h then { h with freed := some s.nextId } else h
    returnColumns { s with handles := hs }

/-! ### Tiles (R166 to R170, R372) -/

/-- The rows that an instruction pops, with their channels. -/
def rowsOf (s : State) (i : Instr) : List (Nat × List Word) :=
  (popCodes i).map fun c => (c, ((s.chan s.cur.g c).rows.head?).getD [])
/-- The pages of a range as the stream loader finds them: an interleaved region's stripes apart (R361, R372). -/
def loaderLook (s : State) (gd asid va n : Nat) : List (Nat × Found) := (stripesOf va n).map fun p => (p, locate s gd asid p)
/-- Whether a page of a range lacks the right that a tile command needs. -/
def loaderLacks (write : Bool) (f : Nat × Found) : Bool :=
  match f.2 with
  | .at l => !(if write then fWr l.leaf else fR l.leaf) || l.obs
  | .miss _ _ _ => decide (2 ^ 56 ≤ f.1)
/-- The PROTECTION that the stream loader finds at issue, which precedes COLUMN_FAULT and ALIGN (R157). -/
def loaderTrap (s : State) (write : Bool) (va n : Nat) : Option Trap :=
  let g := s.cur.g
  let asid := (s.ctxOf (s.grp g).ctx).asid
  if raiseHolds s asid then none else
    ((loaderLook s (gdOf g) asid va n).find? (loaderLacks write)).map fun f => ⟨10, cPROTECTION, f.1⟩
/-- Issue MTILE.LD or MTILE.ST: the group waits for the stream loader, its lanes held at the instruction. -/
def tileIssue (i : Instr) (op : CmdOp) (h : Code) (addr len : Code) (sync : BitVec 32) (s : State) : Out :=
  let va (s : State) : Nat := rd64 s s.cur.g 0 addr.toNat
  let r := matrixRule i false fun s =>
    [protTrap (outside (va s)) (va s), loaderTrap s (op == .mtileSt) (va s) (lane0 s len), unbound s h, (alignTrap (va s % 64 != 0) (va s)).map fun t => { t with ord := 12 }]
  .next (issueRaw { r with words := 2, sync := some (.command, sync) } s fun s ok =>
    let c := { baseCmd s ok op sync with handles := capture s [h], d := h.toNat, a := va s, b := lane0 s len, loading := true, popped := rowsOf s i }
    let id := s.nextId
    let s := postCmd (popAll s i) c
    let s := s.modGrp s.cur.g fun x => { x with service := some (.loader id) }
    s.onLanes s.cur.g (lanesIn ok) fun _ y => { y with stand := .held })

/-- MTILE.LD (R166). -/
def execMtileLd (d a b : Code) (sync : BitVec 32) (s : State) : Out :=
  tileIssue (.mtileLd d a b sync) .mtileLd d a b sync s

/-- MTILE.ST (R167). -/
def execMtileSt (d a b : Code) (sync : BitVec 32) (s : State) : Out :=
  tileIssue (.mtileSt d a b sync) .mtileSt a d b sync s

/-- Whether an MTILE.HDR waits in its quad's tile queue: an earlier tile command has not started, or still works on the
same columns (R152, R154, R159). -/
def hdrWaits (s : State) (g i : Nat) : Bool :=
  s.cmds.any fun c => c.2.op.kind == .tile && c.2.qk == qkOf g &&
    (!c.2.started || (boundRun s g i).any fun r => c.2.handles.any fun h => h.2.1 == r.1)
/-- MTILE.HDR (R170): unchecked. -/
def execMtileHdr (d a : Code) (s : State) : Out :=
  issue (matrixRule (.mtileHdr d a) false fun s => [unbound s d]) s fun s _ =>
    match boundRun s s.cur.g d.toNat with
    | some r => setHead s (qkOf s.cur.g) r.1 ((List.range 4).map fun i => rd s s.cur.g 0 (a.toNat + i))
    | none => s

/-! ### Banks and products (R174 to R180) -/

/-- MWLOAD (R174). -/
def execMwload (d a : Code) (sync : BitVec 32) (s : State) : Out :=
  matrixCmd (matrixRule (.mwload d a sync) true fun s => [unbound s a, badRegion s d]) .mwload sync s [a]
    fun _ c => { c with d := d.toNat, a := a.toNat }

/-- MWSWAP (R175). -/
def execMwswap (d : Code) (sync : BitVec 32) (s : State) : Out :=
  matrixCmd (matrixRule (.mwswap d sync) true fun s => [badRegion s d]) .mwswap sync s [] fun _ c => { c with d := d.toNat }

def aliasTrap (s : State) (bad : Bool) (ord : Nat) : Option Trap := if bad then some ⟨ord, cOPERAND_ALIAS, curWord s⟩ else none
def mmaIssue (i : Instr) (op : CmdOp) (d a b : Code) (sync : BitVec 32) (s : State) : Out :=
  matrixCmd (matrixRule i true fun s => [unbound s d, unbound s b, badRegion s a, aliasTrap s (d == b) 13]) op sync s [d, b]
    fun _ c => { c with d := d.toNat, a := a.toNat, b := b.toNat }

/-- MMA (R176 to R178). -/
def execMma (d a b : Code) (sync : BitVec 32) (s : State) : Out :=
  mmaIssue (.mma d a b sync) .mma d a b sync s

/-- MMA.SP (R176 to R178). -/
def execMmaSp (d a b : Code) (sync : BitVec 32) (s : State) : Out :=
  mmaIssue (.mmaSp d a b sync) .mmaSp d a b sync s

/-- MACC.ZERO (R179). -/
def execMaccZero (d a : Code) (sync : BitVec 32) (s : State) : Out :=
  matrixCmd (matrixRule (.maccZero d a sync) true fun s => [unbound s d, badRegion s a]) .maccZero sync s [d]
    fun _ c => { c with d := d.toNat, a := a.toNat }

/-- MACC.RD (R180): v[D] to v[D + 15] have a write outstanding until it completes. -/
def execMaccRd (d a b : Code) (sync : BitVec 32) (s : State) : Out :=
  matrixCmd (matrixRule (.maccRd d a b sync) true fun s => [unbound s b, badRegion s a]) .maccRd sync s [b]
    fun _ c => { c with d := d.toNat, a := a.toNat, b := b.toNat, dst := [(d.toNat, 16)] }

/-! ### Configuration (R172, R173) -/

/-- The regions whose rows or mode differ between two configuration words, as a set of bits. -/
def changedRegions (u w : Nat) : Nat :=
  if bitOf u 0 != bitOf w 0 then 3
  else b2n (bitOf u 1 != bitOf w 1) + 2 * b2n (bitOf u 2 != bitOf w 2)
/-- A ring serves one quad, region and geometry (R416). -/
def ringKey (qk r : Nat) (split : Bool) : Nat := qk * 4 + 2 * b2n split + r
def ringReady (s : State) (qk r : Nat) (split : Bool) : Bool :=
  match Tab.find? s.rings (ringKey qk r split) with
  | some x => !x.slots.isEmpty
  | none => false

/-- A configuration word with the changes of another in some regions: all of it where the geometry changes. -/
def mergeCfg (u w pos : Nat) : Nat :=
  if pos = 3 then w else
  let bit (r : Nat) : Nat := b2n (bitOf (if bitOf pos r then w else u) (1 + r))
  u % 2 + 2 * bit 0 + 4 * bit 1
/-- The configuration of a quad once its pending MCFGs have taken effect. -/
def cfgAhead (s : State) (qk : Nat) : Nat :=
  s.cmds.foldl (fun w c => if c.2.op == .mcfg && c.2.qk == qk then mergeCfg w c.2.a c.2.pos else w) (s.array qk).inForce
/-- MCFG (R172, R173): a word that changes nothing starts no epoch. While earlier MCFGs are pending, it is compared with the
configuration that they leave; one that a kill discarded leaves nothing (log 44). -/
def execMcfg (a : Code) (s : State) : Out :=
  let r := matrixRule (.mcfg a) true fun s =>
    let w := lane0 s a
    let bad (r : Nat) : Option Trap := columnTrap (bitOf w (1 + r) && !ringReady s (qkOf s.cur.g) r (bitOf w 0)) r
    [bad 0, bad 1]
  issue { r with reserved := fun s _ => let w := lane0 s a; decide (8 ≤ w) || (bitOf w 2 && !bitOf w 0) } s fun s ok =>
    let qk := qkOf s.cur.g
    let w := lane0 s a
    let x := s.array qk
    let ch := changedRegions (cfgAhead s qk) w
    let s := popAll s r.instr
    let s := { s with arrays := Tab.put s.arrays qk { x with latest := w } }
    if ch = 0 then s else
    postCmd s { baseCmd s ok .mcfg 0 with a := w, pos := ch }

end Sys2Proof.Machine
end

