-- ==== Sys2Proof/Machine/ArrayEvents.lean ====
section
/-! DEFINITION. The rows in which array commands take effect and complete: tiles, banks, products, configuration and
the stream loader (06: R139 to R153; 07: R158 to R180; 15: R372). A row whose condition does not hold changes
nothing. -/
namespace Sys2Proof.Machine

/-! ### Banks -/

def bankKey (qk r shadow : Nat) : Nat := qk * 4 + r * 2 + shadow
def State.bank (s : State) (k : Nat) : Bank := Tab.get s.banks k {}
def setBank (s : State) (k : Nat) (b : Bank) : State := { s with banks := Tab.set s.banks {} k b }
def Bank.tile? (b : Bank) : Option TileV :=
  if b.hdr.isEmpty then none else
    some { hdr := parseHdr (b.hdr.map BitVec.toNat), bytes := b.bytes.map BitVec.toNat, scales := b.scales.map BitVec.toNat }
def tileBank (ws : List Nat) (bytes scales : List Nat) : Bank :=
  { hdr := ws.map w32, bytes := bytes.map (BitVec.ofNat 8), scales := scales.map (BitVec.ofNat 8) }
def splitNow (s : State) (qk : Nat) : Bool := bitOf (s.array qk).inForce 0
def headWords (s : State) (qk col : Nat) : List Nat := (List.range 4).map (headWord s qk col)
/-- The first column of a scale handle, plus one; 0 where there is none. -/
def scaleCol (s : State) (qk task : Nat) (on : Bool) (i : Nat) : Nat :=
  if !on then 0 else match handleOf s qk task i with
    | some h => h.first + 1
    | none => 0

/-! ### Starts (R158, R166, R167, R174, R177, R179, R180) -/

/-- Checks of MMA and MMA.SP at their start. -/
def mmaOk (s : State) (c : Cmd) : Bool :=
  let qk := c.qk
  let hb := hdrAt s qk (c.run c.b).1
  let hd := hdrAt s qk (c.run c.d).1
  let k0 := c.k % 2048
  match (s.bank (bankKey qk c.a 0)).tile? with
  | none => false
  | some t =>
    let ha := t.hdr
    (if c.op = .mma then ha.nm == 0 else ha.nm != 0) && hb.okB (groupOf ha.fmt) && hd.okD && hb.isInt == ha.isInt && hd.isInt == ha.isInt &&
      hb.fits s qk c.task (c.run c.b).2 && hd.fits s qk c.task (c.run c.d).2 &&
      decide (k0 + ha.kext ≤ hb.kext) && k0 % hb.bsz == 0 && (c.op != .mmaSp || k0 % nmM ha.nm == 0) &&
      decide (hb.rows ≤ hd.rows) && decide (ha.rows ≤ hd.kext) && !(hb.ren && hb.rhnd == c.d)
/-- What a matrix command captures at its start, or that it takes a start fault. -/
def startArray (s : State) (c : Cmd) : Option (List Nat) :=
  let qk := c.qk
  match c.op with
  | .mtileSt => if (hdrAt s qk (c.run c.d).1).okTile s qk c.task c.b (c.run c.d).2 then some (headWords s qk (c.run c.d).1) else none
  | .mwload =>
    let h := hdrAt s qk (c.run c.a).1
    if h.okA (splitNow s qk) && h.fits s qk c.task (c.run c.a).2 then
      some (headWords s qk (c.run c.a).1 ++ [scaleCol s qk c.task h.cen h.chnd]) else none
  | .mma => mmaImage
  | .mmaSp => mmaImage
  | .maccZero => if accOk c.d then some (headWords s qk (c.run c.d).1) else none
  | .maccRd => if accOk c.b then some (headWords s qk (c.run c.b).1) else none
  | _ => some []
where
  mmaImage : Option (List Nat) :=
    let qk := c.qk
    let hb := hdrAt s qk (c.run c.b).1
    if mmaOk s c then some (headWords s qk (c.run c.b).1 ++ headWords s qk (c.run c.d).1 ++ [scaleCol s qk c.task hb.ren hb.rhnd]) else none
  accOk (i : Nat) : Bool := let h := hdrAt s c.qk (c.run i).1; h.okD && h.fits s c.qk c.task (c.run i).2
/-- A start fault of a matrix command; a failed MWLOAD leaves the shadow bank without a tile (R174). -/
def arrayFault (s : State) (id : Nat) (c : Cmd) : State :=
  startFault (if c.op = .mwload then setBank s (bankKey c.qk c.d 1) {} else s) id c

/-! ### Tiles and memory (R166 to R169, R372) -/

/-- A miss that a tile command meets is the stream loader's (R369). -/
def tileProb (s : State) (id : Nat) (c : Cmd) : Prob → Out
  | .miss _ h key va => cmdProb s id c 5 (.miss 5 h key va)
  | p => cmdProb s id c 5 p
/-- MTILE.LD at once: header, checks, areas, head slot last. -/
def loadTile (s : State) (id : Nat) (c : Cmd) : Out :=
  match readRange s c.gd c.ck (c.asid s) c.a 16 c.who with
  | .error p => tileProb s id c p
  | .ok (s, hb) =>
    let ws := (List.range 4).map fun i => leValue ((hb.drop (4 * i)).take 4)
    let h := parseHdr ws
    if !h.okTile s c.qk c.task c.b (c.run c.d).2 then .next (startFault s id c) else
    match readRange s c.gd c.ck (c.asid s) (c.a + 64) (c.b - 64) c.who with
    | .error p => tileProb s id c p
    | .ok (s, bs) =>
      let s := setTileBytes s c.qk (c.run c.d).1 h bs
      .next (completeCmd (setHead s c.qk (c.run c.d).1 ws) id c false)
/-- MTILE.ST at once: header, 48 zero bytes, areas. -/
def storeTile (s : State) (id : Nat) (c : Cmd) : Out :=
  let h := parseHdr c.image
  let bs := (c.image.flatMap fun w => leBytes w 4) ++ List.replicate 48 0 ++ tileBytes s c.qk (c.run c.d).1 h
  match writeRange s c.gd c.ck (c.asid s) (c.kslot s) c.a bs c.who with
  | (s, none) => .next (completeCmd s id c false)
  | (s, some p) => tileProb s id c p
/-- Whether the group that issued a command still runs its task. -/
def grpLive (s : State) (c : Cmd) : Bool := Tab.has s.groups c.g && (s.grp c.g).task == c.task
/-- A row that completes a command of some kinds once it is live and its turn has come. -/
def onCmd (s : State) (id : Nat) (p : Cmd → Bool) (k : Cmd → Out) : Out :=
  match Tab.find? s.cmds id with
  | none => .next s
  | some c => if p c && cmdLive s id c then k c else .next s
/-- MTILE_COMPLETE (R160, R166, R167). -/
def execMtileComplete (cmd : Nat) (s : State) : Out :=
  onCmd s cmd (fun c => c.op.kind == .tile) fun c => if c.op = .mtileLd then loadTile s cmd c else storeTile s cmd c

/-- Take back a command that never came to be: its increment is withdrawn, and the rows it popped return to the front of
their channels (R157). -/
def dropCmd (s : State) (id : Nat) (c : Cmd) : State :=
  let s := { s with cmds := Tab.del s.cmds id }
  let s := c.popped.foldl (fun s p =>
    let x := s.chan c.g p.1
    { s with chans := Tab.put s.chans (chanKey c.g p.1) { x with rows := p.2 :: x.rows } }) s
  if sEn c.sync then
    let x := s.sem c.ck (sSem c.sync)
    s.setSem c.ck (sSem c.sync) { x with pending := x.pending - sInc c.sync }
  else s
/-- STREAM_LOADER_ANSWER (R157, R168, R372): a lacking right is PROTECTION for every lane, a miss parks the group, else
the group goes on after the instruction. -/
def execStreamLoaderAnswer (cmd : Nat) (s : State) : Out :=
  match Tab.find? s.cmds cmd with
  | none => .next s
  | some c =>
    if !c.loading || raiseHolds s (c.asid s) then .next s else
    let g := c.g
    let fs := loaderLook s c.gd (c.asid s) c.a c.b
    let pc := (s.lane g 0).pc
    let free (s : State) : State := s.modGrp g fun x => { x with service := none }
    match fs.findSome? fun f => match f.2 with
      | .at l => if l.absent then some (l.gd, l.page) else none
      | .miss _ _ _ => none with
    | some (gd, page) => .fault (.absentPage gd page)
    | none =>
      match fs.find? (loaderLacks (c.op == .mtileSt)) with
      | some f => .next (deliver (free (dropCmd s cmd c)) g ((lanesIn c.mask).map fun l => (l, ⟨10, cPROTECTION, f.1⟩)) 0 pc none)
      | none =>
        match fs.findSome? fun f => match f.2 with
          | .miss k h key => some (f.1, k, h, key)
          | .at _ => none with
        | some (va, k, h, key) =>
          .next (parkMiss (free (dropCmd s cmd c)) g c.mask pc none h k 5 (c.asid s) va key ((lanesIn c.mask).map fun l => (l, va)))
        | none =>
          let s := free (setCmd s cmd { c with loading := false })
          .next ((advance s g 2 c.mask).onLanes g (lanesIn c.mask) fun _ y => { y with stand := .run })

/-! ### Banks, products, accumulators (R145, R174 to R180) -/

/-- MWLOAD_COMPLETE (R174): the tile goes into the shadow bank. -/
def execMwloadComplete (cmd : Nat) (s : State) : Out :=
  onCmd s cmd (fun c => c.op == .mwload) fun c =>
    let qk := c.qk
    let ws := c.image.take 4
    let h := parseHdr ws
    let sc := c.image.getD 4 0
    let scales := if sc = 0 then [] else (List.range h.rows).map fun n => opByte s qk (sc - 1 + n / 64) (n % 64) h.coff
    .next (completeCmd (setBank s (bankKey qk c.d 1) (tileBank ws (tileBytes s qk (c.run c.a).1 h) scales)) cmd c false)
/-- MWSWAP_DONE (R145, R175). -/
def swapBanks (s : State) (qk r : Nat) : State :=
  let a := s.bank (bankKey qk r 0)
  let b := s.bank (bankKey qk r 1)
  setBank (setBank s (bankKey qk r 0) b) (bankKey qk r 1) a
def execMwswapDone (cmd : Nat) (s : State) : Out :=
  onCmd s cmd (fun c => c.op == .mwswap) fun c => .next (completeCmd (swapBanks s c.qk c.d) cmd c false)
/-- MMA_COMPLETE (R176): the pass with the headers as they were at the start. -/
def execMmaComplete (cmd : Nat) (s : State) : Out :=
  onCmd s cmd (fun c => c.op == .mma || c.op == .mmaSp) fun c =>
    let qk := c.qk
    let hb := parseHdr (c.image.take 4)
    let hd := parseHdr ((c.image.drop 4).take 4)
    let sc := c.image.getD 8 0
    let scales := if sc = 0 then [] else (List.range hb.rows).map fun m => opByte s qk (sc - 1) m hb.roff
    match (s.bank (bankKey qk c.a 0)).tile? with
    | none => .next (startFault s cmd c)
    | some a =>
      let b : TileV := { hdr := hb, bytes := tileBytes s qk (c.run c.b).1 hb, scales := scales }
      let r := passTile s qk (c.run c.d).1 hd.kext a b (bitOf c.mode.toNat 8) (c.k % 2048)
      .next (completeCmd (cmdCensus r.1 c r.2) cmd c false)
/-- MACC_ZERO_COMPLETE (R179). -/
def execMaccZeroComplete (cmd : Nat) (s : State) : Out :=
  onCmd s cmd (fun c => c.op == .maccZero) fun c =>
    let h := parseHdr c.image
    let s := (List.range h.rows).foldl (fun s m =>
      (List.range h.kext).foldl (fun s n => setDWord s c.qk (c.run c.d).1 h.kext m n 0) s) s
    .next (completeCmd s cmd c false)
/-- MACC_RD_COMPLETE (R180). -/
def execMaccRdComplete (cmd : Nat) (s : State) : Out :=
  onCmd s cmd (fun c => c.op == .maccRd) fun c =>
    let h := parseHdr c.image
    let b := c.k % 8
    let ws := (List.range h.rows).flatMap fun l => (List.range 16).filterMap fun j =>
      if 16 * b + j < h.kext then some (l, j, dWord s c.qk (c.run c.b).1 h.kext l (16 * b + j)) else none
    let s := if !grpLive s c then s else ws.foldl (fun s w => wr s c.g w.1 (c.d + w.2.1) w.2.2) s
    .next (completeCmd s cmd c false)

/-- MCFG_EFFECT (R173): once the earlier commands of the changed regions have completed and their tiles have left, the
configuration of those regions is in force and their banks hold no tile. A region that enters Belt mode starts its ring at slot 0. -/
def execMcfgEffect (cmd : Nat) (s : State) : Out :=
  match Tab.find? s.cmds cmd with
  | none => .next s
  | some c =>
    let qk := c.qk
    let x := s.array qk
    let changed (r : Nat) : Bool := bitOf c.pos r
    let drained := (List.range 2).all fun r => !changed r || (match Tab.find? s.rings (ringKey qk r (bitOf x.inForce 0)) with
      | some g => !bitOf x.inForce (1 + r) || g.riders.isEmpty
      | none => true)
    if c.op != .mcfg || !queueTurn s cmd c || !drained then .next s else
    let s := { s with arrays := Tab.put s.arrays qk { x with inForce := mergeCfg x.inForce c.a c.pos } }
    let s := (List.range 2).foldl (fun s r => if changed r then setBank (setBank s (bankKey qk r 0) {}) (bankKey qk r 1) {} else s) s
    let s := (List.range 2).foldl (fun s r =>
      let k := ringKey qk r (bitOf c.a 0)
      match Tab.find? s.rings k with
      | some g => if changed r && bitOf c.a (1 + r) then
          { s with rings := Tab.put s.rings k { g with current := g.slots.length - 1, preloaded := false, riders := [] } } else s
      | none => s) s
    .next (completeCmd s cmd c false)

end Sys2Proof.Machine
end

