-- ==== Sys2Proof/Decode.lean ====
section
/-! DEFINITION. The decoder and the encoder (R31 to R33, R36, R52, R53). Words are little-endian in memory. -/
namespace Sys2Proof

/-- Why bytes do not decode to an instruction. -/
inductive DecodeError where
  /-- Fewer bytes than the instruction has. -/
  | tooShort
  /-- A field that the instruction does not use is not zero (R33, R51); raises RESERVED_FIELD when it issues. -/
  | unusedField (opcode : Nat)
  deriving DecidableEq, Repr

inductive DecodeResult where
  | ok (i : Instr)
  | bad (e : DecodeError)
  deriving DecidableEq, Repr

def opOf (w : BitVec 32) : Nat := (w.extractLsb' 24 8).toNat
def fD (w : BitVec 32) : Code := w.extractLsb' 16 8
def fA (w : BitVec 32) : Code := w.extractLsb' 8 8
def fB (w : BitVec 32) : Code := w.extractLsb' 0 8
def fL (w : BitVec 32) : BitVec 24 := w.extractLsb' 0 24
def packDAB (op : Nat) (d a b : Code) : BitVec 32 := BitVec.ofNat 8 op ++ d ++ a ++ b
def packL (op : Nat) (l : BitVec 24) : BitVec 32 := BitVec.ofNat 8 op ++ l

/-- Whether the opcode takes a second word (R52). -/
def twoWords (op : Nat) : Bool :=
  op == 0x82
  || op == 0x83
  || op == 0x85
  || op == 0x86
  || op == 0x87
  || op == 0x88
  || op == 0x89
  || op == 0x8A
  || op == 0xBF
  || op == 0xC0
  || op == 0xC1
  || op == 0xC2
  || op == 0xC3
  || op == 0xC4
  || op == 0xC5
  || op == 0xC6
  || op == 0xC7
  || op == 0xC8
  || op == 0xC9
  || op == 0xCA
  || op == 0xCB
  || op == 0xCC
  || op == 0xCD
  || op == 0xCE
  || op == 0xDB
  || op == 0xDC
  || op == 0xDE
  || op == 0xE4
  || op == 0xE8
  || op == 0xED
  || op == 0xF8
  || op == 0xF9

/-- Keep an instruction whose unused fields are zero. -/
def need (op : Nat) (zero : Bool) (i : Instr) : DecodeResult := if zero then .ok i else .bad (.unusedField op)

/-- The instruction of a first word and, for a two-word opcode, its sync word. A reserved opcode and 0xFF are the
row ILLEGAL_OPCODE (R53). -/
def decodeWords (w sync : BitVec 32) : DecodeResult :=
  match opOf w with
  | 0x00 => need 0x00 (fD w == 0 && fA w == 0 && fB w == 0) (.nop)
  | 0x01 => need 0x01 (fB w == 0) (.mov (fD w) (fA w))
  | 0x02 => .ok (.sel (fD w) (fA w) (fB w))
  | 0x03 => .ok (.add (fD w) (fA w) (fB w))
  | 0x04 => .ok (.sub (fD w) (fA w) (fB w))
  | 0x05 => .ok (.mul (fD w) (fA w) (fB w))
  | 0x06 => .ok (.mulh (fD w) (fA w) (fB w))
  | 0x07 => .ok (.mulw (fD w) (fA w) (fB w))
  | 0x08 => .ok (.mad (fD w) (fA w) (fB w))
  | 0x09 => .ok (.div (fD w) (fA w) (fB w))
  | 0x0A => .ok (.rem (fD w) (fA w) (fB w))
  | 0x0B => .ok (.imin (fD w) (fA w) (fB w))
  | 0x0C => .ok (.imax (fD w) (fA w) (fB w))
  | 0x0D => need 0x0D (fB w == 0) (.abs (fD w) (fA w))
  | 0x0E => need 0x0E (fB w == 0) (.neg (fD w) (fA w))
  | 0x0F => .ok (.add64 (fD w) (fA w) (fB w))
  | 0x10 => .ok (.sub64 (fD w) (fA w) (fB w))
  | 0x11 => .ok (.bAnd (fD w) (fA w) (fB w))
  | 0x12 => .ok (.bOr (fD w) (fA w) (fB w))
  | 0x13 => .ok (.bXor (fD w) (fA w) (fB w))
  | 0x14 => need 0x14 (fB w == 0) (.bNot (fD w) (fA w))
  | 0x15 => .ok (.andn (fD w) (fA w) (fB w))
  | 0x16 => .ok (.shl (fD w) (fA w) (fB w))
  | 0x17 => .ok (.shr (fD w) (fA w) (fB w))
  | 0x18 => .ok (.sar (fD w) (fA w) (fB w))
  | 0x19 => .ok (.rot (fD w) (fA w) (fB w))
  | 0x1A => need 0x1A (fB w == 0) (.popc (fD w) (fA w))
  | 0x1B => need 0x1B (fB w == 0) (.clz (fD w) (fA w))
  | 0x1C => need 0x1C (fB w == 0) (.ctz (fD w) (fA w))
  | 0x1D => need 0x1D (fB w == 0) (.brev (fD w) (fA w))
  | 0x1E => .ok (.bfx (fD w) (fA w) (fB w))
  | 0x1F => .ok (.bfi (fD w) (fA w) (fB w))
  | 0x20 => .ok (.bmix (fD w) (fA w) (fB w))
  | 0x21 => .ok (.lea (fD w) (fA w) (fB w))
  | 0x22 => .ok (.lea64 (fD w) (fA w) (fB w))
  | 0x23 => .ok (.cmpEq (fD w) (fA w) (fB w))
  | 0x24 => .ok (.cmpNe (fD w) (fA w) (fB w))
  | 0x25 => .ok (.cmpLt (fD w) (fA w) (fB w))
  | 0x26 => .ok (.cmpLe (fD w) (fA w) (fB w))
  | 0x27 => .ok (.cmpGt (fD w) (fA w) (fB w))
  | 0x28 => .ok (.cmpGe (fD w) (fA w) (fB w))
  | 0x29 => .ok (.pand (fD w) (fA w) (fB w))
  | 0x2A => .ok (.por (fD w) (fA w) (fB w))
  | 0x2B => .ok (.pxor (fD w) (fA w) (fB w))
  | 0x2C => need 0x2C (fB w == 0) (.pnot (fD w) (fA w))
  | 0x2D => need 0x2D (fA w == 0 && fB w == 0) (.p2v (fD w))
  | 0x2E => need 0x2E (fD w == 0 && fB w == 0) (.v2p (fA w))
  | 0x2F => .ok (.xchIdx (fD w) (fA w) (fB w))
  | 0x30 => .ok (.xchXor (fD w) (fA w) (fB w))
  | 0x31 => .ok (.xchUp (fD w) (fA w) (fB w))
  | 0x32 => .ok (.xchDn (fD w) (fA w) (fB w))
  | 0x33 => need 0x33 (fB w == 0) (.lnany (fD w) (fA w))
  | 0x34 => need 0x34 (fB w == 0) (.lnall (fD w) (fA w))
  | 0x35 => need 0x35 (fB w == 0) (.lnmask (fD w) (fA w))
  | 0x36 => .ok (.rdlane (fD w) (fA w) (fB w))
  | 0x37 => .ok (.wrlane (fD w) (fA w) (fB w))
  | 0x38 => need 0x38 (fB w == 0) (.iredAdd (fD w) (fA w))
  | 0x39 => need 0x39 (fB w == 0) (.iredMin (fD w) (fA w))
  | 0x3A => need 0x3A (fB w == 0) (.iredMax (fD w) (fA w))
  | 0x3B => need 0x3B (fB w == 0) (.iscanAdd (fD w) (fA w))
  | 0x3C => need 0x3C (fB w == 0) (.lneq (fD w) (fA w))
  | 0x40 => .ok (.fadd (fD w) (fA w) (fB w))
  | 0x41 => .ok (.fsub (fD w) (fA w) (fB w))
  | 0x42 => .ok (.fmul (fD w) (fA w) (fB w))
  | 0x43 => .ok (.fma (fD w) (fA w) (fB w))
  | 0x44 => .ok (.fms (fD w) (fA w) (fB w))
  | 0x45 => .ok (.fnma (fD w) (fA w) (fB w))
  | 0x46 => .ok (.fmin (fD w) (fA w) (fB w))
  | 0x47 => .ok (.fmax (fD w) (fA w) (fB w))
  | 0x48 => need 0x48 (fB w == 0) (.fabs (fD w) (fA w))
  | 0x49 => need 0x49 (fB w == 0) (.fneg (fD w) (fA w))
  | 0x4A => .ok (.fcmpEq (fD w) (fA w) (fB w))
  | 0x4B => .ok (.fcmpNe (fD w) (fA w) (fB w))
  | 0x4C => .ok (.fcmpLt (fD w) (fA w) (fB w))
  | 0x4D => .ok (.fcmpLe (fD w) (fA w) (fB w))
  | 0x4E => .ok (.fcmpUn (fD w) (fA w) (fB w))
  | 0x4F => need 0x4F (fB w == 0) (.fclass (fD w) (fA w))
  | 0x50 => need 0x50 (fB w == 0) (.frcp (fD w) (fA w))
  | 0x51 => need 0x51 (fB w == 0) (.frsq (fD w) (fA w))
  | 0x52 => need 0x52 (fB w == 0) (.fsqrt (fD w) (fA w))
  | 0x53 => .ok (.fdiv (fD w) (fA w) (fB w))
  | 0x54 => need 0x54 (fB w == 0) (.fexp2 (fD w) (fA w))
  | 0x55 => need 0x55 (fB w == 0) (.flog2 (fD w) (fA w))
  | 0x56 => need 0x56 (fB w == 0) (.fsin (fD w) (fA w))
  | 0x57 => need 0x57 (fB w == 0) (.fcos (fD w) (fA w))
  | 0x58 => need 0x58 (fB w == 0) (.ftanh (fD w) (fA w))
  | 0x59 => need 0x59 (fB w == 0) (.fsigm (fD w) (fA w))
  | 0x5A => need 0x5A (fB w == 0) (.frnd (fD w) (fA w))
  | 0x5B => .ok (.fdot2 (fD w) (fA w) (fB w))
  | 0x5C => .ok (.fdot4 (fD w) (fA w) (fB w))
  | 0x5D => .ok (.idot4 (fD w) (fA w) (fB w))
  | 0x5E => need 0x5E (fB w == 0) (.cvtF2i (fD w) (fA w))
  | 0x5F => need 0x5F (fB w == 0) (.cvtI2f (fD w) (fA w))
  | 0x60 => need 0x60 (fB w == 0) (.cvtUpLo (fD w) (fA w))
  | 0x61 => need 0x61 (fB w == 0) (.cvtUpHi (fD w) (fA w))
  | 0x62 => .ok (.cvtDn (fD w) (fA w) (fB w))
  | 0x63 => .ok (.cvtDn4 (fD w) (fA w) (fB w))
  | 0x64 => need 0x64 (fB w == 0) (.qblk (fD w) (fA w))
  | 0x65 => .ok (.dqblk (fD w) (fA w) (fB w))
  | 0x66 => .ok (.nibpk (fD w) (fA w) (fB w))
  | 0x67 => need 0x67 (fB w == 0) (.fredAdd (fD w) (fA w))
  | 0x68 => need 0x68 (fB w == 0) (.fredMax (fD w) (fA w))
  | 0x69 => need 0x69 (fB w == 0) (.fscanAdd (fD w) (fA w))
  | 0x6A => .ok (.argmax (fD w) (fA w) (fB w))
  | 0x6B => need 0x6B (fA w == 0 && fB w == 0) (.rand (fD w))
  | 0x6C => need 0x6C (fA w == 0 && fB w == 0) (.randf (fD w))
  | 0x6D => need 0x6D (fB w == 0) (.smxup (fD w) (fA w))
  | 0x80 => .ok (.mcolAlloc (fD w) (fA w) (fB w))
  | 0x81 => need 0x81 (fA w == 0 && fB w == 0) (.mcolFree (fD w))
  | 0x82 => .ok (.mtileLd (fD w) (fA w) (fB w) sync)
  | 0x83 => .ok (.mtileSt (fD w) (fA w) (fB w) sync)
  | 0x84 => need 0x84 (fB w == 0) (.mtileHdr (fD w) (fA w))
  | 0x85 => need 0x85 (fB w == 0) (.mwload (fD w) (fA w) sync)
  | 0x86 => need 0x86 (fA w == 0 && fB w == 0) (.mwswap (fD w) sync)
  | 0x87 => .ok (.mma (fD w) (fA w) (fB w) sync)
  | 0x88 => .ok (.mmaSp (fD w) (fA w) (fB w) sync)
  | 0x89 => need 0x89 (fB w == 0) (.maccZero (fD w) (fA w) sync)
  | 0x8A => .ok (.maccRd (fD w) (fA w) (fB w) sync)
  | 0x8B => need 0x8B (fD w == 0 && fB w == 0) (.mcfg (fA w))
  | 0xA0 => .ok (.ld (fD w) (fA w) (fB w))
  | 0xA1 => .ok (.ldX2 (fD w) (fA w) (fB w))
  | 0xA2 => .ok (.ldX4 (fD w) (fA w) (fB w))
  | 0xA3 => .ok (.st (fD w) (fA w) (fB w))
  | 0xA4 => .ok (.stX2 (fD w) (fA w) (fB w))
  | 0xA5 => .ok (.stX4 (fD w) (fA w) (fB w))
  | 0xA6 => .ok (.lds (fD w) (fA w) (fB w))
  | 0xA7 => .ok (.ldsX4 (fD w) (fA w) (fB w))
  | 0xA8 => .ok (.sts (fD w) (fA w) (fB w))
  | 0xA9 => .ok (.stsX4 (fD w) (fA w) (fB w))
  | 0xAA => .ok (.ldAcq (fD w) (fA w) (fB w))
  | 0xAB => .ok (.stRel (fD w) (fA w) (fB w))
  | 0xAC => .ok (.atomAdd (fD w) (fA w) (fB w))
  | 0xAD => .ok (.atomMin (fD w) (fA w) (fB w))
  | 0xAE => .ok (.atomMax (fD w) (fA w) (fB w))
  | 0xAF => .ok (.atomAnd (fD w) (fA w) (fB w))
  | 0xB0 => .ok (.atomOr (fD w) (fA w) (fB w))
  | 0xB1 => .ok (.atomXor (fD w) (fA w) (fB w))
  | 0xB2 => .ok (.atomXchg (fD w) (fA w) (fB w))
  | 0xB3 => .ok (.atomCas (fD w) (fA w) (fB w))
  | 0xB4 => .ok (.atomFadd (fD w) (fA w) (fB w))
  | 0xB5 => need 0xB5 (fD w == 0) (.redAdd (fA w) (fB w))
  | 0xB6 => .ok (.atomsAdd (fD w) (fA w) (fB w))
  | 0xB7 => .ok (.atomsCas (fD w) (fA w) (fB w))
  | 0xB8 => need 0xB8 (fD w == 0 && fA w == 0 && fB w == 0) (.fence)
  | 0xB9 => need 0xB9 (fD w == 0 && fA w == 0 && fB w == 0) (.fenceBank)
  | 0xBA => .ok (.stashMap (fD w) (fA w) (fB w))
  | 0xBB => need 0xBB (fD w == 0) (.stashWb (fA w) (fB w))
  | 0xBC => need 0xBC (fD w == 0) (.stashInv (fA w) (fB w))
  | 0xBD => need 0xBD (fD w == 0 && fB w == 0) (.mdead (fA w))
  | 0xBE => need 0xBE (fD w == 0) (.pref (fA w) (fB w))
  | 0xBF => .ok (.movCpy (fD w) (fA w) (fB w) sync)
  | 0xC0 => .ok (.movGth (fD w) (fA w) (fB w) sync)
  | 0xC1 => .ok (.movSct (fD w) (fA w) (fB w) sync)
  | 0xC2 => .ok (.putCmd (fD w) (fA w) (fB w) sync)
  | 0xC3 => .ok (.getCmd (fD w) (fA w) (fB w) sync)
  | 0xC4 => .ok (.ratom (fD w) (fA w) (fB w) sync)
  | 0xC5 => .ok (.bopAdd (fD w) (fA w) (fB w) sync)
  | 0xC6 => .ok (.bopAxpy (fD w) (fA w) (fB w) sync)
  | 0xC7 => .ok (.bopMax (fD w) (fA w) (fB w) sync)
  | 0xC8 => .ok (.bopCvt (fD w) (fA w) (fB w) sync)
  | 0xC9 => need 0xC9 (fA w == 0) (.bopFill (fD w) (fB w) sync)
  | 0xCA => .ok (.collAr (fD w) (fA w) (fB w) sync)
  | 0xCB => .ok (.collAg (fD w) (fA w) (fB w) sync)
  | 0xCC => .ok (.collRs (fD w) (fA w) (fB w) sync)
  | 0xCD => .ok (.collA2a (fD w) (fA w) (fB w) sync)
  | 0xCE => .ok (.collBc (fD w) (fA w) (fB w) sync)
  | 0xD0 => .ok (.mode (fL w))
  | 0xD1 => .ok (.lit (fL w))
  | 0xD2 => need 0xD2 (fD w == 0 && fA w == 0) (.lith (fB w))
  | 0xD3 => .ok (.bra (fL w))
  | 0xD4 => .ok (.call (fL w))
  | 0xD5 => need 0xD5 (fD w == 0 && fA w == 0 && fB w == 0) (.ret)
  | 0xD6 => need 0xD6 (fD w == 0 && fB w == 0) (.jmp (fA w))
  | 0xD7 => need 0xD7 (fA w == 0 && fB w == 0) (.cbarSet (fD w))
  | 0xD8 => need 0xD8 (fA w == 0 && fB w == 0) (.cbarWait (fD w))
  | 0xD9 => .ok (.callm (fD w) (fA w) (fB w))
  | 0xDA => need 0xDA (fD w == 0) (.mstore (fA w) (fB w))
  | 0xDB => .ok (.suspGroup (fL w) sync)
  | 0xDC => .ok (.syncGroup (fL w) sync)
  | 0xDD => need 0xDD (fA w == 0 && fB w == 0) (.arrive (fD w))
  | 0xDE => need 0xDE (fD w == 0 && fA w == 0 && fB w == 0) (.endGroup sync)
  | 0xDF => need 0xDF (fD w == 0 && fA w == 0 && fB w == 0) (.yieldGroup)
  | 0xE0 => need 0xE0 (fB w == 0) (.chOpen (fD w) (fA w))
  | 0xE1 => need 0xE1 (fB w == 0) (.chClose (fD w) (fA w))
  | 0xE2 => need 0xE2 (fB w == 0) (.semaAdd (fD w) (fA w))
  | 0xE3 => need 0xE3 (fB w == 0) (.semaRd (fD w) (fA w))
  | 0xE4 => .ok (.taskPost (fD w) (fA w) (fB w) sync)
  | 0xE5 => need 0xE5 (fD w == 0) (.taskDep (fA w) (fB w))
  | 0xE6 => need 0xE6 (fD w == 0) (.taskSig (fA w) (fB w))
  | 0xE7 => .ok (.taskPull (fD w) (fA w) (fB w))
  | 0xE8 => .ok (.launch (fD w) (fA w) (fB w) sync)
  | 0xE9 => need 0xE9 (fB w == 0) (.tokNew (fD w) (fA w))
  | 0xEA => .ok (.tokRd (fD w) (fA w) (fB w))
  | 0xEB => .ok (.tokWr (fD w) (fA w) (fB w))
  | 0xEC => need 0xEC (fD w == 0 && fB w == 0) (.tokNext (fA w))
  | 0xED => need 0xED (fD w == 0) (.tokSend (fA w) (fB w) sync)
  | 0xEE => need 0xEE (fD w == 0 && fB w == 0) (.tokRet (fA w))
  | 0xF0 => .ok (.trap (fL w))
  | 0xF1 => need 0xF1 (fD w == 0 && fA w == 0 && fB w == 0) (.rte)
  | 0xF2 => need 0xF2 (fB w == 0) (.sregRd (fD w) (fA w))
  | 0xF3 => need 0xF3 (fD w == 0) (.sregWr (fA w) (fB w))
  | 0xF4 => need 0xF4 (fB w == 0) (.opreg (fD w) (fA w))
  | 0xF5 => need 0xF5 (fB w == 0) (.beltSet (fD w) (fA w))
  | 0xF6 => need 0xF6 (fB w == 0) (.traySet (fD w) (fA w))
  | 0xF7 => need 0xF7 (fB w == 0) (.genRaise (fD w) (fA w))
  | 0xF8 => .ok (.ctxSave (fD w) (fA w) (fB w) sync)
  | 0xF9 => .ok (.ctxLoad (fD w) (fA w) (fB w) sync)
  | 0xFA => need 0xFA (fD w == 0 && fA w == 0 && fB w == 0) (.halt)
  | 0xFB => .ok (.census (fD w) (fA w) (fB w))
  | 0xFC => need 0xFC (fA w == 0 && fB w == 0) (.pmcSnap (fD w))
  | _ => .ok (.illegalOpcode w)

def word4 (b0 b1 b2 b3 : Byte) : BitVec 32 := b3 ++ b2 ++ b1 ++ b0

/-- Decode the bytes at a PC, in memory order. -/
def decodeBytes : List Byte → DecodeResult
  | b0 :: b1 :: b2 :: b3 :: rest =>
    let w := word4 b0 b1 b2 b3
    if twoWords (opOf w) then
      match rest with
      | c0 :: c1 :: c2 :: c3 :: _ => decodeWords w (word4 c0 c1 c2 c3)
      | _ => .bad .tooShort
    else decodeWords w 0
  | _ => .bad .tooShort

def byteAt (w i : Nat) : Byte := BitVec.ofNat 8 (w / 2 ^ (8 * i))
/-- The bytes of an instruction whose bits are w, bit 0 the least significant of its first word. -/
def tableBytes (w : Nat) : List Byte := (List.range 8).map (byteAt w)

/-- The instruction the decoder reads from bits numbered as the opcode table numbers them; bits above nbits are 0. -/
def decodeTableWord (nbits w : Nat) : Option Instr :=
  match decodeBytes (tableBytes (w % 2 ^ nbits)) with
  | .ok i => some i
  | .bad _ => none

/-- The words of an instruction; the steps that are no instruction words have none. -/
def encode : Instr → List (BitVec 32)
  | .nop => [packDAB 0x00 0 0 0]
  | .mov d a => [packDAB 0x01 d a 0]
  | .sel d a b => [packDAB 0x02 d a b]
  | .add d a b => [packDAB 0x03 d a b]
  | .sub d a b => [packDAB 0x04 d a b]
  | .mul d a b => [packDAB 0x05 d a b]
  | .mulh d a b => [packDAB 0x06 d a b]
  | .mulw d a b => [packDAB 0x07 d a b]
  | .mad d a b => [packDAB 0x08 d a b]
  | .div d a b => [packDAB 0x09 d a b]
  | .rem d a b => [packDAB 0x0A d a b]
  | .imin d a b => [packDAB 0x0B d a b]
  | .imax d a b => [packDAB 0x0C d a b]
  | .abs d a => [packDAB 0x0D d a 0]
  | .neg d a => [packDAB 0x0E d a 0]
  | .add64 d a b => [packDAB 0x0F d a b]
  | .sub64 d a b => [packDAB 0x10 d a b]
  | .bAnd d a b => [packDAB 0x11 d a b]
  | .bOr d a b => [packDAB 0x12 d a b]
  | .bXor d a b => [packDAB 0x13 d a b]
  | .bNot d a => [packDAB 0x14 d a 0]
  | .andn d a b => [packDAB 0x15 d a b]
  | .shl d a b => [packDAB 0x16 d a b]
  | .shr d a b => [packDAB 0x17 d a b]
  | .sar d a b => [packDAB 0x18 d a b]
  | .rot d a b => [packDAB 0x19 d a b]
  | .popc d a => [packDAB 0x1A d a 0]
  | .clz d a => [packDAB 0x1B d a 0]
  | .ctz d a => [packDAB 0x1C d a 0]
  | .brev d a => [packDAB 0x1D d a 0]
  | .bfx d a b => [packDAB 0x1E d a b]
  | .bfi d a b => [packDAB 0x1F d a b]
  | .bmix d a b => [packDAB 0x20 d a b]
  | .lea d a b => [packDAB 0x21 d a b]
  | .lea64 d a b => [packDAB 0x22 d a b]
  | .cmpEq d a b => [packDAB 0x23 d a b]
  | .cmpNe d a b => [packDAB 0x24 d a b]
  | .cmpLt d a b => [packDAB 0x25 d a b]
  | .cmpLe d a b => [packDAB 0x26 d a b]
  | .cmpGt d a b => [packDAB 0x27 d a b]
  | .cmpGe d a b => [packDAB 0x28 d a b]
  | .pand d a b => [packDAB 0x29 d a b]
  | .por d a b => [packDAB 0x2A d a b]
  | .pxor d a b => [packDAB 0x2B d a b]
  | .pnot d a => [packDAB 0x2C d a 0]
  | .p2v d => [packDAB 0x2D d 0 0]
  | .v2p a => [packDAB 0x2E 0 a 0]
  | .xchIdx d a b => [packDAB 0x2F d a b]
  | .xchXor d a b => [packDAB 0x30 d a b]
  | .xchUp d a b => [packDAB 0x31 d a b]
  | .xchDn d a b => [packDAB 0x32 d a b]
  | .lnany d a => [packDAB 0x33 d a 0]
  | .lnall d a => [packDAB 0x34 d a 0]
  | .lnmask d a => [packDAB 0x35 d a 0]
  | .rdlane d a b => [packDAB 0x36 d a b]
  | .wrlane d a b => [packDAB 0x37 d a b]
  | .iredAdd d a => [packDAB 0x38 d a 0]
  | .iredMin d a => [packDAB 0x39 d a 0]
  | .iredMax d a => [packDAB 0x3A d a 0]
  | .iscanAdd d a => [packDAB 0x3B d a 0]
  | .lneq d a => [packDAB 0x3C d a 0]
  | .fadd d a b => [packDAB 0x40 d a b]
  | .fsub d a b => [packDAB 0x41 d a b]
  | .fmul d a b => [packDAB 0x42 d a b]
  | .fma d a b => [packDAB 0x43 d a b]
  | .fms d a b => [packDAB 0x44 d a b]
  | .fnma d a b => [packDAB 0x45 d a b]
  | .fmin d a b => [packDAB 0x46 d a b]
  | .fmax d a b => [packDAB 0x47 d a b]
  | .fabs d a => [packDAB 0x48 d a 0]
  | .fneg d a => [packDAB 0x49 d a 0]
  | .fcmpEq d a b => [packDAB 0x4A d a b]
  | .fcmpNe d a b => [packDAB 0x4B d a b]
  | .fcmpLt d a b => [packDAB 0x4C d a b]
  | .fcmpLe d a b => [packDAB 0x4D d a b]
  | .fcmpUn d a b => [packDAB 0x4E d a b]
  | .fclass d a => [packDAB 0x4F d a 0]
  | .frcp d a => [packDAB 0x50 d a 0]
  | .frsq d a => [packDAB 0x51 d a 0]
  | .fsqrt d a => [packDAB 0x52 d a 0]
  | .fdiv d a b => [packDAB 0x53 d a b]
  | .fexp2 d a => [packDAB 0x54 d a 0]
  | .flog2 d a => [packDAB 0x55 d a 0]
  | .fsin d a => [packDAB 0x56 d a 0]
  | .fcos d a => [packDAB 0x57 d a 0]
  | .ftanh d a => [packDAB 0x58 d a 0]
  | .fsigm d a => [packDAB 0x59 d a 0]
  | .frnd d a => [packDAB 0x5A d a 0]
  | .fdot2 d a b => [packDAB 0x5B d a b]
  | .fdot4 d a b => [packDAB 0x5C d a b]
  | .idot4 d a b => [packDAB 0x5D d a b]
  | .cvtF2i d a => [packDAB 0x5E d a 0]
  | .cvtI2f d a => [packDAB 0x5F d a 0]
  | .cvtUpLo d a => [packDAB 0x60 d a 0]
  | .cvtUpHi d a => [packDAB 0x61 d a 0]
  | .cvtDn d a b => [packDAB 0x62 d a b]
  | .cvtDn4 d a b => [packDAB 0x63 d a b]
  | .qblk d a => [packDAB 0x64 d a 0]
  | .dqblk d a b => [packDAB 0x65 d a b]
  | .nibpk d a b => [packDAB 0x66 d a b]
  | .fredAdd d a => [packDAB 0x67 d a 0]
  | .fredMax d a => [packDAB 0x68 d a 0]
  | .fscanAdd d a => [packDAB 0x69 d a 0]
  | .argmax d a b => [packDAB 0x6A d a b]
  | .rand d => [packDAB 0x6B d 0 0]
  | .randf d => [packDAB 0x6C d 0 0]
  | .smxup d a => [packDAB 0x6D d a 0]
  | .mcolAlloc d a b => [packDAB 0x80 d a b]
  | .mcolFree d => [packDAB 0x81 d 0 0]
  | .mtileLd d a b sync => [packDAB 0x82 d a b, sync]
  | .mtileSt d a b sync => [packDAB 0x83 d a b, sync]
  | .mtileHdr d a => [packDAB 0x84 d a 0]
  | .mwload d a sync => [packDAB 0x85 d a 0, sync]
  | .mwswap d sync => [packDAB 0x86 d 0 0, sync]
  | .mma d a b sync => [packDAB 0x87 d a b, sync]
  | .mmaSp d a b sync => [packDAB 0x88 d a b, sync]
  | .maccZero d a sync => [packDAB 0x89 d a 0, sync]
  | .maccRd d a b sync => [packDAB 0x8A d a b, sync]
  | .mcfg a => [packDAB 0x8B 0 a 0]
  | .ld d a b => [packDAB 0xA0 d a b]
  | .ldX2 d a b => [packDAB 0xA1 d a b]
  | .ldX4 d a b => [packDAB 0xA2 d a b]
  | .st d a b => [packDAB 0xA3 d a b]
  | .stX2 d a b => [packDAB 0xA4 d a b]
  | .stX4 d a b => [packDAB 0xA5 d a b]
  | .lds d a b => [packDAB 0xA6 d a b]
  | .ldsX4 d a b => [packDAB 0xA7 d a b]
  | .sts d a b => [packDAB 0xA8 d a b]
  | .stsX4 d a b => [packDAB 0xA9 d a b]
  | .ldAcq d a b => [packDAB 0xAA d a b]
  | .stRel d a b => [packDAB 0xAB d a b]
  | .atomAdd d a b => [packDAB 0xAC d a b]
  | .atomMin d a b => [packDAB 0xAD d a b]
  | .atomMax d a b => [packDAB 0xAE d a b]
  | .atomAnd d a b => [packDAB 0xAF d a b]
  | .atomOr d a b => [packDAB 0xB0 d a b]
  | .atomXor d a b => [packDAB 0xB1 d a b]
  | .atomXchg d a b => [packDAB 0xB2 d a b]
  | .atomCas d a b => [packDAB 0xB3 d a b]
  | .atomFadd d a b => [packDAB 0xB4 d a b]
  | .redAdd a b => [packDAB 0xB5 0 a b]
  | .atomsAdd d a b => [packDAB 0xB6 d a b]
  | .atomsCas d a b => [packDAB 0xB7 d a b]
  | .fence => [packDAB 0xB8 0 0 0]
  | .fenceBank => [packDAB 0xB9 0 0 0]
  | .stashMap d a b => [packDAB 0xBA d a b]
  | .stashWb a b => [packDAB 0xBB 0 a b]
  | .stashInv a b => [packDAB 0xBC 0 a b]
  | .mdead a => [packDAB 0xBD 0 a 0]
  | .pref a b => [packDAB 0xBE 0 a b]
  | .movCpy d a b sync => [packDAB 0xBF d a b, sync]
  | .movGth d a b sync => [packDAB 0xC0 d a b, sync]
  | .movSct d a b sync => [packDAB 0xC1 d a b, sync]
  | .putCmd d a b sync => [packDAB 0xC2 d a b, sync]
  | .getCmd d a b sync => [packDAB 0xC3 d a b, sync]
  | .ratom d a b sync => [packDAB 0xC4 d a b, sync]
  | .bopAdd d a b sync => [packDAB 0xC5 d a b, sync]
  | .bopAxpy d a b sync => [packDAB 0xC6 d a b, sync]
  | .bopMax d a b sync => [packDAB 0xC7 d a b, sync]
  | .bopCvt d a b sync => [packDAB 0xC8 d a b, sync]
  | .bopFill d b sync => [packDAB 0xC9 d 0 b, sync]
  | .collAr d a b sync => [packDAB 0xCA d a b, sync]
  | .collAg d a b sync => [packDAB 0xCB d a b, sync]
  | .collRs d a b sync => [packDAB 0xCC d a b, sync]
  | .collA2a d a b sync => [packDAB 0xCD d a b, sync]
  | .collBc d a b sync => [packDAB 0xCE d a b, sync]
  | .mode l => [packL 0xD0 l]
  | .lit l => [packL 0xD1 l]
  | .lith l => [packDAB 0xD2 0 0 l]
  | .bra l => [packL 0xD3 l]
  | .call l => [packL 0xD4 l]
  | .ret => [packDAB 0xD5 0 0 0]
  | .jmp a => [packDAB 0xD6 0 a 0]
  | .cbarSet d => [packDAB 0xD7 d 0 0]
  | .cbarWait d => [packDAB 0xD8 d 0 0]
  | .callm d a b => [packDAB 0xD9 d a b]
  | .mstore a b => [packDAB 0xDA 0 a b]
  | .suspGroup l sync => [packL 0xDB l, sync]
  | .syncGroup l sync => [packL 0xDC l, sync]
  | .arrive d => [packDAB 0xDD d 0 0]
  | .endGroup sync => [packDAB 0xDE 0 0 0, sync]
  | .yieldGroup => [packDAB 0xDF 0 0 0]
  | .chOpen d a => [packDAB 0xE0 d a 0]
  | .chClose d a => [packDAB 0xE1 d a 0]
  | .semaAdd d a => [packDAB 0xE2 d a 0]
  | .semaRd d a => [packDAB 0xE3 d a 0]
  | .taskPost d a b sync => [packDAB 0xE4 d a b, sync]
  | .taskDep a b => [packDAB 0xE5 0 a b]
  | .taskSig a b => [packDAB 0xE6 0 a b]
  | .taskPull d a b => [packDAB 0xE7 d a b]
  | .launch d a b sync => [packDAB 0xE8 d a b, sync]
  | .tokNew d a => [packDAB 0xE9 d a 0]
  | .tokRd d a b => [packDAB 0xEA d a b]
  | .tokWr d a b => [packDAB 0xEB d a b]
  | .tokNext a => [packDAB 0xEC 0 a 0]
  | .tokSend a b sync => [packDAB 0xED 0 a b, sync]
  | .tokRet a => [packDAB 0xEE 0 a 0]
  | .trap l => [packL 0xF0 l]
  | .rte => [packDAB 0xF1 0 0 0]
  | .sregRd d a => [packDAB 0xF2 d a 0]
  | .sregWr a b => [packDAB 0xF3 0 a b]
  | .opreg d a => [packDAB 0xF4 d a 0]
  | .beltSet d a => [packDAB 0xF5 d a 0]
  | .traySet d a => [packDAB 0xF6 d a 0]
  | .genRaise d a => [packDAB 0xF7 d a 0]
  | .ctxSave d a b sync => [packDAB 0xF8 d a b, sync]
  | .ctxLoad d a b sync => [packDAB 0xF9 d a b, sync]
  | .halt => [packDAB 0xFA 0 0 0]
  | .census d a b => [packDAB 0xFB d a b]
  | .pmcSnap d => [packDAB 0xFC d 0 0]
  | .illegalOpcode w => [w]
  | .storeEntryExec => []
  | .trapBackoffExpiry _ _ => []
  | .pathRunLimit _ => []
  | .groupStarved _ => []
  | .translationAnswer _ _ => []
  | .loadReturn _ => []
  | .accessFailureReturn _ _ _ => []
  | .boundaryTaken _ => []
  | .continuationDispatch _ => []
  | .convergenceFault _ => []
  | .commandStart _ => []
  | .semaAddApply _ => []
  | .mtileComplete _ => []
  | .mwloadComplete _ => []
  | .mwswapDone _ => []
  | .mmaComplete _ => []
  | .maccZeroComplete _ => []
  | .maccRdComplete _ => []
  | .mcfgEffect _ => []
  | .moverComplete _ => []
  | .putGetComplete _ => []
  | .ratomComplete _ => []
  | .bankPiece _ => []
  | .collectiveComplete _ => []
  | .collectiveAbort _ => []
  | .taskPostComplete _ => []
  | .launchRootAnswer _ => []
  | .tokenArrival _ => []
  | .tokSendOutcome _ => []
  | .ctxSaveComplete _ => []
  | .ctxLoadComplete _ => []
  | .dependantDecrement _ => []
  | .trailingPutAck _ => []
  | .trailingPutFail _ => []
  | .faultedEntryRelease _ => []
  | .readyAging _ => []
  | .taskDispatch _ _ _ _ => []
  | .drainRetake _ => []
  | .taskKill _ => []
  | .pullServed _ _ => []
  | .pullTimeout _ => []
  | .rangeDistribution _ => []
  | .heldPartPlaced _ _ => []
  | .chunkDispatch _ _ _ _ => []
  | .quadSteal _ _ => []
  | .dieStealRequest _ _ => []
  | .gatherComplete _ _ => []
  | .trayTimeout _ _ => []
  | .deferredTileFire _ _ => []
  | .beltSlotActive _ _ => []
  | .preloadComplete _ _ => []
  | .readoutComplete _ _ => []
  | .submissionLaunch _ _ => []
  | .submissionRequest _ => []
  | .submissionReserved _ => []
  | .submissionComplete _ _ => []
  | .doorbellWrite _ _ _ => []
  | .cxlMemRead _ _ => []
  | .cxlMemWrite _ _ _ => []
  | .hostSnoop _ => []
  | .cxlLinkDown _ => []
  | .remoteRequest _ => []
  | .stashRecall _ _ _ => []
  | .flitCrcError _ _ => []
  | .guardDrop _ _ => []
  | .ualinkBadTransaction _ _ => []
  | .ualinkPortDown _ _ => []
  | .peerLossTimeout _ _ => []
  | .dieSilenceLoss _ => []
  | .lossNotice _ _ => []
  | .lateAnswer _ => []
  | .ethCompletion _ => []
  | .ethRetryExhausted _ => []
  | .hlbWalkComplete _ _ _ _ => []
  | .ctcWalkComplete _ _ _ _ => []
  | .fresWrite _ _ => []
  | .streamLoaderAnswer _ => []
  | .genRaisePhaseEnd _ => []
  | .replicationEpoch _ => []
  | .pageCountDecay _ => []
  | .swapStart _ _ => []
  | .swapRemap _ _ => []
  | .deadPageZeroFill _ _ => []
  | .powerWindow _ _ => []
  | .sidebandExchange _ => []
  | .creditMessage _ => []
  | .lostGrantReturn _ => []
  | .borrowTimeout _ => []
  | .thermalHigh _ => []
  | .thermalRecover _ => []
  | .thermalTamper _ => []
  | .glitchAlarm _ => []
  | .debugAuthFail _ => []
  | .regulationFail _ => []
  | .powerOn _ _ _ => []
  | .dieBodyCheck _ _ => []
  | .spdmRequest _ _ => []
  | .errorDetected _ _ _ _ _ => []
  | .residueMismatch _ _ _ => []
  | .selfTestComplete _ _ _ => []
  | .scrubPass _ _ => []
  | .contextKill _ => []
  | .keyGenerate _ _ => []
  | .keyErase _ _ => []
  | .lbarAllocate _ _ _ => []
  | .lbarFree _ _ _ => []
  | .hctlKill _ => []
  | .alarmpolWrite _ _ => []
  | .registerWrite _ _ _ => []
  | .dbgRevocation _ => []
  | .debugResume _ => []
  | .scanSessionOpen _ _ _ _ => []
  | .scanStopEvent _ _ => []
  | .scanGating _ => []
  | .scanSessionEnd _ => []
  | .writeAcknowledgement _ => []
  | .taskSigDecrement _ => []
  | .taskDepAnswer _ => []
  | .collectiveFlitArrival _ _ _ => []
  | .ethFrameReceived _ _ => []
  | .stewardReclaim _ _ => []
  | .barrierArrivalMessage _ => []
  | .debugAgentHalt _ => []
  | .debugEditStage _ _ _ _ => []

/-- The opcode of an instruction that a word encodes. -/
def opcodeOf (i : Instr) : Nat :=
  match encode i with
  | w :: _ => opOf w
  | [] => 0
/-- How many words an instruction takes (R31). -/
def wordsOf (i : Instr) : Nat := (encode i).length

end Sys2Proof
end

