-- ==== Sys2Proof/Machine/Control.lean ====
section
/-! DEFINITION. Opcodes 0xD0 to 0xDF: mode and literals, transfers, convergence barriers, macros, and the firing
boundaries as they issue (02: R48 to R60; 12: R289 to R293; 14: R332 to R340). Taking a boundary stands in
Boundary.lean. -/
namespace Sys2Proof.Machine

/-! ### MODE, LIT, LITH (R48 to R51) -/

/-- The mode bits that a MODE literal's select mask writes. -/
def modeMask (l : BitVec 24) : Word :=
  (if l.getLsbD 23 then 0x000F0000#32 else 0) ||| (if l.getLsbD 22 then 0x0000F000#32 else 0) |||
  (if l.getLsbD 21 then 0x00000F80#32 else 0) ||| (if l.getLsbD 20 then 0x0000007C#32 else 0)
def modeWrite (l : BitVec 24) (m : Word) : Word := (m &&& ~~~(modeMask l)) ||| (l.zeroExtend 32 &&& modeMask l)
/-- A literal bit outside the select field and the selected groups. -/
def modeReserved (l : BitVec 24) : Bool := l.zeroExtend 32 &&& ~~~(modeMask l) &&& 0x000FFFFF#32 != 0
/-- A code that no mode register may hold (R49). -/
def modeInvalid (l : BitVec 24) : Bool :=
  let w := l.toNat
  (l.getLsbD 22 && decide (14 ≤ bitsOf w 15 12)) || (l.getLsbD 21 && decide (6 ≤ bitsOf w 11 9)) || (l.getLsbD 20 && bitsOf w 6 4 == 7)

/-- MODE (R48 to R50): every lane of the path takes it, whatever its guard. -/
def execMode (l : BitVec 24) (s : State) : Out :=
  let r : Rule := { instr := .mode l, reserved := fun _ _ => modeReserved l,
                    all := fun _ _ => none,
                    own := fun s _ i => if modeInvalid l then some ⟨6, cMODE_INVALID, laneMode s i⟩ else none }
  .next (issueWith r s.cur.lanes s fun s ok =>
    advance (s.onLanes s.cur.g (lanesIn ok) fun _ y => { y with mode := modeWrite l y.mode }) s.cur.g 1 ok)

/-- LIT (R51). -/
def execLit (l : BitVec 24) (s : State) : Out :=
  issue { instr := .lit l } s fun s ok => s.onLanes s.cur.g (lanesIn ok) fun _ y => { y with k := l.signExtend 32 }

/-- LITH (R51). -/
def execLith (l : BitVec 8) (s : State) : Out :=
  issue { instr := .lith l } s fun s ok =>
    s.onLanes s.cur.g (lanesIn ok) fun _ y => { y with k := l ++ y.k.extractLsb' 0 24 }

/-! ### Transfers (R34, R59, R333, R334) -/

def litTarget (pc : BitVec 56) (l : BitVec 24) : BitVec 56 := pc + l.signExtend 56 * 4
/-- The last entry of a macro: the first whose LAST bit is set; none if the macro is empty (R56). -/
def macLast (s : State) (ck idx : Nat) : Option Nat := (List.range 32).find? fun e => bitOf (storeEntry s ck idx e) 32
def macInfo (m : MacPos) : Nat := m.index * 256 + m.entry
/-- A transfer: `target` gives each issuing lane its new state. -/
def transfer (r : Rule) (s : State) (target : State → Nat → Lane → Lane) : Out :=
  .next (issueRaw r s fun s ok =>
    let g := s.cur.g
    let ls := (lanesIn ok).map fun l => (l, target s l (s.lane g l))
    ls.foldl (fun s p => s.setLane g p.1 p.2) ((popCodes r.instr).foldl (fun s c => popChan s g c) s))

/-- BRA (R333); inside a macro it counts entries (R59). -/
def execBra (l : BitVec 24) (s : State) : Out :=
  let dest (m : MacPos) : Int := (m.entry : Int) + l.toInt
  let cause (s : State) (_ : Mask) : Option Trap :=
    match s.cur.mac with
    | none => none
    | some m =>
      if dest m < 0 || decide (((macLast s (ckOf s.cur.g) m.index).getD 31 : Int) < dest m) then some ⟨15, cMACRO_FAULT, macInfo m⟩ else none
  transfer { instr := .bra l, all := cause } s fun _ _ y =>
    match y.mac with
    | none => { y with pc := litTarget y.pc l }
    | some m => { y with mac := some { m with entry := (dest m).toNat } }

/-- CALL (R333, R334). -/
def execCall (l : BitVec 24) (s : State) : Out :=
  transfer { instr := .call l, own := fun s _ i => if 16 ≤ (s.lane s.cur.g i).ret.length then some ⟨11, cPROTECTION, 0⟩ else none } s
    fun _ _ y => { y with ret := (y.pc + 4) :: y.ret, pc := litTarget y.pc l }

/-- What kills a task when a handler lane does it (R407). -/
def handlerKill (s : State) (cause : Nat) : State :=
  killTask (countIssue s) (s.grp s.cur.g).task cause (curSite s) (s.grp s.cur.g).taddr.toNat
/-- Whether an issuing lane is a handler lane. -/
def anyHandler (s : State) : Bool := (lanesIn (issuing s)).any fun l => (s.lane s.cur.g l).inHandler
/-- An instruction that handler lanes may not issue: the report's cause field is 0, which is no cause (R406, R407; log 14). -/
def noHandler (s : State) (k : Out) : Out := if anyHandler s then .next (handlerKill s 0) else k

/-- RET (R333, R334); a handler lane may not pop what its delivery saved (R407). -/
def execRet (s : State) : Out :=
  let deep := (lanesIn (issuing s)).any fun l => let y := s.lane s.cur.g l; y.inHandler && decide (y.ret.length ≤ y.savedDepth)
  if deep then .next (handlerKill s 0) else
  transfer { instr := .ret, own := fun s _ i => if (s.lane s.cur.g i).ret.isEmpty then some ⟨11, cPROTECTION, 0⟩ else none } s
    fun _ _ y => { y with pc := y.ret.headD 0, ret := y.ret.tail }

/-- JMP (R333). -/
def execJmp (a : Code) (s : State) : Out :=
  let t (s : State) (l : Nat) : Nat := rdP s l a
  let cause (s : State) (_ : Mask) (l : Nat) : Option Trap :=
    if 2 ^ 56 ≤ t s l then some ⟨11, cPROTECTION, t s l⟩ else if t s l % 4 ≠ 0 then some ⟨12, cALIGN, t s l⟩ else none
  transfer { instr := .jmp a, own := cause } s
    fun s l y => { y with pc := BitVec.ofNat 56 (t s l) }

/-! ### Convergence barriers (R289, R335) -/

/-- CBAR.SET (R289). -/
def execCbarSet (d : Code) (s : State) : Out :=
  issue { instr := .cbarSet d,
          all := fun s _ => if ((s.grp s.cur.g).cb d.toNat).arrived != 0 then some ⟨9, cCONVERGENCE, curWord s⟩ else none } s
    fun s ok => s.modGrp s.cur.g fun x => x.setCb d.toNat { expected := ok, arrived := 0 }

/-- CBAR.WAIT (R289, R335): expected lanes wait, others advance; a lane of the path with a false guard is withdrawn. -/
def execCbarWait (d : Code) (s : State) : Out :=
  let g := s.cur.g
  let b := d.toNat
  let off := s.cur.lanes &&& ~~~(issuing s)
  let s' := issueRaw { instr := .cbarWait d } s fun s ok =>
    let join := ok &&& ((s.grp g).cb b).expected
    let s := advance s g 1 (ok &&& ~~~join)
    let s := s.modGrp g fun x => let c := x.cb b; x.setCb b { c with arrived := c.arrived ||| join }
    s.onLanes g (lanesIn join) fun _ y => { y with stand := .cbar b }
  .next (if b < 8 ∧ Tab.has s'.groups g then releaseCbar (withdraw s' g b off) g b else s')

/-! ### Macros (R56 to R60) -/

/-- CALLM (R58): its lanes enter the macro that λ's k names. -/
def execCallm (d a b : Code) (s : State) : Out :=
  let idx (s : State) (m : Mask) : Nat := laneK s (lam m) % 64
  let cause (s : State) (m : Mask) (l : Nat) : Option Trap :=
    if laneK s l % 64 ≠ idx s m then some ⟨9, cCONVERGENCE, curWord s⟩
    else if (macLast s (ckOf s.cur.g) (idx s m)).isNone then some ⟨15, cMACRO_FAULT, idx s m * 256⟩ else none
  noHandler s <| .next (issueRaw { instr := .callm d a b, own := cause } s fun s ok =>
      let m : MacPos := { index := idx s ok, entry := 0, call := s.cur.word }
      s.onLanes s.cur.g (lanesIn ok) fun _ y => { y with mac := some m })

/-- The opcodes of the L24 form (R332, R403). -/
def l24Op (op : Nat) : Bool := (decide (0xD0 ≤ op) && decide (op ≤ 0xD4)) || op == 0xDB || op == 0xDC || op == 0xF0
/-- Opcodes that a macro must not contain (R57). -/
def macBanned (op : Nat) : Bool :=
  twoWords op || op == 0xD9 || op == 0xDA || op == 0xDF || op == 0xD4 || op == 0xD5 || op == 0xD6 || op == 0xF1
def reservedOp (op : Nat) : Bool :=
  match decodeWords (BitVec.ofNat 32 (op * 2 ^ 24)) 0 with
  | .ok (.illegalOpcode _) => true
  | _ => false
/-- MSTORE (R57, R60): the entry number is read by the instructions that issue after it. -/
def execMstore (a b : Code) (s : State) : Out :=
  let op (s : State) (m : Mask) := rdA s (lam m) a
  let loc (s : State) (m : Mask) := rdA s (lam m) b
  let bad (s : State) (m : Mask) : Bool :=
    let w := loc s m
    let o := op s m / 2 ^ 24
    bitsOf w 7 6 != 0 || bitsOf w 15 13 != 0 || bitsOf w 23 22 != 0 || bitsOf w 31 25 != 0 ||
      reservedOp o || (l24Op o && bitsOf w 21 16 != 0) || macBanned o
  let cause (s : State) (m : Mask) : Option Trap :=
    if bad s m then some ⟨15, cMACRO_FAULT, bitsOf (loc s m) 5 0 * 256 + bitsOf (loc s m) 12 8⟩ else none
  issue { instr := .mstore a b, steward := true, all := cause } s
    fun s ok =>
      let w := loc s ok
      let v : BitVec 39 := BitVec.ofNat 39 (op s ok + 2 ^ 32 * bitsOf w 24 24 + 2 ^ 33 * bitsOf w 17 16 + 2 ^ 35 * bitsOf w 19 18 + 2 ^ 37 * bitsOf w 21 20)
      let s := (popCodes (.mstore a b)).foldl (fun s c => popChan s s.cur.g c) s
      { s with store := Tab.set s.store 0#39 (ckOf s.cur.g * 2048 + bitsOf w 5 0 * 32 + bitsOf w 12 8) v }

/-- A field of a macro entry after substitution (R58). -/
def substField (sel : Nat) (stored : Code) (call : Word) : Code :=
  match sel with
  | 1 => fD call
  | 2 => fA call
  | 3 => fB call
  | _ => stored
/-- The operation of an entry with the fields of its call. -/
def substWord (e : Nat) (call : Word) : Word :=
  let w : Word := BitVec.ofNat 32 e
  w.extractLsb' 24 8 ++ substField (bitsOf e 38 37) (fD w) call ++ substField (bitsOf e 36 35) (fA w) call ++ substField (bitsOf e 34 33) (fB w) call

/-- An instruction word that decodes to nothing because a field it does not use is not zero (R33, R51): PRIVILEGE
first for a steward instruction. -/
def stewardOp (op : Nat) : Bool := op == 0xDA || (decide (0xF4 ≤ op) && decide (op ≤ 0xF9)) || op == 0xFB
def unusedTrap (s : State) (op : Nat) : State :=
  let t : Trap := if stewardOp op && !isDcc s.cur.g then ⟨3, cPRIVILEGE, curWord s⟩ else ⟨4, cRESERVED_FIELD, curWord s⟩
  let m := if op = 0xD0 then s.cur.lanes else issuing s
  let g := s.cur.g
  let n := if twoWords op then 2 else 1
  let s := advance (countIssue s) g n (s.cur.lanes &&& ~~~m)
  deliver s g ((lanesIn m).map fun l => (l, t)) 0 s.cur.pc s.cur.mac
/-- ILLEGAL_OPCODE (R53): ILLEGAL_OP to every issuing lane. -/
def execIllegalOpcode (w : BitVec 32) (s : State) : Out :=
  .next (issueRaw { instr := .illegalOpcode w, all := fun s _ => some ⟨2, cILLEGAL_OP, curWord s⟩ } s fun s _ => s)

/-- MACRO_ENTRY_EXEC (R58): the entry at the path's place is read, its fields are substituted, and the operation
is checked like a fetched instruction; it is the next row of the agenda. -/
def execStoreEntryExec (s : State) : Out :=
  match s.cur.mac with
  | none => .next s
  | some m =>
    let w := substWord (storeEntry s (ckOf s.cur.g) m.index m.entry) m.call
    let s := { s with cur := { s.cur with word := w } }
    match decodeWords w 0 with
    | .ok i => .next { s with agenda := i :: s.agenda }
    | .bad _ => .next (unusedTrap s (opOf w))

/-! ### Firing boundaries as they issue (R293, R336 to R340) -/

/-- The lanes that are active and have not ended. -/
def liveLanes (s : State) (g : Nat) : Mask := maskOf fun l => (s.grp g).active.getLsbD l && (s.lane g l).stand != .ended
/-- The lanes stop at the boundary; the first issue of a boundary adds the group's increment (R336). -/
def standAt (i : Instr) (sync : BitVec 32) (s : State) (ok : Mask) : State :=
  let g := s.cur.g
  let x := s.grp g
  let s := if x.bounds.any (fun b => b.1 == s.cur.pc) then s else
    let s := s.setGrp g { x with bounds := x.bounds ++ [(s.cur.pc, i)] }
    if sEn sync then addPending s (ckOf g) (sSem sync) (sInc sync) else s
  s.onLanes g (lanesIn ok) fun _ y => { y with stand := .boundary }
def boundary (i : Instr) (n : Nat) (k : SyncKind) (sync : BitVec 32) (s : State) (cause : State → Mask → Option Trap) : Out :=
  .next (issueRaw { instr := i, words := n, boundary := true, sync := some (k, sync), all := cause } s (standAt i sync))

/-- SUSP (R336). -/
def execSuspGroup (l : BitVec 24) (sync : BitVec 32) (s : State) : Out :=
  noHandler s (boundary (.suspGroup l sync) 2 .command sync s fun _ _ => none)

/-- Whether a level barrier is not allocated to a group's context; team barriers always are (R301). -/
def barDenied (s : State) (g sel : Nat) : Bool :=
  let lv := sel / 32
  if lv = 0 then false else
  let b := s.lbar (lbarKey lv (sel % 32) (lbarPlace lv (gdOf g)))
  !b.en || b.ctx != (s.grp g).ctx

/-- SYNC (R337): it arrives when the group takes the boundary. -/
def execSyncGroup (l : BitVec 24) (sync : BitVec 32) (s : State) : Out :=
  noHandler s (boundary (.syncGroup l sync) 2 .sync sync s fun s _ =>
    if barDenied s s.cur.g (wSem sync) then some ⟨11, cPROTECTION, 0⟩ else none)

/-- A group arrives at the barrier of a selector; an arrival at a package or pod barrier travels to its root die as
a message (R302, R303). -/
def arriveAt (s : State) (g sel : Nat) (sync : Bool) : State :=
  let lv := sel / 32
  if lv = 0 then arriveTeam s g (sel % 32)
  else
    let k := lbarKey lv (sel % 32) (lbarPlace lv (gdOf g))
    if lv = 1 then arriveLevel s k (groupId s g) sync else sendMsg s (.arrival k (groupId s g) sync)

/-- ARRIVE (R337, R338): a release of the group's earlier accesses; a broken barrier gives COLLECTIVE_ABORTED (R304). -/
def execArrive (d : Code) (s : State) : Out :=
  let sel := d.toNat
  let cause (s : State) (m : Mask) : Option Trap :=
    let g := s.cur.g
    if m != liveLanes s g then some ⟨9, cCONVERGENCE, curWord s⟩
    else if barDenied s g sel then some ⟨11, cPROTECTION, 0⟩
    else if sel / 32 ≠ 0 ∧ (s.lbar (lbarKey (sel / 32) (sel % 32) (lbarPlace (sel / 32) (gdOf g)))).brk then some ⟨16, cCOLL_ABORTED, sel⟩
    else none
  noHandler s (issue { instr := .arrive d, reserved := fun _ _ => decide (128 ≤ sel), all := cause } s fun s _ =>
    arriveAt (writeBackCore s (ckOf s.cur.g)) s.cur.g sel false)

/-- END (R339); by handler lanes it ends them and leaves handler mode (R407). -/
def execEndGroup (sync : BitVec 32) (s : State) : Out :=
  if anyHandler s then
    if sync ≠ 0 then .next (handlerKill s cRESERVED_FIELD) else
    .next (issueRaw { instr := .endGroup sync, words := 2 } s fun s ok =>
      let g := s.cur.g
      let hs := maskOf fun l => ok.getLsbD l && (s.lane g l).inHandler
      let s := s.onLanes g (lanesIn hs) fun _ y => { y with stand := .ended, inHandler := false }
      let s := standAt (.endGroup sync) sync s (ok &&& ~~~hs)
      let s := if (lanesIn (s.grp g).active).any (fun l => (s.lane g l).inHandler) then s else leaveHandler s g
      if liveLanes s g = 0 then endGroup s g false else s)
  else boundary (.endGroup sync) 2 .endOf sync s fun _ _ => none

/-- YIELD (R340). -/
def execYieldGroup (s : State) : Out := noHandler s (boundary .yieldGroup 1 .endOf 0 s fun _ _ => none)

end Sys2Proof.Machine
end

