-- ==== Sys2Proof/Machine/Fetch.lean ====
section
/-! DEFINITION. Fetching the instruction at a place (R34, R35, R58, R76). -/
namespace Sys2Proof.Machine

/-- One word of code as a group's core fetches it (R35): the page must be readable and executable. -/
def fetchWord (s : State) (g va : Nat) : Except Prob Nat :=
  let gd := gdOf g
  match locate s gd (s.ctxOf (s.grp g).ctx).asid va with
  | .miss k h key => .error (.miss k h key va)
  | .at l =>
    if l.absent then .error (.absent l.gd l.page)
    else if peerLost s gd l then .error (.cause cPEER_LOST va l.gd)
    else if !guardOpen s (s.ctxOf (s.grp g).ctx).asid gd l.gd then .error (.cause cGUARD_DROP va l.gd)
    else if !(fR l.leaf && fX l.leaf) || l.obs then .error (.cause cPROTECTION va l.gd)
    else if chanHeld s l (s.ctxOf (s.grp g).ctx).asid va || gatedDie s l.gd then .error (.held l.gd l.page)
    else match homeRead s l 4 with
      | some bs => .ok (leValue bs)
      | none => .error (.cause cDATA_LOST va l.gd)

/-- What stands at a place. -/
inductive Fetched where
  | instr (i : Instr) (w : Word)
  | bad (w : Word)                      -- a field that the instruction does not use is not zero (R33, R51)
  | entry                               -- inside a macro
  | stop (p : Prob)
  deriving DecidableEq, Repr

def asFetched (w : Word) : DecodeResult → Fetched
  | .ok i => .instr i w
  | .bad _ => .bad w
/-- The instruction at an address: a two-word opcode takes the word after it as its sync word (R31, R36). -/
def fetchAt (s : State) (g : Nat) (pc : BitVec 56) : Fetched :=
  match fetchWord s g pc.toNat with
  | .error p => .stop p
  | .ok w =>
    let w := w32 w
    if twoWords (opOf w) then
      match fetchWord s g (pc + 4).toNat with
      | .error p => .stop p
      | .ok y => asFetched w (decodeWords w (w32 y))
    else asFetched w (decodeWords w 0)
def fetchPlace (s : State) (g : Nat) (pc : BitVec 56) (mac : Option MacPos) : Fetched :=
  match mac with
  | none => fetchAt s g pc
  | some _ => .entry
/-- The instruction that a macro's entry stands for at a place, if it decodes. -/
def instrAt (s : State) (g : Nat) (pc : BitVec 56) (mac : Option MacPos) : Option Instr :=
  match mac with
  | none => match fetchAt s g pc with
    | .instr i _ => some i
    | _ => none
  | some m => match decodeWords (substWord (storeEntry s (ckOf g) m.index m.entry) m.call) 0 with
    | .ok i => some i
    | .bad _ => none

/-- A fetch that stops (R35, R54): a miss parks the path at the first word, a cause goes to all its lanes. As the word is
not known, so are its guard use and its length: every lane of the path is an issuing lane of it, lanes whose guard is false
too (log 41). -/
def fetchStop (s : State) (g : Nat) (m : Mask) (pc : BitVec 56) (p : Prob) : Out :=
  let ls := lanesIn m
  match p with
  | .absent gd page => .fault (.absentPage gd page)
  | .held _ _ => .next s
  | .miss kind home key va =>
    .next (parkMiss s g m pc none home kind 3 (s.ctxOf (s.grp g).ctx).asid va key (ls.map fun l => (l, va)))
  | .cause c va home =>
    if c = cDATA_LOST then .next (s.abort (s.grp g).task va (siteAt s g pc.toNat 0))
    else if c = cGUARD_DROP then
      .next (deliver (guardReport s (gdOf g) home .req (s.grp g).ctx va (siteAt s g pc.toNat 0)) g (ls.map fun l => (l, ⟨1, cPROTECTION, va⟩)) 0 pc none)
    else .next (deliver s g (ls.map fun l => (l, ⟨1, c, va⟩)) 0 pc none)

end Sys2Proof.Machine
end

