-- ==== Sys2Proof/Machine/TaskOps.lean ====
section
/-! DEFINITION. Opcodes 0xE0 to 0xE8: channels, semaphores and tasks (12: R296 to R300; 14: R341 to R348). -/
namespace Sys2Proof.Machine

/-! ### Shared reads -/

/-- A register operand of a group instruction, from the lowest issuing lane (R332). -/
def groupReg (s : State) (m : Mask) (c : Code) : Nat := rdA s (lam m) c
def reservedTrap (s : State) (bad : Bool) (ord : Nat) : Option Trap := if bad then some ⟨ord, cRESERVED_FIELD, curWord s⟩ else none
def protectTrap (bad : Bool) (ord : Nat) : Option Trap := if bad then some ⟨ord, cPROTECTION, 0⟩ else none
/-- Write one value to D in every issuing lane. -/
def writeGroup (s : State) (i : Instr) (ok : Mask) (d : Code) (x : Nat) : State :=
  commit s i ((lanesIn ok).map fun l => (l, out1 d x))
/-- A group instruction without a result. -/
def groupOp (r : Rule) (s : State) (body : State → Mask → State) : Out :=
  issue r s fun s ok => body (popAll s r.instr) ok

/-! ### Channels (R299, R300, R341) -/

def roleBad (w : Nat) : Bool := w == 0 || decide (4 ≤ w)
def bound (c : Channel) : List Nat := (c.prods ++ c.cons).eraseDups
/-- CH.OPEN (R299, R341). -/
def execChOpen (d a : Code) (s : State) : Out :=
  let role (s : State) (m : Mask) := groupReg s m a
  let cause (s : State) (m : Mask) : Option Trap :=
    let g := s.cur.g
    let x := s.grp g
    let used := Tab.has s.chans (chanKey g d.toNat)
    let c := s.chan g d.toNat
    firstTrap [reservedTrap s (roleBad (role s m)) 10,
      protectTrap (used && (c.ctx != x.ctx || (bitOf (role s m) 0 && c.closed) ||
        (!(bound c).contains x.task && decide (32 ≤ (bound c).length)))) 11]
  issue { instr := .chOpen d a, all := cause } s fun s ok =>
    let g := s.cur.g
    let x := s.grp g
    let w := role s ok
    let c := Tab.get s.chans (chanKey g d.toNat) { ctx := x.ctx }
    let c := if bitOf w 0 && !c.prods.contains x.task then { c with prods := c.prods ++ [x.task] } else c
    let c := if bitOf w 1 && !c.cons.contains x.task then { c with cons := c.cons ++ [x.task] } else c
    let s := popAll s (.chOpen d a)
    { s with chans := Tab.put s.chans (chanKey g d.toNat) c }
/-- CH.CLOSE (R341). -/
def execChClose (d a : Code) (s : State) : Out :=
  issue { instr := .chClose d a, all := fun s m => reservedTrap s (roleBad (groupReg s m a)) 10 } s fun s ok =>
    let g := s.cur.g
    let e := (s.grp g).task
    let w := groupReg s ok a
    let s := popAll s (.chClose d a)
    match Tab.find? s.chans (chanKey g d.toNat) with
    | none => s
    | some c =>
      let had := bitOf w 0 && c.prods.contains e
      let c := if bitOf w 0 then { c with prods := c.prods.filter (· != e) } else c
      let c := if bitOf w 1 then { c with cons := c.cons.filter (· != e) } else c
      match closeCheck had c with
      | some c => { s with chans := Tab.put s.chans (chanKey g d.toNat) c }
      | none => { s with chans := Tab.del s.chans (chanKey g d.toNat) }

/-! ### Semaphores (R342, R343) -/

/-- DELTA of a SEMA.ADD operand. -/
def semaDelta (w : Nat) : Int := sextI (w % 2048) 11
/-- Accesses of lanes of the group that have not been performed (R225, R342, R346). -/
def undone (s : State) (g : Nat) (m : Mask) : List Nat :=
  (s.accs.filter fun a => a.2.g == g && m.getLsbD a.2.lane && a.2.stage.pending).map Prod.fst
def postSig (s : State) (x : Sig) : State :=
  let (n, s) := s.fresh
  { s with sigs := Tab.put s.sigs n x }
/-- SEMA.ADD (R342). -/
def execSemaAdd (d a : Code) (s : State) : Out :=
  let e := d.toNat
  let cause (s : State) (m : Mask) : Option Trap :=
    let w := groupReg s m a
    let x := s.sem (ckOf s.cur.g) e
    let dl := semaDelta w
    firstTrap [if semGranted s s.cur.g e then none else some ⟨7, cSEM_WINDOW, e⟩,
      if (0 < dl ∧ 1023 < (x.count : Int) + x.pending + dl) ∨ (dl < 0 ∧ (x.count : Int) + dl < 0) then some ⟨8, cSEM_CAPACITY, e⟩ else none,
      reservedTrap s ((bitOf w 31 && bitOf w 30) || bitsOf w 29 11 != 0) 10]
  issue { instr := .semaAdd d a, all := cause } s fun s ok =>
    let g := s.cur.g
    let ck := ckOf g
    let w := groupReg s ok a
    let dl := semaDelta w
    let wide := wideScope (modeScope (laneMode s (lam ok)))
    let banks := if bankScope (modeScope (laneMode s (lam ok))) then bankCmds s g else []
    let s := popAll s (.semaAdd d a)
    let x := s.sem ck e
    let s := s.setSem ck e { x with count := if dl < 0 then ((x.count : Int) + dl).toNat else x.count,
                                    fault := x.fault && !bitOf w 30, pending := x.pending + dl.toNat }
    if 0 < dl ∨ bitOf w 31 then
      let t := if wide then writeBackCore s ck else s
      let ids := undone s g ok ++ banks
      if ids.isEmpty && (!wide || coreClean t ck) then applyInc t ck e dl.toNat (bitOf w 31) wide
      else postSig s { ck := ck, sem := e, delta := dl.toNat, fset := bitOf w 31, g := g, accs := ids, wide := wide }
    else s
/-- The word of SEMA.RD (R343). -/
def semWord (x : Sem) : Nat := x.count % 1024 + 1024 * b2n x.fault + 65536 * (x.pending % 1024)
/-- SEMA.RD (R343); outside the granted blocks it raises SEM_WINDOW (R38; log 20). -/
def execSemaRd (d a : Code) (s : State) : Out :=
  let e := a.toNat
  issue { instr := .semaRd d a, all := fun s _ => if semGranted s s.cur.g e then none else some ⟨7, cSEM_WINDOW, e⟩ } s fun s ok =>
    let ck := ckOf s.cur.g
    let m := laneMode s (lam ok)
    let x := s.sem ck e
    let s := writeGroup s (.semaRd d a) ok d (semWord x)
    if (modeOrder m == 1 || modeOrder m == 3) && x.wide then dropClean s ck else s

/-! ### Posts (R312, R316, R344) -/

/-- The lowest key not listed in a table, from a bound on. -/
def lowestGap {α : Type} : List (Nat × α) → Nat → Nat
  | [], lo => lo
  | (k, _) :: t, lo => if k < lo then lowestGap t lo else if k = lo then lowestGap t (lo + 1) else lo
/-- The lowest Free entry of a die that nothing reserves. -/
def freeEntryOf (s : State) (gd : Nat) : Option Nat :=
  let e := lowestGap s.entries (gd * 16384)
  if e < (gd + 1) * 16384 then some e else none
/-- The root die of a context that runs on a die: the lowest die of its partition in the package (R312). -/
def rootDie (s : State) (gd : Nat) : Nat :=
  ((List.range 64).find? fun d => partOf s (pkgOf gd * 64 + d) == partOf s gd).elim gd fun d => pkgOf gd * 64 + d
def liveDst (d : Code) : List (Nat × Nat) := if d.toNat < 0xF7 ∨ d.toNat = 0xFF then [(d.toNat, 1)] else []
/-- TASK.POST and LAUNCH at issue: the entry is reserved (R344). Here c.d is D's code, c.a the descriptor's address,
c.b the initial DEP and c.pos the reserved entry. -/
def postTask (i : Instr) (op : CmdOp) (root : Bool) (d a b : Code) (sync : BitVec 32) (s : State) : Out :=
  let table (s : State) : Nat := if root then rootDie s (gdOf s.cur.g) else gdOf s.cur.g
  let cause (s : State) (m : Mask) : Option Trap :=
    firstTrap [reservedTrap s (decide (65536 ≤ groupReg s m b)) 10,
      if outside (rdP s (lam m) a) then some ⟨11, cPROTECTION, rdP s (lam m) a⟩ else none,
      if (freeEntryOf s (table s)).isNone then some ⟨13, cTABLE_FULL, 0⟩ else none]
  issue { instr := i, words := 2, stopAll := true, sync := some (.command, sync), all := cause } s fun s ok =>
    match freeEntryOf s (table s) with
    | none => s
    | some e =>
      let c := { baseCmd s ok op sync with d := d.toNat, a := rdP s (lam ok) a, b := groupReg s ok b, pos := e, dst := liveDst d }
      let id := s.nextId
      let s := postCmd (popAll s i) c
      let s := s.modEntry e fun x => { x with reserving := true }
      if root then s.modGrp s.cur.g fun x => { x with service := some (.launch id) } else s
/-- TASK.POST (R344). -/
def execTaskPost (d a b : Code) (sync : BitVec 32) (s : State) : Out :=
  postTask (.taskPost d a b sync) .taskPost false d a b sync s
/-- LAUNCH (R344): the group waits until the root die answers. -/
def execLaunch (d a b : Code) (sync : BitVec 32) (s : State) : Out :=
  postTask (.launch d a b sync) .launch true d a b sync s

/-! ### Edges and signals (R345, R346) -/

/-- A TASKID that names no entry of a package. -/
def strayTask (gd t : Nat) : Bool := pkgOf (t / 65536) != pkgOf gd || decide (16384 ≤ t % 65536)
/-- TASK.DEP (R345): the edge forms at issue; a to entry on another die keeps the group waiting for MGT's answer. -/
def execTaskDep (a b : Code) (s : State) : Out :=
  let cause (s : State) (m : Mask) : Option Trap :=
    let gd := gdOf s.cur.g
    let ctx := (s.grp s.cur.g).ctx
    let f := groupReg s m a
    let t := groupReg s m b
    let ef := s.entry (entryOf f)
    let et := s.entry (entryOf t)
    let forms := ef.st == .waiting || ef.st == .ready || ef.st == .running
    firstTrap [protectTrap (strayTask gd f || strayTask gd t || et.ctx != ctx || et.st != .waiting || (ef.st != .free && ef.ctx != ctx)) 11,
      if forms && et.dep == 65535 then some ⟨13, cTABLE_FULL, 0⟩ else none]
  issue { instr := .taskDep a b, all := cause } s fun s ok =>
    let f := entryOf (groupReg s ok a)
    let t := entryOf (groupReg s ok b)
    let g := s.cur.g
    let s := popAll s (.taskDep a b)
    let s := match (s.entry f).st with
      | .faulted => markFaulted s t
      | .free => s
      | .ending => s
      | _ =>
        let s := s.modEntry f fun x => { x with deps := x.deps ++ [w32 (taskIdOf t)] }
        s.modEntry t fun x => { x with dep := x.dep + 1 }
    if t / 16384 = gdOf g then s else s.modGrp g fun x => { x with service := some (.dep f t) }
/-- TASK.SIG (R346): a release at PKG scope; the decrement follows once it is performed. -/
def execTaskSig (a b : Code) (s : State) : Out :=
  let cause (s : State) (m : Mask) : Option Trap :=
    let t := groupReg s m a
    let e := s.entry (entryOf t)
    firstTrap [reservedTrap s (decide (2 ≤ groupReg s m b)) 10,
      protectTrap (strayTask (gdOf s.cur.g) t || e.ctx != (s.grp s.cur.g).ctx || e.st != .waiting || e.dep == 0) 11]
  issue { instr := .taskSig a b, all := cause } s fun s ok =>
    let g := s.cur.g
    let e := entryOf (groupReg s ok a)
    let f := groupReg s ok b == 1
    let s := popAll s (.taskSig a b)
    postSig s { ck := ckOf g, sem := 0, delta := 0, fset := f, g := g, accs := undone s g ok, wide := true, task := some (e, f) }

/-! ### TASK.PULL (R347) -/

/-- TASK.PULL at issue: the group waits until it is served or its wait runs out. -/
def execTaskPull (d a b : Code) (s : State) : Out :=
  let cause (s : State) (m : Mask) : Option Trap :=
    let g := s.cur.g
    firstTrap [if m != liveLanes s g then some ⟨9, cCONVERGENCE, curWord s⟩ else none,
      reservedTrap s (decide (64 ≤ groupReg s m a)) 10,
      protectTrap (dGroups (s.entry (s.grp g).task).words != 1) 11]
  noHandler s (issue { instr := .taskPull d a b, stopAll := true, all := cause } s fun s ok =>
    let g := s.cur.g
    let mask := groupReg s ok a
    let w := groupReg s ok b
    let s := popAll s (.taskPull d a b)
    s.modGrp g fun x => { x with service := some (.pull d.toNat mask s.cycle (s.cycle + w) ok) })

end Sys2Proof.Machine
end

