-- ==== Sys2Proof/Machine/Token.lean ====
section
/-! DEFINITION. Opcodes 0xE9 to 0xEE: token records (01: R25, R26; 14: R349 to R354). -/
namespace Sys2Proof.Machine

/-! ### Handles (R349) -/

def recKey (gd slot : Nat) : Nat := gd * 65536 + slot
def State.recAt (s : State) (k : Nat) : Rec := Tab.get s.recs k {}
/-- The types whose tasks hold a tile of rows. -/
def rowType (t : Nat) : Bool := t == 1 || t == 2 || t == 3 || t == 4
/-- The record that a handle names, if it is valid: Held by the running task on its die. -/
def handleRec (s : State) (g h : Nat) : Option Nat :=
  let e := (s.grp g).task
  let x := s.entry e
  let k : Option Nat :=
    if bitOf h 16 then
      (if rowType (dType x.words) && bitsOf h 15 6 == 0 && decide (h % 64 < x.rows.length) then some (recKey (gdOf g) (x.rows.getD (h % 64) 0)) else none)
    else some (recKey (gdOf g) (h % 65536))
  match k with
  | some k => if (s.recAt k).st == .held e then some k else none
  | none => none

/-! ### Lanes in turn -/

/-- One lane's action: a trap, or the new state and the lane's register writes. -/
abbrev TokAct := State → Nat → Except Trap (State × List (Nat × Nat))
structure TokRun where
  s : State
  traps : List (Nat × Trap) := []
  outs : List (Nat × LaneOut) := []
/-- Lanes act in ascending order; a lane sees what lower lanes changed (R349). -/
def tokRun (f : TokAct) (s : State) (m : Mask) : TokRun :=
  (lanesIn m).foldl (fun (r : TokRun) l =>
    match f r.s l with
    | .error t => { r with traps := r.traps ++ [(l, t)] }
    | .ok (s, ws) => { r with s := s, outs := r.outs ++ [(l, { writes := ws })] }) { s := s }
/-- A record instruction. -/
def tokOp (r : Rule) (s : State) (f : TokAct) : Out :=
  let r' : Rule := { r with own := fun s m l => ((tokRun f s m).traps.find? fun t => t.1 == l).map Prod.snd }
  issue r' s fun s ok =>
    let x := tokRun f s ok
    commit x.s r.instr x.outs
def tokTrap (h : Nat) : Trap := ⟨14, cTOKEN_FAULT, h⟩

/-! ### TOK.NEW, TOK.RD, TOK.WR, TOK.RET (R350, R351, R354) -/

/-- The lowest Free slot of a die's record store. -/
def freeSlot (s : State) (gd : Nat) : Option Nat :=
  let k := lowestGap s.recs (gd * 65536)
  if k < (gd + 1) * 65536 then some (k - gd * 65536) else none
def kindOf (w3 : Nat) : Nat := bitsOf w3 25 24
/-- The words of a new record: those the hardware sets replace the lane's (R350). -/
def newWords (ws : List Nat) (gd tenant : Nat) : List Word :=
  (List.range 16).map fun i =>
    if i = 12 then w32 (bitsOf (ws.getD 12 0) 31 24 * 2 ^ 24 + tenant * 2 ^ 16 + gd % 65536)
    else if i = 13 then 0 else if i = 14 then 0x00FFFFFF#32 else w32 (ws.getD i 0)
/-- TOK.NEW (R350). -/
def execTokNew (d a : Code) (s : State) : Out :=
  tokOp { instr := .tokNew d a } s fun s l =>
    let g := s.cur.g
    let ws := (List.range 16).map fun i => rd s g l (a.toNat + i)
    if kindOf (ws.getD 3 0) = 3 then .error (tokTrap 0) else
    match freeSlot s (gdOf g) with
    | none => .error (tokTrap 0)
    | some n =>
      let r : Rec := { st := .held (s.grp g).task, words := newWords ws (gdOf g) (s.ctxOf (s.grp g).ctx).tenant, born := s.cycle }
      .ok ({ s with recs := Tab.put s.recs (recKey (gdOf g) n) r }, [(d.toNat, n)])
/-- A word of a record; word 13 is its age (R26, R351). -/
def recWord (s : State) (r : Rec) (w : Nat) : Nat := if w = 13 then min (s.cycle - r.born) (2 ^ 32 - 1) else wordAt r.words w
/-- TOK.RD (R351). -/
def execTokRd (d a b : Code) (s : State) : Out :=
  tokOp { instr := .tokRd d a b } s fun s l =>
    match handleRec s s.cur.g (rdA s l a) with
    | none => .error (tokTrap (rdA s l a))
    | some k => .ok (s, [(d.toNat, recWord s (s.recAt k) (rdA s l b % 16))])
/-- A record after TOK.WR of a word (R351). -/
def recWrite (r : Rec) (w x : Nat) : Rec :=
  if w = 13 ∨ w = 14 then r
  else if w = 12 then { r with words := r.words.set 12 (w32 (bitsOf x 31 24 * 2 ^ 24 + wordAt r.words 12 % 2 ^ 24)) }
  else { r with words := r.words.set w (w32 x) }
/-- TOK.WR (R351). -/
def execTokWr (d a b : Code) (s : State) : Out :=
  tokOp { instr := .tokWr d a b } s fun s l =>
    let h := rdA s l d
    let w := rdA s l b % 16
    match handleRec s s.cur.g h with
    | none => .error (tokTrap h)
    | some k =>
      if w = 3 ∧ kindOf (rdA s l a) = 3 then .error (tokTrap h)
      else .ok ({ s with recs := Tab.put s.recs k (recWrite (s.recAt k) w (rdA s l a)) }, [])
/-- TOK.RET (R354). -/
def execTokRet (a : Code) (s : State) : Out :=
  tokOp { instr := .tokRet a } s fun s l =>
    match handleRec s s.cur.g (rdA s l a) with
    | none => .error (tokTrap (rdA s l a))
    | some k => .ok ({ s with recs := Tab.del s.recs k }, [])

/-! ### TOK.NEXT and TOK.SEND (R323, R325, R352, R353) -/

def recOper (r : Rec) : Nat := bitsOf (wordAt r.words 3) 15 0
/-- The Tray of an operator on a die. -/
def trayOf (s : State) (gd op : Nat) : Option Nat :=
  (List.find? (fun t : Nat × Tray => t.1 / 64 == gd && t.2.oper == op) s.trays).map Prod.fst
def State.tray (s : State) (k : Nat) : Tray := Tab.get s.trays k {}
def TBuf.empty (b : TBuf) : Bool := !b.building && !b.fired && b.rows.isEmpty
/-- Whether an operator has a span of seat count c, and how many of its fired tiles have not boarded (R324). -/
def seatsOf (s : State) (gd op : Nat) : Nat :=
  (((s.rings.filter fun r => r.1 / 4 / 5 == gd).flatMap fun r => r.2.slots.filter fun x => x.oper == op).map fun x => x.seats).headD 0
def unboarded (t : Tray) : Nat := (t.bufs.filter fun b => b.fired && !b.boarded).length
/-- Whether the entry of a Tray's building tile is back at its reservation: the task of the buffer's last tile may still be
Ending (R315, R325). -/
def entryBack (s : State) (k : Nat) : Bool :=
  ((s.tray k).bufs.find? fun b => b.building).all fun b => (s.entry b.entry).st == .free
/-- Whether the building tile of a Tray may fire on full or on timeout (R324). -/
def mayFire (s : State) (k : Nat) : Bool :=
  let t := s.tray k
  let op := Tab.get s.opers (k / 64 * 2 ^ 16 + t.oper) {}
  entryBack s k && (!op.span || decide (unboarded t < seatsOf s (k / 64) t.oper))
/-- Whether a Tray can take a row (R325). -/
def canTake (s : State) (k : Nat) : Bool :=
  let t := s.tray k
  match t.bufs.find? fun b => b.building with
  | some b => decide (b.rows.length < 64) || mayFire s k
  | none => t.bufs.any TBuf.empty
/-- A TOK.NEXT does not issue until every Tray it names can take a row (R352). -/
def tokNextReady (s : State) (g : Nat) (m : Mask) (a : Code) : Bool :=
  (lanesIn m).all fun l =>
    match handleRec s g (rd s g l a.toNat) with
    | none => true
    | some k => match trayOf s (gdOf g) (recOper (s.recAt k)) with
      | none => true
      | some t => canTake s t
/-- A record enters a Tray: it has no row and no buffer until its gather completes (R25, R26). -/
def enterTray (r : Rec) (t now : Nat) : Rec :=
  { r with st := .waiting, tray := t, arrivedAt := now, words := r.words.set 14 0x00FFFFFF#32 }
/-- TOK.NEXT (R352): a release at DIE scope. -/
def execTokNext (a : Code) (s : State) : Out :=
  tokOp { instr := .tokNext a } s fun s l =>
    let g := s.cur.g
    let h := rdA s l a
    match handleRec s g h with
    | none => .error (tokTrap h)
    | some k =>
      match trayOf s (gdOf g) (recOper (s.recAt k)) with
      | none => .error (tokTrap h)
      | some t =>
        let s := writeBackCore s (ckOf g)
        .ok ({ s with recs := Tab.put s.recs k (enterTray (s.recAt k) t s.cycle) }, [])

/-- TOK.SEND (R353): one command for each issuing lane; c.d is the destination die, c.a the record. -/
def execTokSend (a b : Code) (sync : BitVec 32) (s : State) : Out :=
  let cause (s : State) (_ : Mask) (l : Nat) : Option Trap :=
    if 65536 ≤ rdA s l b then some ⟨11, cPROTECTION, rdA s l b⟩
    else if (handleRec s s.cur.g (rdA s l a)).isNone then some (tokTrap (rdA s l a)) else none
  issue { instr := .tokSend a b sync, words := 2, sync := some (.command, sync), perLane := true, own := cause } s fun s ok =>
    let cs := (lanesIn ok).map fun l =>
      { baseCmd s (1#64 <<< l) .tokSend sync with d := rdA s l b, a := (handleRec s s.cur.g (rdA s l a)).getD 0 }
    cs.foldl postCmd (popAll s (.tokSend a b sync))

end Sys2Proof.Machine
end

