-- ==== Sys2Proof/Machine/Select.lean ====
section
/-! DEFINITION. Which group and which path issue next (R46, R61, R62, R286, R327), and what must happen before an
instruction may issue (R215, R367, R481). Latencies are not modelled: any eligible group of a core may be the first
whose operands are ready (log 1). -/
namespace Sys2Proof.Machine

/-! ### Paths (R59, R286) -/

structure Path where
  pc : BitVec 56
  mac : Option MacPos
  lanes : Mask
  replay : Bool := false                -- its lanes issue again for themselves alone, on kept elements (R291)
  deriving DecidableEq, Repr

/-- Add a lane to the path of its place. -/
def addPath (l : Nat) (y : Lane) : List Path → List Path
  | [] => [{ pc := y.pc, mac := y.mac, lanes := 1#64 <<< l, replay := !y.kept.isEmpty }]
  | p :: ps => if p.pc == y.pc && p.mac == y.mac && p.replay == !y.kept.isEmpty then { p with lanes := p.lanes ||| (1#64 <<< l) } :: ps else p :: addPath l y ps
/-- The paths of a group. -/
def pathsOf (s : State) (g : Nat) : List Path :=
  (lanesIn (s.grp g).active).foldl (fun ps l => let y := s.lane g l; if y.stand = .run then addPath l y ps else ps) []
/-- Places ranked by address, then by entry (R59). -/
def placeLt (p q : Path) : Bool :=
  let e (p : Path) : Nat := match p.mac with
    | none => 0
    | some m => (m.entry + 1) * 2 ^ 48 + m.index * 2 ^ 32 + m.call.toNat
  decide (p.pc.toNat < q.pc.toNat) || (p.pc == q.pc && decide (e p < e q))
def pathWaits (s : State) (g : Nat) (p : Path) : Bool := (lanesIn p.lanes).any fun l => (s.lane g l).waitUntil != 0

/-! ### Channels, registers and holds -/

/-- Whether the channels an instruction names let it issue (R46): a missing role or a closed empty channel traps, whatever
the others hold; a row on its way takes its place in a channel (R299). -/
def chansReady (s : State) (g : Nat) (m : Mask) (i : Instr) : Bool :=
  let t := (s.grp g).task
  let pops := popsOf s g m i
  let pushes := pushCodes i
  (pops.any fun c => !(s.chan g c).cons.contains t) || (pushes.any fun c => !(s.chan g c).prods.contains t) ||
  (pops.any fun c => (s.chan g c).closed && (s.chan g c).rows.isEmpty) ||
  ((pops.all fun c => !(s.chan g c).rows.isEmpty) &&
    pushes.all fun c => decide ((s.chan g c).rows.length + rowsComing s g c < 64))

/-- A global access of a lane (R288). -/
def globalOp : Instr → Bool
  | .ld _ _ _ => true | .ldX2 _ _ _ => true | .ldX4 _ _ _ => true | .st _ _ _ => true | .stX2 _ _ _ => true | .stX4 _ _ _ => true
  | .ldAcq _ _ _ => true | .stRel _ _ _ => true | .atomAdd _ _ _ => true | .atomMin _ _ _ => true | .atomMax _ _ _ => true
  | .atomAnd _ _ _ => true | .atomOr _ _ _ => true | .atomXor _ _ _ => true | .atomXchg _ _ _ => true | .atomCas _ _ _ => true
  | .atomFadd _ _ _ => true | .redAdd _ _ => true | .mdead _ => true
  | _ => false
/-- A scratchpad access, which may need a stash fill. -/
def windowOp : Instr → Bool
  | .lds _ _ _ => true | .ldsX4 _ _ _ => true | .sts _ _ _ => true | .stsX4 _ _ _ => true | .atomsAdd _ _ _ => true | .atomsCas _ _ _ => true
  | _ => false
/-- Phase 1 of a raise holds paths that reach a global access before they issue (R367). -/
def raiseWait (s : State) (g : Nat) (i : Instr) : Bool :=
  raiseHolds s (s.ctxOf (s.grp g).ctx).asid && (globalOp i || (windowOp i && !(s.teamOf g).stash.isEmpty))
/-- A read or write of ASTAT waits for the flags of additions in flight, which are earlier (R90, R244). -/
def flagWait (s : State) (g : Nat) (m : Mask) (i : Instr) : Bool :=
  let due : Bool := match i with
    | .sregRd _ a => rd s g (lam m) a.toNat == 0x10
    | .sregWr a _ => rd s g (lam m) a.toNat == 0x10
    | _ => false
  due && s.accs.any fun e => e.2.g == g && e.2.op == .fadd && e.2.waiting && m.getLsbD e.2.lane
/-- The window offset and width of a scratchpad access, and whether it writes. -/
def winSpan (s : State) (l : Nat) : Instr → Option WinReq
  | .lds _ a b => some { off := winOff s l a b, width := 4 }
  | .ldsX4 _ a b => some { off := winOff s l a b, width := 16 }
  | .sts d _ b => some { off := winOff s l d b, width := 4, enable := storeEnable (laneK s l), op := .store }
  | .stsX4 d _ b => some { off := winOff s l d b, width := 16, enable := 65535, op := .store }
  | .atomsAdd _ a _ => some { off := rdA s l a, width := 4, op := .add }
  | .atomsCas _ a _ => some { off := rdA s l a, width := 4, op := .cas }
  | _ => none
/-- Whether a scratchpad access of a lane must wait: for the lane's acquires (R218), and at a mapped offset for the lane's
accesses to the line and for a fill that is held (R200, R216). `s` stands at the instruction. -/
def winWait (s : State) (g l : Nat) (i : Instr) : Bool :=
  match winSpan s l i with
  | none => false
  | some r =>
    let tk := (s.grp g).team
    (s.accs.any fun e => e.2.g == g && e.2.lane == l && e.2.acq && e.2.waiting) ||
    (match rangeAt (s.team tk) r.off with
     | none => false
     | some x => (s.accs.any fun e => e.2.g == g && e.2.lane == l && e.2.stage.pending && e.2.va / 64 == x.line r.off / 64) ||
       (match winStep s g r with
        | .error (.held _ _) => true
        | _ => false))

/-! ### Releases and failures (R215, R481) -/

/-- What an instruction of a lane orders before it (R215, R218, R221, R227). -/
structure Order where
  all : Bool := false                   -- it orders every earlier access of the lane
  reads : Bool := false                 -- it orders the lane's earlier reads
  wait : Bool := false                  -- it does not issue before what it orders has been performed
  wide : Bool := false                  -- it releases at QUAD scope or wider
  banks : Bool := false                 -- it waits for the group's bank commands too
  deriving DecidableEq, Repr
def laneOrder (s : State) (g l : Nat) (i : Instr) : Order :=
  let x := (s.lane g l).mode.toNat
  let wide := wideScope (modeScope x)
  let bank := bankScope (modeScope x)
  let atomic : Order := if orderRel x then { all := true, wait := true, wide := wide, banks := bank } else {}
  match i with
  | .stRel _ _ _ => { all := true, wait := true, wide := wide, banks := bank }
  | .atomAdd _ _ _ => atomic | .atomMin _ _ _ => atomic | .atomMax _ _ _ => atomic | .atomAnd _ _ _ => atomic
  | .atomOr _ _ _ => atomic | .atomXor _ _ _ => atomic | .atomXchg _ _ _ => atomic | .atomCas _ _ _ => atomic
  | .atomFadd _ _ _ => atomic | .redAdd _ _ => atomic | .atomsAdd _ _ _ => atomic | .atomsCas _ _ _ => atomic
  | .fence => if modeOrder x = 1 then { reads := true } else { all := true, wide := wide }
  | .arrive _ => { all := true, wait := true, wide := true }
  | .tokNext _ => { all := true, wait := true, wide := true }
  | .semaAdd _ _ => { all := true, wide := wide }
  | .taskSig _ _ => { all := true, wide := true }
  | .sregWr a _ => if rd s g l a.toNat = 0x40 then { all := true, wait := true, wide := true } else {}
  | _ => {}
/-- Accesses of lanes that have not returned or been acknowledged. -/
def lanesWaiting (s : State) (g : Nat) (m : Mask) : Bool := s.accs.any fun e => e.2.g == g && e.2.waiting && m.getLsbD e.2.lane
/-- Outstanding register writes of a group (R62). -/
def writesWaiting (s : State) (g : Nat) : Bool :=
  (s.accs.any fun a => a.2.g == g && a.2.ret && a.2.waiting) || s.cmds.any fun c => c.2.g == g && !c.2.dst.isEmpty

/-- The first failure of a lane that meets a test, and the others. -/
def takeFailure (p : Failed → Bool) : List Failed → Option (Failed × List Failed)
  | [] => none
  | f :: fs => if p f then some (f, fs) else (takeFailure p fs).map fun r => (r.1, f :: r.2)
/-- Deliver the earliest failure that meets a test to each lane that has one; it is taken from the lane's list only
where the lane entered the handler. -/
def deliverFailed (s : State) (g : Nat) (m : Mask) (pc : BitVec 56) (mac : Option MacPos)
    (p : Nat → Failed → Bool) : State :=
  let met := (lanesIn m).filterMap fun l => (takeFailure (p l) (s.lane g l).failed).map fun f => (l, f.1)
  let old := fun l => (s.lane g l).inHandler
  let s := deliver s g (met.map fun x => (x.1, ⟨0, x.2.cause, x.2.va⟩)) 0 pc mac
  if !Tab.has s.groups g then s else
  met.foldl (fun s x =>
    let y := s.lane g x.1
    if y.inHandler && !old x.1 then s.setLane g x.1 { y with failed := y.failed.filter (· != x.2) } else s) s
/-- The registers an instruction touches for a lane: a lane whose guard is false reads its guard alone. -/
def touches (s : State) (g l : Nat) (i : Instr) (c : Nat) : Bool :=
  let y := s.lane g l
  let wide := modeType y.mode.toNat == 6 || modeType y.mode.toNat == 7
  (y.guard && (opnds i).any fun o => (o.codes wide).contains c) || 0xF0 + bitsOf y.mode.toNat 18 16 == c
/-- Whether an instruction delivers a failure of a lane: it orders the access, or touches one of its registers (R481). -/
def failHits (s : State) (g : Nat) (i : Instr) (l : Nat) (f : Failed) : Bool :=
  let o := if (s.lane g l).guard then laneOrder s g l i else {}
  o.all || (o.reads && f.read) || f.regs.any (touches s g l i)
/-- Dropped write-backs of a core and address space. -/
def wbFailOf (s : State) (ck asid : Nat) : Option (Nat × Nat × Nat × Nat) := s.wbFails.find? fun f => f.1 == ck && f.2.1 == asid
/-- Deliver one dropped write-back to lanes (R481). -/
def deliverWb (s : State) (g : Nat) (m : Mask) (pc : BitVec 56) (mac : Option MacPos) (f : Nat × Nat × Nat × Nat) : State :=
  let taken := !(s.grp g).inHandler && creditsFree s (ckOf g)
  let s := deliver s g ((lanesIn m).map fun l => (l, ⟨0, f.2.2.1, f.2.2.2⟩)) 0 pc mac
  if taken then { s with wbFails := s.wbFails.erase f } else s

/-- What a path's next instruction needs first. -/
inductive Ready where
  | go
  | wait
  | act (s : State)

/-- Whether an END by handler lanes would end the group before its register writes are done (R62, R306). -/
def endWaits (s : State) (g : Nat) (m : Mask) (i : Instr) : Bool :=
  match i with
  | .endGroup _ => writesWaiting s g && (liveLanes s g &&& ~~~m) == 0 && (lanesIn m).any fun l => (s.lane g l).inHandler
  | _ => false
/-- What must happen before an instruction issues for the lanes whose guard is true. -/
def prepare (s : State) (g : Nat) (p : Path) (i : Instr) : Ready :=
  let m := maskOf fun l => p.lanes.getLsbD l && (s.lane g l).guard
  let ck := ckOf g
  let asid := (s.ctxOf (s.grp g).ctx).asid
  let os := (lanesIn m).map fun l => (l, laneOrder s g l i)
  let wide := os.any fun o => o.2.wide
  let here : State := { s with cur := { g := g, lanes := p.lanes, pc := p.pc, mac := p.mac, word := 0 } }
  if instrBusy s g p.lanes i || !chansReady s g p.lanes i || raiseWait s g i || flagWait s g m i || endWaits s g m i then .wait
  else if (match i with
    | .tokNext a => !tokNextReady s g m a
    | .mtileHdr d _ => hdrWaits s g d.toNat
    | .chClose d a => bitOf (rd s g (lam m) a.toNat) 0 && pushesComing s g d.toNat
    | _ => false) then .wait
  else if windowOp i && (lanesIn m).any (fun l => winWait here g l i) then .wait
  else if os.any (fun o => o.2.wait && (lanesWaiting s g (1#64 <<< o.1) || (o.2.banks && !(bankCmds s g).isEmpty))) then .wait
  else if (lanesIn p.lanes).any (fun l => (s.lane g l).failed.any (failHits s g i l)) then
    .act (deliverFailed s g p.lanes p.pc p.mac (failHits s g i))
  else if wide && !coreClean s ck then (let t := writeBackCore s ck; if coreClean t ck then .act t else .wait)
  else match (if wide && m != 0 then wbFailOf s ck asid else none) with
    | some f => .act (deliverWb s g m p.pc p.mac f)
    | none => .go

/-! ### Eligible groups (R62, R327) -/

/-- A cycle withheld from a core's issue slots and command starts: by the die's throttle level, or while its lanes are
tested (R330, R430). The DCC is never withheld by the throttle. -/
def withheld (s : State) (ck : Nat) : Bool :=
  (coreOfCk ck < 16 && decide (s.cycle % 4 < (Tab.get s.powers (gdOfCk ck) {}).theta)) ||
    s.tests.any fun t => t.1 / 2 ^ 32 == gdOfCk ck && t.2.unit == 0x0D && t.2.index == coreOfCk ck
def groupOpen (x : Group) : Bool := x.susp.isNone && !x.halted && x.service.isNone
/-- An eligible path with what stands there. -/
structure Option3 where
  path : Path
  fetched : Fetched
  ready : Ready
/-- The paths of a group that may issue. -/
def eligible (s : State) (g : Nat) : List Option3 :=
  if !groupOpen (s.grp g) || (s.teamOf g).stopping || (gatedDie s (gdOf g) && !isDcc g) || withheld s (ckOf g) then [] else
  (pathsOf s g).filterMap fun p =>
    if pathWaits s g p then none else
    let f := fetchPlace s g p.pc p.mac
    let r := match f with
      | .instr i _ => prepare s g p i
      | .entry => (match instrAt s g p.pc p.mac with
        | some i => prepare s g p i
        | none => if guardBusy s g p.lanes then .wait else .go)
      | .bad _ => if guardBusy s g p.lanes then .wait else .go
      | .stop (.held _ _) => .wait
      | .stop _ => .go
    match r with
    | .wait => none
    | _ => some { path := p, fetched := f, ready := r }

/-- When a path last issued, as the group's issue number. -/
def lastOf (s : State) (g : Nat) (p : Path) : Nat := (lanesIn p.lanes).foldl (fun n l => max n (s.lane g l).lastIssue) 0
def pathDueNow (x : Group) : Bool := x.pathDue || decide (64 ≤ x.runCount)
/-- The path a group issues for (R286): the lowest place, or the one that has waited longest when that is due. -/
def betterPath (s : State) (g : Nat) (due : Bool) (a b : Option3) : Bool :=
  let x := lastOf s g a.path
  let y := lastOf s g b.path
  if due && x != y then decide (x < y) else placeLt a.path b.path
def bestPath (s : State) (g : Nat) : List Option3 → Option Option3
  | [] => none
  | a :: as => match bestPath s g as with
    | none => some a
    | some b => if betterPath s g (pathDueNow (s.grp g)) b a then some b else some a

def slotKey (ck age : Nat) : Nat := ck * 2 ^ 64 + age
/-- The order of groups of one core (R327): starved ones by how long they waited, then age, then round-robin among
groups of one age. -/
def groupLt (s : State) (a b : Nat) : Bool :=
  let x := s.grp a
  let y := s.grp b
  let turn (g : Nat) (x : Group) : Nat := (slotOf g + 31 - Tab.get s.lastSlot (slotKey (ckOf g) x.age) 31) % 32
  if x.starved != y.starved then x.starved
  else if x.starved then decide (y.waited < x.waited) || (x.waited == y.waited && decide (turn a x < turn b y))
  else decide (x.age < y.age) || (x.age == y.age && decide (turn a x < turn b y))
def insertGroup (s : State) (a : Nat × Option3) : List (Nat × Option3) → List (Nat × Option3)
  | [] => [a]
  | b :: bs => if ckOf b.1 < ckOf a.1 ∨ (ckOf a.1 = ckOf b.1 ∧ groupLt s b.1 a.1) then b :: insertGroup s a bs else a :: b :: bs

/-- Record an issue: the count of R286, the group's turn, and that it waits no more. -/
def noteIssue (s : State) (g : Nat) (p : Path) (others : Bool) : State :=
  let x := s.grp g
  let due := pathDueNow x
  let same := lastOf s g p == x.issues && 0 < x.issues
  let n := if same && !due then x.runCount else 0
  let s := s.setGrp g { x with issues := x.issues + 1, starved := false, waited := 0, pathDue := false,
                               runCount := if others then n + 1 else n }
  let s := s.onLanes g (lanesIn p.lanes) fun _ y => { y with lastIssue := x.issues + 1 }
  { s with lastSlot := Tab.put s.lastSlot (slotKey (ckOf g) x.age) (slotOf g),
           cur := { g := g, lanes := p.lanes, pc := p.pc, mac := p.mac, word := 0 } }

/-- One thing that the machine may do next: run an instruction at a state, or a transition of its own. -/
inductive Choice where
  | run (s : State) (i : Instr)
  | done (o : Out)

/-- What a selected path does. -/
def issueChoice (s : State) (g : Nat) (o : Option3) (others : Bool) : Choice :=
  let p := o.path
  match o.ready with
  | .act t => .done (.next t)
  | _ =>
    let t := noteIssue s g p others
    match o.fetched with
    | .instr i w => .run { t with cur := { t.cur with word := w } } i
    | .bad w => .done (.next (unusedTrap { t with cur := { t.cur with word := w } } (opOf w)))
    | .entry => .run t .storeEntryExec
    | .stop e => .done (fetchStop t g p.lanes p.pc e)
/-- The issues that may come next, each core's groups in order. -/
def issueChoices (s : State) : List Choice :=
  let cands := s.groups.foldl (fun (cs : List (Nat × Option3)) e =>
    match bestPath s e.1 (eligible s e.1) with
    | some o => insertGroup s (e.1, o) cs
    | none => cs) []
  cands.map fun c => issueChoice s c.1 c.2 (decide (1 < (eligible s c.1).length))

end Sys2Proof.Machine
end

