-- ==== Sys2Proof/Machine/Boundary.lean ====
section
/-! DEFINITION. The rows in which a group gets going again or stops: back-offs, the run limit, starvation, firing
boundaries, continuations, convergence faults, and the end of a fence (12: R286 to R295; 13: R327, R329;
10: R246; 14: R336 to R340). A row whose condition does not hold changes nothing. -/
namespace Sys2Proof.Machine

/-! ### Paths (R286, R327, R329) -/

/-- The lanes that form one path with a lane. -/
def pathWith (s : State) (g l : Nat) : Mask := ((pathsOf s g).find? fun p => p.lanes.getLsbD l).elim 0 fun p => p.lanes
/-- TRAP_BACKOFF_EXPIRY (R329): the path of a lane may issue again once each of its lanes' back-offs has run out. -/
def execTrapBackoffExpiry (g lane : Nat) (s : State) : Out :=
  let m := pathWith s g lane
  if (lanesIn m).all fun l => decide ((s.lane g l).waitUntil ≤ s.cycle) then
    .next (s.onLanes g (lanesIn m) fun _ y => { y with waitUntil := 0 })
  else .next s
/-- PATH_RUN_LIMIT (R286). -/
def execPathRunLimit (g : Nat) (s : State) : Out :=
  if 64 ≤ (s.grp g).runCount then .next (s.modGrp g fun x => { x with pathDue := true, runCount := 0 }) else .next s
/-- GROUP_STARVED (R327). -/
def execGroupStarved (g : Nat) (s : State) : Out :=
  if 256 ≤ (s.grp g).waited then .next (s.modGrp g fun x => { x with starved := true }) else .next s

/-! ### Firing boundaries (R293, R336 to R340) -/

/-- The address at which every live lane of a group stands at a boundary. -/
def boundaryAt (s : State) (g : Nat) : Option (BitVec 56) :=
  let live := lanesIn (liveLanes s g)
  match live with
  | [] => none
  | l :: _ =>
    let pc := (s.lane g l).pc
    if live.all fun j => (s.lane g j).stand == .boundary && (s.lane g j).pc == pc then some pc else none
def groupAccsWaiting (s : State) (g : Nat) : Bool := s.accs.any fun a => a.2.g == g && a.2.waiting
/-- The sync word of a boundary instruction. -/
def boundarySync : Instr → BitVec 32
  | .suspGroup _ w => w
  | .syncGroup _ w => w
  | .endGroup w => w
  | _ => 0
/-- The boundary that a group stands at, with its address, once its register writes are done; SYNC and END wait for
every access (R215, R293, R481). -/
def boundaryReady (s : State) (g : Nat) : Option (BitVec 56 × Instr) :=
  if !Tab.has s.groups g || (s.grp g).susp.isSome || (s.teamOf g).stopping then none else
  match boundaryAt s g with
  | none => none
  | some pc =>
    match (s.grp g).bounds.find? fun b => b.1 == pc with
    | none => none
    | some b =>
      let all : Bool := match b.2 with
        | .syncGroup _ _ => true
        | .endGroup _ => true
        | _ => false
      if writesWaiting s g || (all && groupAccsWaiting s g) then none else some b
/-- Withdraw the pending increments of boundaries that the group leaves without taking (R336). -/
def dropBounds (s : State) (g : Nat) (p : BitVec 56 → Bool) : State :=
  let x := s.grp g
  let s := (x.bounds.filter fun b => p b.1).foldl (fun s b =>
    let w := boundarySync b.2
    if sEn w then
      let y := s.sem (ckOf g) (sSem w)
      s.setSem (ckOf g) (sSem w) { y with pending := y.pending - sInc w }
    else s) s
  s.setGrp g { x with bounds := x.bounds.filter fun b => !p b.1 }
/-- Apply a boundary's signal once the accesses or commands it releases are done (R40, R225, R233). -/
def signalAfter (s : State) (g : Nat) (sync : BitVec 32) (ids : List Nat) (wide : Bool) : State :=
  if !sEn sync then s
  else if ids.isEmpty then ssig (if wide then writeBackCore s (ckOf g) else s) (ckOf g) sync false wide
  else postSig s { ck := ckOf g, sem := sSem sync, delta := sInc sync, fset := false, g := g, accs := ids, wide := wide }
/-- Commands of a task that END's release waits for: all but PUTs into other packages (R231 to R233). -/
def endCmds (s : State) (e : Nat) : List Nat :=
  (s.cmds.filter fun c => c.2.task == e && !c.2.trailing && !remotePut s c.2).map Prod.fst
/-- The boundary takes effect for the group (R293). -/
def takeBoundary (s : State) (g : Nat) (pc : BitVec 56) (i : Instr) : State :=
  let live := liveLanes s g
  let s := dropBounds s g fun p => p != pc
  let s := s.modGrp g fun x => { x with bounds := [] }
  let scope := modeScope (s.lane g (lowest live)).mode.toNat
  match i with
  | .suspGroup l w =>
    let s := s.modGrp g fun x => { x with susp := some { cont := litTarget pc l, wen := wEn w, wsem := wSem w, wthr := wThr w, sync := w } }
    signalAfter s g w (undone s g live) (wideScope scope)
  | .syncGroup l w =>
    let s := s.modGrp g fun x => { x with susp := some { cont := litTarget pc l, barrier := some (wSem w), sync := w } }
    arriveAt s g (wSem w) true
  | .endGroup w => endGroup (signalAfter s g w (endCmds s (s.grp g).task) false) g false
  | _ => s.modGrp g fun x => { x with susp := some { cont := pc + 4 } }
/-- BOUNDARY_TAKEN (R293): failures of the lanes' accesses are delivered first (R481). -/
def execBoundaryTaken (g : Nat) (s : State) : Out :=
  match boundaryReady s g with
  | none => .next s
  | some (pc, i) =>
    let live := liveLanes s g
    let ck := ckOf g
    let isSync : Bool := match i with
      | .syncGroup _ _ => true
      | _ => false
    let isEnd : Bool := match i with
      | .endGroup _ => true
      | _ => false
    let hit := fun f : Failed => isSync || isEnd || !f.regs.isEmpty
    if (lanesIn live).any fun l => (s.lane g l).failed.any hit then .next (deliverFailed s g live pc none fun _ => hit)
    else
      let s := if isSync then writeBackCore s ck else s
      if isSync && !coreClean s ck then .next s
      else match (if isSync || isEnd then wbFailOf s ck (s.ctxOf (s.grp g).ctx).asid else none) with
        | some f => .next (deliverWb s g live pc none f)
        | none => .next (takeBoundary s g pc i)

/-! ### Continuations (R294, R295, R304, R338) -/

/-- Whether the continuation of a suspended group may be dispatched. -/
def contReady (s : State) (g : Nat) : Option Susp :=
  match (s.grp g).susp with
  | none => none
  | some x =>
    if x.barrier.isSome || (s.grp g).halted || (s.teamOf g).stopping then none
    else if !x.wen then some x
    else
      let m := s.sem (ckOf g) x.wsem
      if m.fault || decide (x.wthr ≤ m.count) then some x else none
/-- Start a firing (R295). -/
def startFiring (s : State) (g : Nat) (cont : BitVec 56) : State :=
  let s := s.modGrp g fun x =>
    { x with susp := none, bounds := [], cbars := [], age := s.cycle, starved := false, waited := 0, runCount := 0, pathDue := false }
  let s := s.event (ckOf g) (slotOf g) 46 1
  s.onLanes g (lanesIn (liveLanes s g)) fun _ y =>
    { y with pc := cont, mac := none, mode := 0x00070000#32, k := 0, ret := [], stand := .run }
/-- CONTINUATION_DISPATCH (R294); the answer of a broken barrier without a signal is COLLECTIVE_ABORTED (R304). -/
def execContinuationDispatch (g : Nat) (s : State) : Out :=
  match contReady s g with
  | none => .next s
  | some x =>
    let ck := ckOf g
    let s := if x.acq then dropClean s ck else if x.wen then acquireSem s ck x.sync else s
    if x.broken && !sEn x.sync then
      let live := liveLanes s g
      let pc := (s.lane g (lowest live)).pc
      let s := s.modGrp g fun y => { y with susp := none, bounds := [] }
      .next (deliver s g ((lanesIn live).map fun l => (l, ⟨16, cCOLL_ABORTED, wSem x.sync⟩)) 0 pc none)
    else .next (startFiring s g x.cont)

/-! ### Convergence faults (R292) -/

def cbarOf (y : Lane) : Option Nat :=
  match y.stand with
  | .cbar b => some b
  | _ => none
/-- Whether a group can make no progress. -/
def stalled (s : State) (g : Nat) : Bool :=
  let live := lanesIn (liveLanes s g)
  let x := s.grp g
  Tab.has s.groups g && !live.isEmpty && x.susp.isNone && !x.inHandler && x.parked.isEmpty && x.service.isNone &&
    (live.all fun l => (s.lane g l).stand == .boundary || (cbarOf (s.lane g l)).isSome) && (boundaryAt s g).isNone
/-- CONVERGENCE_FAULT (R292): delivered at the lowest place at which lanes wait; lanes that wait elsewhere follow once
the group's handler has ended. -/
def execConvergenceFault (g : Nat) (s : State) : Out :=
  if !stalled s g then .next s else
  let live := lanesIn (liveLanes s g)
  let ps := live.foldl (fun ps l => addPath l (s.lane g l) ps) []
  match ps with
  | [] => .next s
  | p0 :: rest =>
    let p := rest.foldl (fun a b => if placeLt b a then b else a) p0
    let w := match p.mac with
      | none => match fetchWord s g p.pc.toNat with
        | .ok w => w
        | .error _ => 0
      | some m => (substWord (storeEntry s (ckOf g) m.index m.entry) m.call).toNat
    let s := s.modGrp g fun x => { x with cbars := x.cbars.map fun c => (c.1, { c.2 with arrived := c.2.arrived &&& ~~~p.lanes }) }
    let s := dropBounds s g fun a => a == p.pc
    .next (deliver s g ((lanesIn p.lanes).map fun l => (l, ⟨9, cCONVERGENCE, w⟩)) 0 p.pc p.mac)

/-! ### Fences (R227, R246, R481) -/

/-- Whether the accesses and commands that a fence waits for are done. -/
def idsDone (s : State) (ids : List Nat) : Bool :=
  ids.all fun i => !Tab.has s.cmds i && (match Tab.find? s.accs i with
    | some a => !a.waiting
    | none => true)
/-- The end of a fence: lanes with a failed access that it orders take it at the fence, the others go on. -/
def settleFence (s : State) (g : Nat) : Option State :=
  let ck := ckOf g
  let place (m : Mask) : BitVec 56 × Option MacPos := let y := s.lane g (lowest m); (y.pc, y.mac)
  match (s.grp g).service with
  | some (.accesses ids m) =>
    if !idsDone s ids then none else
    let hit (l : Nat) (f : Failed) : Bool := modeOrder (s.lane g l).mode.toNat != 1 || f.read
    let bad := maskOf fun l => m.getLsbD l && (s.lane g l).failed.any (hit l)
    let ok := m &&& ~~~bad
    let modes := (lanesIn ok).map fun l => (s.lane g l).mode.toNat
    let rel := modes.any fun x => wideScope (modeScope x) && modeOrder x != 1
    let s1 := if ok = 0 then s else fenceEffect s g modes
    if rel && !coreClean s1 ck then none else
    let s1 := s1.modGrp g fun x => { x with service := none }
    let s2 := if ok = 0 then s1 else
      match (if rel then wbFailOf s1 ck (s.ctxOf (s.grp g).ctx).asid else none) with
      | some f => deliverWb s1 g ok (place m).1 (place m).2 f
      | none => (advance s1 g 1 ok).onLanes g (lanesIn ok) fun _ y => { y with stand := .run }
    some (if Tab.has s2.groups g then deliverFailed s2 g bad (place m).1 (place m).2 hit else s2)
  | some (.commands ids m) =>
    if !idsDone s ids then none else
    let s := dropClean (s.modGrp g fun x => { x with service := none }) ck
    some ((advance s g 1 m).onLanes g (lanesIn m) fun _ y => { y with stand := .run })
  | _ => none

end Sys2Proof.Machine
end

