-- ==== Sys2Proof/Machine/Register.lean ====
section
/-! DEFINITION. Task descriptors as the steward and the table check them, and the registration of operators, Trays
and Belt rings (13: R314; 15: R373; 16: R376; 17: R413 to R416). -/
namespace Sys2Proof.Machine

/-! ### Descriptors (R314, R376) -/

/-- The byte offset of the first bad field of a task descriptor. -/
def descBad (c : Ctx) (ws : List Word) : Option Nat :=
  let w (i : Nat) : Nat := wordAt ws i
  let n := dCores ws
  let gs := dGroups ws
  let chk (bad : Bool) (off : Nat) : Option Nat := if bad then some off else none
  ([chk (decide (6 ≤ dType ws) || decide (c.maxPrio < dPrio ws) || dBanks ws == 0 || decide (12 < dBanks ws) ||
      gs == 0 || decide (32 < gs) || decide (gs < n) || dWin ws == 0 || decide (16 * n < dWin ws) || bitsOf (w 0) 7 0 != 0 ||
      decide (256 < (gs + n - 1) / n * dBanks ws)) 0,
    chk (bitsOf (w 1) 15 0 != 0 || (dSems ws &&& (65535 ^^^ c.sems)) != 0) 4,
    chk (dEntry ws % 4 != 0) 8,
    chk (bitsOf (w 5) 31 5 != 0 || decide (16 < dNarg ws)) 20,
    chk (dType ws != 0 && w 8 != 0) 32,
    chk (dType ws != 0 && w 9 != 1) 36] ++ (List.range 6).map fun i => chk (w (10 + i) != 0) (40 + 4 * i)).findSome? id
def descOk (c : Ctx) (ws : List Word) : Bool := (descBad c ws).isNone
/-- Little-endian words of a run of bytes. -/
def wordsOfBytes (bs : List Nat) (n : Nat) : List Word := (List.range n).map fun i => w32 (leValue ((bs.drop (4 * i)).take 4))

/-! ### Operators (R413, R414) -/

def operKey (gd op : Nat) : Nat := gd * 2 ^ 16 + op
def State.oper? (s : State) (gd op : Nat) : Option Oper := Tab.find? s.opers (operKey gd op)
/-- Whether a Tray or a ring of a die names an operator. -/
def operNamed (s : State) (gd op : Nat) : Bool :=
  (s.trays.any fun t => t.1 / 64 == gd && t.2.oper == op) ||
  (s.rings.any fun r => r.1 / 4 / 5 == gd && r.2.slots.any fun x => x.oper == op)
/-- Read words in a context's address space, as a die sees them at PKG scope; none where a read stops. -/
def ctxWords (s : State) (gd asid va n : Nat) : Option (List Word) :=
  (readThrough gd (gd * 17 + 16) asid (pieces va (4 * n)) s).map fun bs => wordsOfBytes bs n
/-- OPREG of a record (R414): a status and the new state. -/
def registerOper (s : State) (gd : Nat) (ws : List Word) : Nat × State :=
  let w (i : Nat) : Nat := wordAt ws i
  let op := bitsOf (w 0) 15 0
  let cid := w 1
  let c := s.ctxOf cid
  let tmpl := (ctxWords s gd c.asid (pairAt ws 2) 16).getD []
  let inRange (x : Nat) : Bool := decide (1 ≤ x) && decide (x ≤ 2 ^ 20)
  if bitsOf (w 0) 30 18 ≠ 0 ∨ w 6 ≠ 0 ∨ w 7 ≠ 0 then (1, s)
  else if bitOf (w 0) 31 then
    (match s.oper? gd op with
     | none => (3, s)
     | some o =>
       if o.ctx ≠ cid then (3, s)
       else if operNamed s gd op then (2, s)
       else (0, { s with opers := Tab.del s.opers (operKey gd op) }))
  else if !inRange (w 4) || !inRange (w 5) || tmpl.isEmpty || !descOk c tmpl || dType tmpl != 1 || dGroups tmpl != 1 then (1, s)
  else if (s.oper? gd op).isSome then (2, s)
  else if 256 ≤ (s.opers.filter fun o => o.1 / 2 ^ 16 == gd).length then (4, s)
  else
    let o : Oper := { ctx := cid, span := bitOf (w 0) 17, sat := bitOf (w 0) 16, tmpl := tmpl, k := w 4, n := w 5 }
    (0, { s with opers := Tab.put s.opers (operKey gd op) o })

/-! ### Trays (R325, R415) -/

/-- Whether a Tray holds rows, or a fired tile whose TILE task has not ended. -/
def trayBusy (s : State) (k : Nat) : Bool :=
  (s.recs.any fun r => r.2.tray == k && r.2.st == .waiting && r.1 / 65536 == k / 64) || (s.tray k).bufs.any fun b => !b.empty
/-- Return a Tray's columns and reserved entries. -/
def unbindTray (s : State) (k : Nat) : State :=
  let t := s.tray k
  let s := t.bufs.foldl (fun s b => s.modEntry b.entry fun x => { x with reservedTray := none }) s
  { s with trays := Tab.del s.trays k }
/-- Take n entries of a die for a Tray's buffers. -/
def takeEntries (gd k : Nat) : Nat → Nat → State → Option (List Nat × State)
  | 0, _, s => some ([], s)
  | n + 1, i, s =>
    match freeEntryOf s gd with
    | none => none
    | some e =>
      match takeEntries gd k n (i + 1) (s.modEntry e fun x => { x with reservedTray := some (k, i) }) with
      | none => none
      | some (es, s) => some (e :: es, s)
/-- Take columns for each buffer, one run a buffer, by the rule of R162 (log 21). -/
def takeRuns (qk k n : Nat) : List Nat → State → Option State
  | [], s => some s
  | e :: es, s =>
    match freeRun s qk n with
    | none => none
    | some c =>
      let t := s.tray k
      let s := zeroColumns s qk c n
      takeRuns qk k n es { s with trays := Tab.put s.trays k { t with bufs := t.bufs ++ [{ first := c, entry := e }] } }
/-- The header of a Tray's built tile with a number of rows. -/
def trayHdr (t : Tray) (rows : Nat) : List Nat := [t.h0.toNat % 2 ^ 24 + rows * 2 ^ 24, t.h1.toNat, 0, 0]
/-- TRAY.SET of a record (R415). -/
def registerTray (s : State) (gd : Nat) (ws : List Word) : Nat × State :=
  let w (i : Nat) : Nat := wordAt ws i
  let op := bitsOf (w 0) 31 16
  let k := gd * 64 + bitsOf (w 0) 5 0
  let quad := bitsOf (w 0) 9 8
  let nbuf := bitsOf (w 1) 27 24
  let resc := bitsOf (w 4) 31 16
  let t : Tray := { oper := op, quad := gd * 5 + quad, maxwait := bitsOf (w 1) 23 0, h0 := w32 (w 2), h1 := w32 (w 3), rescol := resc }
  let h := parseHdr (trayHdr t 64)
  let t := { t with cols := h.columns }
  if bitsOf (w 0) 14 10 ≠ 0 ∨ bitsOf (w 0) 7 6 ≠ 0 ∨ bitsOf (w 1) 31 28 ≠ 0 ∨ bitsOf (w 4) 15 0 ≠ 0 ∨ w 5 ≠ 0 ∨ w 6 ≠ 0 ∨ w 7 ≠ 0 then (1, s)
  else if bitOf (w 0) 15 then (if trayBusy s k then (2, s) else (0, unbindTray s k))
  else if nbuf = 0 ∨ 8 < nbuf ∨ t.maxwait < 64 ∨ resc = 0 ∨ 64 < resc ∨ !h.ok ∨ h.sep ∨ h.nm ≠ 0 ∨ 6 < h.fmt then (1, s)
  else if trayBusy s k then (2, s)
  else
    match s.oper? gd op with
    | none => (3, s)
    | some _ =>
      if 0 < seatsOf s gd op ∧ nbuf < seatsOf s gd op + 1 then (5, s) else
      let s0 := unbindTray s k
      match takeEntries gd k nbuf 0 s0 with
      | none => (4, s)
      | some (es, s1) =>
        match takeRuns (gd * 5 + quad) k (t.cols + resc) es { s1 with trays := Tab.put s1.trays k t } with
        | none => (4, s)
        | some s2 => (0, s2)

/-! ### Belts (R147, R373, R416) -/

/-- Length of a tile image from its header words. -/
def imageLen (h : List Nat) : Nat := (parseHdr h).imageBytes
/-- The extents of a range: home die, page and byte count of each 64 KiB page it touches; none where a page is not
pinned, readable and not interleaved (R373). -/
def beltExtents (s : State) (gd asid va n : Nat) : Option (List (Nat × Nat × Nat)) :=
  (List.range ((va % 65536 + n + 65535) / 65536)).foldl (fun acc i =>
    let a := if i = 0 then va else va - va % 65536 + i * 65536
    let m := min (65536 - a % 65536) (va + n - a)
    match acc, walkHome s gd asid a, locate s gd asid a with
    | some xs, .ok leaf, .at l =>
      if leafIl leaf = 0 ∧ fPin l.leaf ∧ fR l.leaf ∧ !l.host ∧ !l.absent ∧ !l.obs then some (xs ++ [(l.gd, l.page * 65536 + l.off, m)]) else none
    | _, _, _ => none) (some [])
/-- A slot record's operator, its seats and its block. -/
def recOperOf (ws : List Word) : Nat := bitsOf (wordAt ws 2) 15 0
def recSeats (ws : List Word) : Nat := bitsOf (wordAt ws 2) 17 16 + 1
def recBlock (ws : List Word) : Nat := bitsOf (wordAt ws 3) 15 0
/-- A slot as registered, with the header of its tile. -/
structure SlotRec where
  slot : BeltSlot
  hdr : List Nat
  deriving DecidableEq, Repr
def slotRec (s : State) (gd asid : Nat) (ws : List Word) : Option SlotRec :=
  let va := pairAt ws 0
  match beltExtents s gd asid va 64, ctxWords s gd asid va 4 with
  | some _, some h =>
    let h := h.map BitVec.toNat
    (match beltExtents s gd asid va (imageLen h) with
     | some ex => some { slot := { addr := va, seats := recSeats ws, oper := recOperOf ws, block := recBlock ws, extents := ex }, hdr := h }
     | none => none)
  | _, _ => none
def notFalling : List Nat → Bool
  | [] => true
  | [_] => true
  | a :: b :: t => decide (a ≤ b) && notFalling (b :: t)
/-- What the slot records of one operator must keep of R147 and R416 whatever their tiles hold: one contiguous run, equal
seats, ascending blocks, every block named, and room in the operator's Trays. -/
def spanOk (s : State) (gd : Nat) (xs : List (List Word)) (op : Nat) : Bool :=
  let runAt : List Nat := (List.range xs.length).filter fun i => ((xs[i]?).map recOperOf) == some op
  let sub := xs.filter fun x => recOperOf x == op
  let c := (sub.map recSeats).headD 0
  let blocks := (((s.oper? gd op).getD {}).n + 127) / 128
  runAt == (List.range runAt.length).map (fun i => i + runAt.headD 0) &&
  (sub.all fun x => recSeats x == c) &&
  notFalling (sub.map recBlock) &&
  ((List.range blocks).all fun b => sub.any fun x => recBlock x == b) &&
  (sub.all fun x => decide (recBlock x < blocks)) &&
  (s.trays.all fun t => t.1 / 64 != gd || t.2.oper != op || decide (c + 1 ≤ t.2.bufs.length))
/-- Whether the K extents of an operator's tiles sum to its K in each block. -/
def sumsOk (s : State) (gd : Nat) (xs : List SlotRec) (op : Nat) : Bool :=
  let o := (s.oper? gd op).getD {}
  (List.range ((o.n + 127) / 128)).all fun b =>
    ((xs.filter fun x => x.slot.oper == op && x.slot.block == b).map fun x => (parseHdr x.hdr).kext).sum == o.k
/-- BELT.SET of a head and its slot records (R416). -/
def registerBelt (s : State) (gd : Nat) (ws : List Word) : Nat × State :=
  let w (i : Nat) : Nat := wordAt ws i
  let n := bitsOf (w 0) 31 16
  let split := bitOf (w 0) 3
  let r := bitsOf (w 0) 2 2
  let qk := gd * 5 + bitsOf (w 0) 1 0
  let cid := w 1
  let asid := (s.ctxOf cid).asid
  let slots := (List.range n).map fun i => (ws.drop (4 + 4 * i)).take 4
  let bad (x : List Word) : Bool := bitsOf (wordAt x 2) 31 18 != 0 || bitsOf (wordAt x 3) 31 16 != 0 || pairAt x 0 % 64 != 0 || outside (pairAt x 0)
  if n = 0 ∨ 4096 < n ∨ bitsOf (w 0) 15 4 ≠ 0 ∨ w 2 ≠ 0 ∨ w 3 ≠ 0 ∨ (r = 1 ∧ !split) ∨ slots.any bad ∨ ws.length < 4 + 4 * n then (1, s)
  else if bitOf (s.array qk).inForce (1 + r) then (2, s)
  else
    let ops := (slots.map fun x => bitsOf (wordAt x 2) 15 0).eraseDups
    if ops.any fun op => match s.oper? gd op with
        | some o => !o.span || o.ctx != cid
        | none => true
    then (3, s)
    else
      let recs := slots.map (slotRec s gd asid)
      if ops.any fun op => !spanOk s gd slots op then (5, s) else
      if recs.any Option.isNone then (6, s) else
      let xs := recs.filterMap id
      if ops.any fun op => !sumsOk s gd xs op then (5, s)
      else if xs.any fun x => !(parseHdr x.hdr).okA split || (parseHdr x.hdr).cen then (7, s)
      else
        let ring : Ring := { ctx := cid, split := split, slots := xs.map SlotRec.slot }
        (0, { s with rings := Tab.put s.rings (ringKey qk r split) ring })

end Sys2Proof.Machine
end

