-- ==== Sys2Proof/Machine/CommandEvents.lean ====
section
/-! DEFINITION. The rows in which commands start, move memory and complete, and in which signals, edges and arrivals
take effect (02: R39, R40; 08: R208 to R211; 09: R224 to R232; 10: R253 to R260; 12: R302, R316; 14: R342 to R354;
24: R471). A row whose condition does not hold changes nothing. -/
namespace Sys2Proof.Machine

/-! ### Results in registers (R41, R62) -/

/-- Write one word to a command's register in each issuing lane; a channel receives one row. -/
def writeCmdD (s : State) (c : Cmd) (d x : Nat) : State :=
  if !grpLive s c then s
  else if isCh d then pushChan s c.g (d - 0xE0) (laneNums.map fun l => if c.mask.getLsbD l then w32 x else 0)
  else (lanesIn c.mask).foldl (fun s l => wr s c.g l d x) s

/-! ### Starts (R39, R159, R229, R353) -/

def noTask : Nat := 0xFFFFFFFF
/-- A group no longer waits for the answer to its LAUNCH. -/
def clearLaunch (s : State) (g id : Nat) : State :=
  if (s.grp g).service = some (.launch id) then s.modGrp g fun x => { x with service := none } else s
/-- A post that fails: the entry is Free again, D receives 0xFFFFFFFF, the signal carries fault flag 1 (R344). -/
def postFail (s : State) (id : Nat) (c : Cmd) : State :=
  let s := s.modEntry c.pos fun x => { x with reserving := false }
  completeCmd (writeCmdD (clearLaunch s c.g id) c c.d noTask) id c true
/-- A command whose wait meets a fault flag completes without starting (R39). A collective keeps its place until every
rank has aborted (R265). -/
def noStart (s : State) (id : Nat) (c : Cmd) : State :=
  match c.op.kind with
  | .table => postFail s id c
  | .coll =>
    let s := ssig s c.ck c.sync true true
    setCmd s id { c with sync := 0, aborted := true, fault := true }
  | .image => completeCmd (if c.op = .ctxLoad then writeCmdD s c c.b (Config.freeWord s.tick).toNat else s) id c true
  | _ => completeCmd s id c true
/-- Whether a command may start once its wait is met. -/
def startable (s : State) (id : Nat) (c : Cmd) : Bool :=
  !c.started && !c.loading && !c.fault && !withheld s c.ck && !cmdGated s c && queueFree s id c && startClear s id c && c.op != .mcfg &&
    !(c.op == .launch && (s.grp c.g).service == some (.launch id))
/-- Whether a request of a command to an address leaves for its home: the home map gives one, its peer is not lost, and no
guard stands in between (R272, R276). -/
def canSend (s : State) (c : Cmd) (va : Nat) : Bool :=
  match walkHome s c.gd (c.asid s) va with
  | .ok leaf => !homeLost s c.gd (homeOf leaf va).1 && guardOpen s (c.asid s) c.gd (homeOf leaf va).1
  | .miss _ => false
/-- A command starts: its wait acquires, and what it captures at its start is captured. -/
def startCmd (s : State) (id : Nat) (c : Cmd) : State :=
  let s := acquireSem s c.ck c.sync
  let live : Cmd := { c with started := true, startedAt := s.cycle }
  match c.op.kind with
  | .tile => startArrayCmd s live
  | .region => startArrayCmd s live
  | .token =>
    let s := writeBackCore s c.ck
    setCmd { s with recs := Tab.put s.recs c.a { s.recAt c.a with st := .flight } } id live
  | .bank => fillBanks (setCmd s id live) c.bank.1
  | _ => setCmd s id { live with lanes := c.lanes.map fun v => if c.op = .ratom then { v with sent := canSend s c v.x } else v }
where
  startArrayCmd (s : State) (live : Cmd) : State := match startArray s c with
    | some ws => setCmd s id { live with image := ws }
    | none => arrayFault s id live
/-- COMMAND_START (R39). -/
def execCommandStart (cmd : Nat) (s : State) : Out :=
  match Tab.find? s.cmds cmd with
  | none => .next s
  | some c =>
    if !startable s cmd c then .next s else
    match waitMet s c.ck c.sync with
    | none => .next s
    | some false => .next (noStart s cmd c)
    | some true => .next (startCmd s cmd c)

/-! ### Movers, PUT and GET (R253 to R256, R232) -/

/-- Write a list of pieces; how many were written. -/
def writeList (gd ck asid kslot : Nat) (ps : List (Nat × List Nat)) (s : State) (who : Nat × Nat := (1, 0)) : State × Nat × Option Prob :=
  match ps with
  | [] => (s, 0, none)
  | p :: ps =>
    match pieceWrite s gd ck asid kslot p.1 (2 ^ p.2.length - 1) p.2 who with
    | .error e => (s, 0, some e)
    | .ok s => let r := writeList gd ck asid kslot ps s who; (r.1, r.2.1 + 1, r.2.2)
/-- Bytes cut into the pieces of a range. -/
def cutPieces (va : Nat) (bs : List Nat) : List (Nat × List Nat) :=
  (pieces va bs.length).map fun p => (p.1, (bs.drop (p.1 - va)).take p.2)
/-- Read several ranges, all or none. -/
def readMany (gd ck asid : Nat) (rs : List (Nat × Nat)) (s : State) (who : Nat × Nat := (1, 0)) : Except Prob (State × List (List Nat)) :=
  match rs with
  | [] => .ok (s, [])
  | r :: rs =>
    match readRange s gd ck asid r.1 r.2 who with
    | .error e => .error e
    | .ok (s, bs) =>
      match readMany gd ck asid rs s who with
      | .error e => .error e
      | .ok (s, cs) => .ok (s, bs :: cs)
/-- Which kind of access met a miss: a write where the address lies in the destination. -/
def probAcc (lo n : Nat) : Prob → Nat
  | .miss _ _ _ va => if lo ≤ va ∧ va < lo + n then 1 else 0
  | _ => 0
/-- The first address of a range that a guard would drop, and its home (R256). -/
def firstDropped (s : State) (c : Cmd) (va n : Nat) : Option (Nat × Nat) :=
  ((List.range ((va % 4096 + n + 4095) / 4096)).map fun i => if i = 0 then va else va - va % 4096 + 4096 * i).findSome? fun a =>
    match walkHome s c.gd (c.asid s) a with
    | .ok leaf => if guardOpen s (c.asid s) c.gd (homeOf leaf a).1 then none else some (a, (homeOf leaf a).1)
    | .miss _ => none
/-- Copy what a copy command has still to move: the new state, the bytes done, what stopped it. -/
def copyRun (s : State) (c : Cmd) : State × Nat × Option Prob :=
  let r := copyPieces c.gd c.ck (c.asid s) (c.kslot s) c.a c.d (pieces (c.d + c.pos) (c.b - c.pos)) s c.who
  if r.2.2.isNone then (r.1, c.b, none) else r
/-- A copy command goes on until it is done or stopped. -/
def copyGo (s : State) (id : Nat) (c : Cmd) : Out :=
  let dropped := if c.op.kind == .remote && c.pos == 0 then (firstDropped s c c.d c.b).orElse fun _ => firstDropped s c c.a c.b else none
  match dropped with
  | some (va, home) => cmdProb s id c 1 (.cause cGUARD_DROP va home)
  | none =>
    match copyRun s c with
    | (s, _, none) => .next (completeCmd s id c false)
    | (s, n, some p) => cmdProb s id { c with pos := n } (probAcc c.d c.b p) p
/-- MOV.GTH and MOV.SCT: every element is read, then the elements are written in ascending lane order. -/
def elementGo (s : State) (id : Nat) (c : Cmd) : Out :=
  let e := c.b
  let at_ (v : LaneVal) : Nat := c.d + v.lane * e
  let src (v : LaneVal) : Nat := if c.op = .movGth then v.x else at_ v
  let dst (v : LaneVal) : Nat := if c.op = .movGth then at_ v else v.x
  let got : Except Prob (State × List Nat) :=
    if !c.image.isEmpty then .ok (s, c.image) else
    match readMany c.gd c.ck (c.asid s) (c.lanes.map fun v => (src v, e)) s c.who with
    | .error p => .error p
    | .ok (s, bs) => .ok (s, bs.flatten)
  match got with
  | .error p => cmdProb s id c 0 p
  | .ok (s, bs) =>
    let ps := (c.lanes.zip (List.range c.lanes.length)).flatMap fun v => cutPieces (dst v.1) ((bs.drop (v.2 * e)).take e)
    match writeList c.gd c.ck (c.asid s) (c.kslot s) (ps.drop c.pos) s c.who with
    | (s, _, none) => .next (completeCmd s id c false)
    | (s, n, some p) => cmdProb s id { c with image := bs, pos := c.pos + n } 1 p
/-- MOVER_COMPLETE (R254, R255). -/
def execMoverComplete (cmd : Nat) (s : State) : Out :=
  onCmd s cmd (fun c => c.op.kind == .mover) fun c => if c.op = .movCpy then copyGo s cmd c else elementGo s cmd c
/-- PUT_GET_COMPLETE (R256). -/
def execPutGetComplete (cmd : Nat) (s : State) : Out :=
  onCmd s cmd (fun c => (c.op == .put || c.op == .get) && !c.trailing) fun c => copyGo s cmd c

/-- TRAIL falls by one with a trailing PUT, and its entry may become Free (R232, R315). -/
def lowerTrail (s : State) (e : Nat) : State := settleTask (s.modTask e fun x => { x with trail := x.trail - 1 }) e
/-- A trailing PUT fails (R232): the entry is faulted, its dependants that wait become Faulted, and the report names
the task, the PUT and the dependants. -/
def trailFail (s : State) (id : Nat) (c : Cmd) (cause : Nat) : State :=
  let e := (rangeRoot s c.task).getD c.task
  let x := s.entry e
  let s := s.setEntry e { x with fault := true }
  let s := jobFault s x.job (taskIdOf e)
  let s := (x.deps.filter fun t => (s.entry (entryOf t.toNat)).after.contains e).foldl (fun s t => markFaulted s (entryOf t.toNat)) s
  let s := s.report c.gd (causeReport s cause (taskIdOf e) 0 c.site ++ x.deps)
  lowerTrail (completeCmd s id c true) c.task
/-- What a trailing PUT would meet now. -/
def trailRun (s : State) (c : Cmd) : State × Nat × Option Prob :=
  match (if c.pos = 0 then firstDropped s c c.d c.b else none) with
  | some (va, home) => (s, 0, some (.cause cGUARD_DROP va home))
  | none => copyRun s c
/-- TRAILING_PUT_ACK (R232). -/
def execTrailingPutAck (cmd : Nat) (s : State) : Out :=
  onCmd s cmd (fun c => c.trailing) fun c =>
    match trailRun s c with
    | (s, _, none) => .next (lowerTrail (completeCmd s cmd c false) c.task)
    | (t, n, some (.miss k h key va)) =>
      if c.cause = cPAGE_FAULT then .next s
      else cmdProb t cmd { c with pos := n } (probAcc c.d c.b (.miss k h key va)) (.miss k h key va)
    | (t, n, some (.held gd page)) => cmdProb t cmd { c with pos := n } 1 (.held gd page)
    | (_, _, some (.absent gd page)) => .fault (.absentPage gd page)
    | (_, _, some (.cause _ _ _)) => .next s
/-- TRAILING_PUT_FAIL (R232, R253). -/
def execTrailingPutFail (cmd : Nat) (s : State) : Out :=
  onCmd s cmd (fun c => c.trailing) fun c =>
    match trailRun s c with
    | (t, _, some (.cause k va home)) =>
      .next (if k = cGUARD_DROP then trailFail (guardReport t c.gd home .req c.ctx va c.site) cmd c cPROTECTION else trailFail t cmd c k)
    | (t, _, some (.miss _ _ _ _)) => if c.cause = cPAGE_FAULT then .next (trailFail t cmd c cPAGE_FAULT) else .next s
    | _ => .next s

/-! ### RATOM (R257) -/

def ratomOp (k : Nat) : AccOp :=
  match k % 8 with
  | 0 => .add | 1 => .imin | 2 => .imax | 3 => .band | 4 => .bor | 5 => .bxor | 6 => .xchg | _ => .cas
/-- One lane's atomic at its home: its status and old value; what stops a lane that waits. A request that had left when its
peer was lost may have been performed (R276). -/
def ratomLane (s : State) (id : Nat) (c : Cmd) (v : LaneVal) : Except Prob (State × Nat × Nat) :=
  let asid := c.asid s
  match pieceAt s c.gd asid v.x true with
  | .error (.miss k h key va) => if c.cause = cPAGE_FAULT then .ok (s, 0x0B, 0) else .error (.miss k h key va)
  | .error (.cause k va home) =>
    if k = cPROTECTION then .ok (s, 0x0C, 0)
    else if k = cGUARD_DROP then .ok (guardReport s c.gd home .req c.ctx va c.site, 0x10, 0)
    else match locate s c.gd asid v.x with
      | .at l =>
        if l.host || !v.sent then .ok (s, 0x10, 0)
        else .ok (if Config.freeBool (s.tick * 2 ^ 40 + id * 64 + v.lane) then (match act s asid l with
          | .ok r => r.1
          | .error _ => s) else s, 0x11, 0)
      | .miss _ _ _ => .ok (s, if v.sent then 0x11 else 0x10, 0)
  | .error p => .error p
  | .ok l =>
    match act s asid l with
    | .ok (s, some old) => .ok (s, 0, old)
    | .ok (s, none) => .ok (s, 0x0F, 0)
    | .error p => .error p
where
  act (s : State) (asid : Nat) (l : Loc) : Except Prob (State × Option Nat) :=
    match lineReady s l c.ck asid v.x true true with
    | .error p => .error p
    | .ok s =>
      let q := askOf l c.gd (coreOfCk c.ck) 1 2 asid v.x 4 c.site
      match homeRead s l 4 with
      | none => .ok (homeAsk s l q false false true, none)
      | some bs =>
        let r := atomVal (ratomOp c.k) 0 0 [] 4 (leValue bs) v.y v.z
        .ok (match homePut s (c.kslot s) l q 15 (leBytes r.code 4) with
          | some t => (t, some (leValue bs))
          | none => (s, none))
/-- The lanes without a status take their turns. One that waits holds back only the later lanes to its own location
(R217, R257); the first that waits is named. -/
def ratomRun (id : Nat) (c : Cmd) (stop : List Nat) : List LaneVal → State → State × List LaneVal × Option Prob
  | [], s => (s, [], none)
  | v :: vs, s =>
    if v.status.isSome || stop.contains v.x then let r := ratomRun id c stop vs s; (r.1, v :: r.2.1, r.2.2) else
    match ratomLane s id c v with
    | .error p =>
      let r := ratomRun id { c with cause := 0 } (v.x :: stop) vs s
      let sent : Bool := match p with
        | .miss 1 _ _ _ => v.sent
        | _ => true
      (r.1, { v with sent := sent } :: r.2.1, some p)
    | .ok (s, st, old) =>
      let r := ratomRun id { c with cause := if st = 0x0B then 0 else c.cause } stop vs s
      (r.1, { v with status := some st, old := old } :: r.2.1, r.2.2)
/-- RATOM_COMPLETE (R257). -/
def execRatomComplete (cmd : Nat) (s : State) : Out :=
  onCmd s cmd (fun c => c.op == .ratom) fun c =>
    match ratomRun cmd c [] c.lanes s with
    | (s, vs, some p) =>
      let used := vs.any fun v => v.status == some 0x0B && (c.lanes.any fun w => w.lane == v.lane && w.status.isNone)
      cmdProb s cmd { c with lanes := vs, cause := if used then 0 else c.cause } 2 p
    | (s, vs, none) =>
      let s := if !grpLive s c || c.d = 0xFE then s else
        vs.foldl (fun s v => wr (wr s c.g v.lane c.d v.old) c.g v.lane (c.d + 1) (v.status.getD 0)) s
      .next (completeCmd s cmd c (vs.any fun v => v.status != some 0))

/-! ### Bank pieces (R209 to R211, R258 to R260) -/

/-- What a result counts (R153, R209). -/
def countRes (ty : Nat) (r : FRes) : Counts :=
  if ty < 8 then { sat := b2n (r.flags / flagSA % 2 == 1) } else
  match decodeF (fmtOf ty) false r.code with
  | .nan _ => { nan := 1 }
  | .inf _ => { inf := 1 }
  | v => if !v.isZero && decide (r.code % 2 ^ ((fmtOf ty).width - 1) < 2 ^ (fmtOf ty).mbits) then { und := 1 } else {}
/-- An element's value as a float; an integer's is exact. -/
def elemVal (ty : Nat) (flush : Bool) (x : Nat) : FVal :=
  if ty < 8 then exactOf ⟨if signedTy ty then sextI x (elemsOf ty).2 else (x : Int), 0⟩ false else decodeF (fmtOf ty) flush x
def intOf (ty x : Nat) : Int := if signedTy ty then sextI x (elemsOf ty).2 else (x : Int)
/-- One element of a bank command. -/
def bankElem (op : CmdOp) (mode alpha a b : Nat) : FRes :=
  let ty := modeType mode
  let r := roundingOf mode
  let f := fmtOf ty
  let v (x : Nat) : FVal := decodeF f r.flush x
  match op with
  | .bopAdd =>
    if ty < 8 then narrowI ty (elemsOf ty).2 r.sat (intOf ty a + intOf ty b) else finish f r 0 (fAdd r.rm (v a) (v b))
  | .bopMax =>
    if ty < 8 then { code := if intOf ty a < intOf ty b then b else a, flags := 0 } else finish f r 0 (xval (fMinMax true (v a) (v b)))
  | .bopAxpy => finish f r 0 (fFma r.rm false false (decodeF .f32 r.flush alpha) (v a) (v b))
  | .bopCvt =>
    let y := mulN (elemVal (bitsOf alpha 15 12) r.flush a) (e8m0 (alpha % 256))
    if ty < 8 then toInt ty (elemsOf ty).2 r.rm y else convF f r 0 y
  | _ => { code := a, flags := 0 }
/-- The bytes of elements. -/
def elemList (w : Nat) (bs : List Nat) : List Nat := (List.range (bs.length / w)).map fun i => leValue ((bs.drop (w * i)).take w)
/-- The result of one piece, with its counts. -/
def bankPiece (c : Cmd) (xs ys : List Nat) : List Nat × Counts :=
  if c.op = .bopFill then ((List.range 64).flatMap fun _ => leBytes c.b 4, {}) else
  let ty := modeType c.mode.toNat
  let w := (elemsOf ty).2 / 8
  let rs := ((elemList w xs).zip (elemList w ys)).map fun p => bankElem c.op c.mode.toNat c.b p.1 p.2
  (rs.flatMap fun r => leBytes r.code w, sumCounts (rs.map (countRes ty)))
/-- The source addresses of a piece: BOP.AXPY reads its destination. -/
def bankSources (c : Cmd) : List Nat :=
  match c.op with
  | .bopAdd => [c.a, c.b] | .bopMax => [c.a, c.b] | .bopAxpy => [c.a, c.d] | .bopCvt => [c.a, c.a] | _ => []
/-- The die on which an element of a command is written (R449). -/
def writeDie (s : State) (c : Cmd) (va : Nat) : Nat :=
  match locate s c.gd (c.asid s) va with
  | .at l => l.gd
  | .miss _ _ _ => c.gd
/-- What a bank unit does with one 256-byte piece: its lines are taken from the caches, read, computed and written in one
step (R209, R210). -/
def bankRun (s : State) (c : Cmd) (off : Nat) : Except Prob State :=
  let asid := c.asid s
  let srcs := bankSources c
  match bankReads c.gd c.ck asid (srcs.flatMap fun a => pieces (a + off) 256) s with
  | .error p => .error p
  | .ok (s, bs) =>
    let r := bankPiece c (bs.take 256) (bs.drop 256)
    match bankWrites c.gd c.ck asid (c.kslot s) c.site (pieces (c.d + off) 256) r.1 s with
    | .error p => .error p
    | .ok s => .ok (addCensus s (writeDie s c (c.d + off)) (censusIndex c.site) c.site r.2)
/-- BANK_PIECE (R208, R209): the piece at the head of a bank's queue is done; the command completes with its last. The row
names both: command * 1024 + bank. -/
def execBankPiece (piece : Nat) (s : State) : Out :=
  let cmd := piece / 1024
  let bank := piece % 1024
  onCmd s cmd (fun c => c.op.kind == .bank) fun c =>
    match Tab.get s.bankQs (c.bank.1 * 1024 + bank) [] with
    | [] => .next s
    | (id, off) :: ps =>
      if id != cmd then .next s else
      match bankRun s c off with
      | .error p => cmdProb s cmd c 6 p
      | .ok t =>
        let t := { t with bankQs := Tab.set t.bankQs [] (c.bank.1 * 1024 + bank) ps }
        let c := { c with pos := c.pos + 256 }
        .next (if c.k ≤ c.pos then completeCmd t cmd c false else fillBanks (setCmd t cmd c) c.bank.1)

/-! ### Posts (R344, R471) -/

/-- The record slots that a task holds on its die, in ascending order. -/
def heldSlots (s : State) (e : Nat) : List Nat := (s.recs.filter fun r => r.2.st == .held e).map Prod.fst
/-- Take the reserved entry for a descriptor that passed its check; a TASK.POST hands over the poster's records. -/
def takePosted (s : State) (c : Cmd) (ws : List Word) : State :=
  let held := if c.op = .taskPost then heldSlots s c.task else []
  let s := s.setEntry c.pos { words := ws, ctx := c.ctx, st := .waiting, dep := c.b, parent := w32 (taskIdOf c.task),
                              rows := held.map (· % 65536), root := c.op == .launch }
  let s := held.foldl (fun s k => { s with recs := Tab.put s.recs k { s.recAt k with st := .heldEntry c.pos } }) s
  tryReady s c.pos
/-- TASK_POST_COMPLETE (R344): the descriptor is read and checked; what happened before the start is released at PKG scope
before the entry is taken (R348). -/
def execTaskPostComplete (cmd : Nat) (s : State) : Out :=
  onCmd s cmd (fun c => c.op.kind == .table) fun c =>
    match readRange s c.gd c.ck (c.asid s) c.a 64 c.who with
    | .error (.absent gd page) => .fault (.absentPage gd page)
    | .error (.held gd page) => cmdProb s cmd c 0 (.held gd page)
    | .error (.miss k h key va) =>
      if c.cause = cPAGE_FAULT then .next (postFail (failReport s c cPAGE_FAULT) cmd c) else cmdProb s cmd c 0 (.miss k h key va)
    | .error (.cause k va home) =>
      .next (postFail (if k = cGUARD_DROP then failReport (guardReport s c.gd home .req c.ctx va c.site) c cPROTECTION
        else failNote s c k va) cmd c)
    | .ok (s, bs) =>
      let ws := wordsOfBytes bs 16
      let t := dType ws
      let typeOk := if c.op = .launch then t == 0 else decide (2 ≤ t) && decide (t ≤ 5)
      let many := c.op == .taskPost && decide (64 < (heldSlots s c.task).length)
      if !typeOk || many || !descOk (s.ctxOf c.ctx) ws then .next (postFail s cmd c) else
      let s := writeBackCore s c.ck
      if !coreClean s c.ck then .next s
      else .next (completeCmd (writeCmdD (takePosted s c ws) c c.d (taskIdOf c.pos)) cmd c false)
/-- LAUNCH_ROOT_ANSWER (R344): the issuing group goes on. -/
def execLaunchRootAnswer (cmd : Nat) (s : State) : Out :=
  match Tab.find? s.cmds cmd with
  | none => .next s
  | some c => .next (clearLaunch s c.g cmd)

/-! ### TOK.SEND (R230, R353) -/

/-- TOKEN_ARRIVAL (R353): the destination accepts or refuses the record; `pos` becomes 1 or 2. -/
def execTokenArrival (cmd : Nat) (s : State) : Out :=
  onCmd s cmd (fun c => c.op == .tokSend && c.pos == 0) fun c =>
    let s := writeBackCore s c.ck
    if !coreClean s c.ck then .next s else
    let r := s.recAt c.a
    let refuse (s : State) : Out := .next (setCmd s cmd { c with pos := 2 })
    if homeLost s c.gd c.d then refuse s
    else if !routeOpen s c.gd c.d then refuse (guardReport s c.gd c.d .tok c.ctx (wordAt r.words 0) c.site)
    else if !slotsOn s (c.asid s) c.gd c.d then .next s
    else match trayOf s c.d (recOper r) with
      | none => refuse (s.report c.d (causeReport s cTOKEN_FAULT (taskIdOf c.task) 0 c.site))
      | some t =>
        match freeSlot s c.d with
        | none => refuse s
        | some n =>
          if !canTake s t then refuse s else
          let s := { s with recs := Tab.put s.recs c.a { r with st := .kept } }
          let s := { s with recs := Tab.put s.recs (recKey c.d n) (enterTray r t s.cycle) }
          .next (setCmd s cmd { c with pos := 1 })
/-- TOK_SEND_OUTCOME (R353). A refused record whose sender has ended passes to the steward (R305). -/
def execTokSendOutcome (cmd : Nat) (s : State) : Out :=
  onCmd s cmd (fun c => c.op == .tokSend && c.pos != 0) fun c =>
    if c.pos = 1 then .next (completeCmd { s with recs := Tab.del s.recs c.a } cmd c false) else
    let back (st : RecState) : State := { s with recs := Tab.put s.recs c.a { s.recAt c.a with st := st } }
    let s := if (s.entry c.task).st = .running then back (.held c.task)
      else (back .steward).report c.gd (causeReport s cTOKEN_FAULT (taskIdOf c.task) 0 c.site ++ [w32 (c.a % 65536)])
    .next (completeCmd s cmd c true)

/-! ### Signals, edges and arrivals (R302, R316, R342, R345, R346) -/

/-- Whether what a signal releases has been performed: the accesses, the commands, and the core's dirty bytes. -/
def sigReady (s : State) (x : Sig) : Bool :=
  (x.accs.all fun i => !Tab.has s.cmds i && (match Tab.find? s.accs i with
    | some a => !a.stage.pending
    | none => true)) && (!x.wide || coreClean (writeBackCore s x.ck) x.ck)
/-- Perform a signal's release and take it off the list. -/
def sigRelease (s : State) (id : Nat) (x : Sig) : State :=
  let s := if x.wide then writeBackCore s x.ck else s
  { s with sigs := Tab.del s.sigs id }
/-- SEMA_ADD_APPLY (R342); the signals of SUSP and END that wait for accesses go the same way (R40). -/
def execSemaAddApply (sig : Nat) (s : State) : Out :=
  match Tab.find? s.sigs sig with
  | none => .next s
  | some x =>
    if x.task.isSome || !sigReady s x then .next s
    else .next (returnBlocks (applyInc (sigRelease s sig x) x.ck x.sem x.delta x.fset x.wide))
/-- TASK_SIG_DECREMENT (R346). -/
def execTaskSigDecrement (sig : Nat) (s : State) : Out :=
  match Tab.find? s.sigs sig with
  | none => .next s
  | some x =>
    match x.task with
    | none => .next s
    | some (e, f) => if sigReady s x then .next (applyDep (sigRelease s sig x) e f none) else .next s
/-- TASK_DEP_ANSWER (R345). -/
def execTaskDepAnswer (g : Nat) (s : State) : Out :=
  match (s.grp g).service with
  | some (.dep _ _) => .next (s.modGrp g fun x => { x with service := none })
  | _ => .next s
def takeMsg (s : State) (m : Nat) : State := { s with msgs := Tab.del s.msgs m }
/-- DEPENDANT_DECREMENT (R316). -/
def execDependantDecrement (msg : Nat) (s : State) : Out :=
  match (Tab.find? s.msgs msg).map MsgRec.msg with
  | some (.depDec src dst fault) => .next (applyDep (takeMsg s msg) dst fault (some src))
  | _ => .next s
/-- BARRIER_ARRIVAL_MESSAGE (R302, R303). -/
def execBarrierArrivalMessage (msg : Nat) (s : State) : Out :=
  match (Tab.find? s.msgs msg).map MsgRec.msg with
  | some (.arrival k g sync) => .next (arriveLevel (takeMsg s msg) k g sync)
  | _ => .next s

end Sys2Proof.Machine
end

