-- ==== Sys2Proof/Machine/Collective.lean ====
section
/-! DEFINITION. The rows of collectives: flits that arrive, completion, abort (09: R228, R229; 10: R261 to R265;
18: R434). A communicator is numbered CTXID * 4096 + COMM. A row whose condition does not hold changes nothing. -/
namespace Sys2Proof.Machine

/-! ### Members (R262, R265) -/

def commKey (c : Cmd) : Nat := c.ctx * 4096 + cmdComm c.b
/-- The oldest outstanding command of each rank of a communicator. -/
def members (s : State) (key : Nat) : List (Nat × Cmd) :=
  s.cmds.foldl (fun (ms : List (Nat × Cmd)) e =>
    if e.2.op.isColl && commKey e.2 == key && !(ms.any fun m => m.2.rank == e.2.rank) then ms ++ [e] else ms) []
/-- The ranks of the communicator of some members. -/
def ranksOf (s : State) (key : Nat) (ms : List (Nat × Cmd)) : List (Nat × Nat) :=
  match ms with
  | [] => []
  | m :: _ => (commRanks s m.2.gd m.2.ctx (key % 4096)).getD []
def memberOf (ms : List (Nat × Cmd)) (r : Nat) : Option (Nat × Cmd) := List.find? (fun m : Nat × Cmd => m.2.rank == r) ms
def allPresent (rs : List (Nat × Nat)) (ms : List (Nat × Cmd)) : Bool :=
  (List.range rs.length).all fun r => (memberOf ms r).isSome
/-- A rank that can bring no member any more: its die or package is lost, its die is gated (R453), or its task has left the
table with none issued (log 26). A rank that is checkpointed, or waits for its dispatch, still can. -/
def deadRank (s : State) (rs : List (Nat × Nat)) (ms : List (Nat × Cmd)) : Bool :=
  (List.range rs.length).any fun r =>
    let x := rs.getD r (0, 0)
    let lost := dieLost s x.1 || gatedDie s x.1 || ms.any fun m => (s.pkg (pkgOf m.2.gd)).lostPkgs.contains (pkgOf x.1)
    lost || ((memberOf ms r).isNone && (match (s.entry (entryOf x.2)).st with
      | .free => true | .ending => true | .faulted => true | _ => false))
def typedColl (op : CmdOp) : Bool := op == .collAr || op == .collRs
/-- Whether two matched commands agree (R265); TYPE counts where the command is typed: R263 has the others ignore it (log 48). -/
def collMatch (a b : Cmd) : Bool :=
  a.op == b.op && a.k == b.k && bitsOf a.b 19 18 == bitsOf b.b 19 18 && a.b % 4096 == b.b % 4096 &&
    (!typedColl a.op || modeType a.mode.toNat == modeType b.mode.toNat)
def mismatch (ms : List (Nat × Cmd)) : Bool :=
  match ms with
  | [] => false
  | m :: rest => rest.any fun x => !collMatch m.2 x.2

/-! ### Results (R263, R264) -/

/-- Element width in bytes: a typed collective's element, else one byte. -/
def collWidth (c : Cmd) : Nat := if typedColl c.op then (elemsOf (modeType c.mode.toNat)).2 / 8 else 1
/-- The reduction of some contributions under the mode of the rank that writes. -/
def reduceElem (c : Cmd) (xs : List Nat) : FRes :=
  let mode := c.mode.toNat
  let ty := modeType mode
  let r := roundingOf mode
  let f := fmtOf ty
  let op := bitsOf c.b 19 18
  if ty < 8 then
    let vs := xs.map (intOf ty)
    if op = 0 then narrowI ty (elemsOf ty).2 r.sat (sumI vs)
    else { code := wrapI (if op = 1 then greatestI vs else leastI vs) (elemsOf ty).2, flags := 0 }
  else
    let vs := xs.map (decodeF f r.flush)
    if op = 0 then finish f r 0 (fredSum r.rm vs)
    else match vs with
      | [] => { code := 0, flags := 0 }
      | v :: rest => finish f r 0 (xval (rest.foldl (fMinMax (op == 1)) v))
/-- The ranks that contribute to element i of a receive buffer. -/
def sources (c : Cmd) (p i : Nat) : List Nat :=
  match c.op with
  | .collAg => [i / c.k]
  | .collA2a => [i / c.k]
  | .collBc => [c.b % 4096]
  | _ => List.range p
/-- Where, in the send buffer of a rank that contributes, its contribution to element i of a rank's receive buffer lies. -/
def sendOff (c : Cmd) (i : Nat) : Nat :=
  match c.op with
  | .collRs => c.rank * c.k + collWidth c * i
  | .collAg => i % c.k
  | .collA2a => c.rank * c.k + i % c.k
  | _ => collWidth c * i
/-- What a member's send buffer contributes at an offset: the value as it was read for the first flit that carried it, else as
the whole buffer was read. -/
def sendElem (c : Cmd) (off : Nat) : Nat :=
  match List.find? (fun e : Nat × Nat => e.1 == off) c.took with
  | some e => e.2
  | none => leValue ((c.image.drop off).take (collWidth c))
/-- The contributions of some ranks to element i. -/
def contribs (ms : List (Nat × Cmd)) (c : Cmd) (i : Nat) (srcs : List Nat) : List Nat :=
  srcs.map fun q => sendElem (((memberOf ms q).map Prod.snd).getD c) (sendOff c i)
/-- The bytes of element i of a rank's receive buffer, from the contributions of some ranks. -/
def recvElem (ms : List (Nat × Cmd)) (c : Cmd) (i : Nat) (srcs : List Nat) : List Nat :=
  let xs := contribs ms c i srcs
  leBytes (if typedColl c.op then (reduceElem c xs).code else xs.headD 0) (collWidth c)
def recvCount (c : Cmd) (p : Nat) : Nat := recvLen c.op c.k p / collWidth c
/-- Whether every contribution to an element has arrived: the element has its final value, and is written no more. -/
def elemFinal (c : Cmd) (p i : Nat) : Bool := (sources c p i).all fun q => c.arrived.contains (q, i)
/-- The parts of a receive buffer that completion writes: address, byte enables and bytes of each line. -/
def recvParts (ms : List (Nat × Cmd)) (c : Cmd) : List (Nat × Nat × List Nat) :=
  let p := ms.length
  let bs := (List.range (recvCount c p)).flatMap fun i => recvElem ms c i (sources c p i)
  (cutPieces c.d bs).filterMap fun x =>
    let en := ((List.range x.2.length).map fun j => if elemFinal c p ((x.1 - c.d + j) / collWidth c) then 0 else 2 ^ j).sum
    if en = 0 then none else some (x.1, en, x.2)

/-! ### Reads and writes of the engines (R228, R253, R265, R271) -/

/-- The matched commands abort; all but one that completes for itself. -/
def abortAll (s : State) (key id : Nat) : State :=
  let ids := (members s key).map Prod.fst
  { s with cmds := s.cmds.map fun e => if ids.contains e.1 && e.1 != id then (e.1, { e.2 with aborted := true }) else e }
/-- One member fails on a cause: every other rank aborts (R253, R265, R434). -/
def collProb (s : State) (id : Nat) (c : Cmd) (acc : Nat) (p : Prob) : Out :=
  let stops := match p with
    | .cause _ _ _ => true
    | .miss _ _ _ _ => c.cause == cPAGE_FAULT
    | _ => false
  cmdProb (if stops then abortAll s (commKey c) id else s) id c acc p
/-- Read one element of a member's send buffer, unless it has been read. -/
def takeElem (s : State) (e : Nat × Cmd) (off : Nat) : Except Prob State :=
  let c := e.2
  if c.took.any fun t => t.1 == off then .ok s else
  match readRange s c.gd c.ck (c.asid s) (c.a + off) (collWidth c) c.who with
  | .error x => .error x
  | .ok (s, bs) => .ok (setCmd s e.1 { c with took := c.took ++ [(off, leValue bs)] })
/-- Read the send buffers that are not read yet. -/
def captureAll (p : Nat) : List (Nat × Cmd) → State → State × Option (Nat × Cmd × Prob)
  | [], s => (s, none)
  | e :: es, s =>
    let c := e.2
    if !c.image.isEmpty then captureAll p es s else
    match readRange s c.gd c.ck (c.asid s) c.a (sendLen c.op c.k p) c.who with
    | .error x => (s, some (e.1, c, x))
    | .ok (s, bs) => captureAll p es (setCmd s e.1 { c with image := bs })
/-- Write some parts of lines: how many were written. -/
def writeParts (c : Cmd) : List (Nat × Nat × List Nat) → State → State × Nat × Option Prob
  | [], s => (s, 0, none)
  | p :: ps, s =>
    match pieceWrite s c.gd c.ck (c.asid s) (c.kslot s) p.1 p.2.1 p.2.2 c.who with
    | .error e => (s, 0, some e)
    | .ok s => let r := writeParts c ps s; (r.1, r.2.1 + 1, r.2.2)
/-- Write the receive buffers, each from where it stands. -/
def deliverAll (ms : List (Nat × Cmd)) : List (Nat × Cmd) → State → State × Option (Nat × Cmd × Prob)
  | [], s => (s, none)
  | e :: es, s =>
    let c := e.2
    match writeParts c ((recvParts ms c).drop c.pos) s with
    | (s, n, some x) => (s, some (e.1, { c with pos := c.pos + n }, x))
    | (s, n, none) => deliverAll ms es (setCmd s e.1 { c with pos := c.pos + n })
/-- Count the elements of a reduction, each on the die where it is written (R449). -/
def countColl (ms : List (Nat × Cmd)) (s : State) (c : Cmd) : State :=
  if !typedColl c.op then s else
  (List.range (recvCount c ms.length)).foldl (fun s i =>
    addCensus s (writeDie s c (c.d + collWidth c * i)) (censusIndex c.site) c.site
      (countRes (modeType c.mode.toNat) (reduceElem c (contribs ms c i (List.range ms.length))))) s
/-- The release and the acquire of a participant at POD scope (R228). -/
def collOrder (s : State) (c : Cmd) : State := dropClean (writeBackCore s c.ck) c.ck
/-- The releases of some participants; none while a dirty byte of one can not be written back. -/
def collRelease (s : State) (ms : List (Nat × Cmd)) : Option State :=
  let t := ms.foldl (fun s m => writeBackCore s m.2.ck) s
  if ms.all fun m => coreClean t m.2.ck then some t else none
/-- Whether a collective runs: every rank's command has started, they agree, and what each released when it issued has been
performed (R224, R228); the links between the ranks have slots for their flits (R270). -/
def collLive (s : State) (ms : List (Nat × Cmd)) (rs : List (Nat × Nat)) : Bool :=
  !rs.isEmpty && allPresent rs ms && !mismatch ms && (ms.all fun m => !m.2.aborted && cmdLive s m.1 m.2) &&
    ms.all fun r => ms.all fun q => !routeOpen s q.2.gd r.2.gd || slotsOn s (q.2.asid s) q.2.gd r.2.gd
/-- The guard that a flit between two members meets, as source and destination (R271, R272). -/
def collGuard (s : State) (ms : List (Nat × Cmd)) : Option (Cmd × Cmd) :=
  ms.findSome? fun r => (ms.find? fun q => (r.2.op != .collBc || q.2.rank == r.2.b % 4096) && !routeOpen s q.2.gd r.2.gd).map fun q => (q.2, r.2)
/-- A guard drops a flit: one report, and every rank aborts. -/
def collDropped (s : State) (key : Nat) (q r : Cmd) : Out :=
  .next (abortAll (guardReport s q.gd r.gd .col q.ctx q.a q.site) key (2 ^ 64))

/-! ### Rows -/

/-- COLLECTIVE_COMPLETE (R228). What a participant writes to a receive element after the element has its final value stays. -/
def execCollectiveComplete (comm : Nat) (s : State) : Out :=
  let ms := members s comm
  let rs := ranksOf s comm ms
  if !collLive s ms rs then .next s else
  match collGuard s ms with
  | some (q, r) => collDropped s comm q r
  | none =>
    match collRelease s ms with
    | none => .next s
    | some s =>
      match captureAll rs.length ms s with
      | (s, some (id, c, p)) => collProb s id c 0 p
      | (s, none) =>
        let ms := members s comm
        match deliverAll ms ms s with
        | (s, some (id, c, p)) => collProb s id c 1 p
        | (s, none) =>
          let s := (ms.map Prod.snd).foldl (countColl ms) s
          .next (ms.foldl (fun s m => completeCmd (collOrder s m.2) m.1 m.2 false) s)
/-- The members that abort now (R229, R265): those that a failure or a kill has marked; else all, where the ranks do not
agree, one of them completed without starting, or one can bring no member any more. -/
def aborting (s : State) (comm : Nat) : List (Nat × Cmd) :=
  let ms := members s comm
  let rs := ranksOf s comm ms
  let marked := ms.filter fun m => m.2.aborted && !m.2.fault
  if !marked.isEmpty ∧ !(ms.any fun m => m.2.fault) then marked
  else if rs.isEmpty || deadRank s rs ms || (allPresent rs ms && (mismatch ms || ms.any fun m => m.2.fault)) then ms else marked
/-- COLLECTIVE_ABORT (R229, R265): fault flag 1 on every participant's signal, and a report of COLLECTIVE_ABORTED to
the steward of its die. -/
def execCollectiveAbort (comm : Nat) (s : State) : Out :=
  let ms := aborting s comm
  match collRelease s ms with
  | none => .next s
  | some s => .next (ms.foldl (fun s m => completeCmd (failReport (collOrder s m.2) m.2 cCOLL_ABORTED) m.1 m.2 true) s)
/-- COLLECTIVE_FLIT_ARRIVAL (R228): the contribution of rank `src` to element `elem` of a receive buffer arrives; the element
then holds the reduction of those that have arrived. In a buffer that is sent and received in place, the rank's own
contribution is read first. -/
def execCollectiveFlitArrival (cmd src elem : Nat) (s : State) : Out :=
  onCmd s cmd (fun c => c.op.isColl && !c.aborted && c.image.isEmpty) fun c =>
    let key := commKey c
    let ms := members s key
    let rs := ranksOf s key ms
    if !collLive s ms rs || ms.any (fun m => !m.2.image.isEmpty) || (memberOf ms c.rank).map Prod.fst != some cmd ||
        recvCount c rs.length ≤ elem || !(sources c rs.length elem).contains src || c.arrived.contains (src, elem) then .next s else
    match collGuard s ms with
    | some (q, r) => collDropped s key q r
    | none =>
      match collRelease s ms with
      | none => .next s
      | some s =>
        let own : Except Prob State := if c.a = c.d then takeElem s (cmd, c) (sendOff c elem) else .ok s
        match own with
        | .error p => collProb s cmd c 0 p
        | .ok s =>
          match memberOf (members s key) src with
          | none => .next s
          | some m =>
            match takeElem s m (sendOff c elem) with
            | .error p => collProb s m.1 m.2 0 p
            | .ok s =>
              let ms := members s key
              let c := ((memberOf ms c.rank).map Prod.snd).getD c
              let arrived := c.arrived ++ [(src, elem)]
              let srcs := ((arrived.filter fun a => a.2 == elem).map Prod.fst)
              match writeRange s c.gd c.ck (c.asid s) (c.kslot s) (c.d + collWidth c * elem) (recvElem ms c elem srcs) c.who with
              | (s, some p) => collProb s cmd c 1 p
              | (s, none) => .next (setCmd s cmd { c with arrived := arrived })

end Sys2Proof.Machine
end

