-- ==== Sys2Proof/Machine/Registers.lean ====
section
/-! DEFINITION. What writes of the steward's registers do, the kill of a context, and alarms (12: R302; 15: R371;
16: R378, R381, R386, R398, R399). SREG.WR and the rows of these writes share the operations of this file. -/
namespace Sys2Proof.Machine

/-! ### Level barriers (R302) -/

/-- A write of LBARl_i. -/
def lbarWrite (s : State) (k : Nat) (w : Word) : State :=
  let b := s.lbar k
  let v := w.toNat
  let e := bitsOf v 24 0
  let refused := bitsOf v 29 25 != 0 || (bitOf v 31 && e == 0) || (!b.brk && b.count != 0)
  if refused then s else
  { s with lbars := Tab.put s.lbars k { en := bitOf v 31, e := e, ctx := b.ctx } }
/-- A write of LBCTXl_i. -/
def lbctxWrite (s : State) (k : Nat) (w : Word) : State :=
  { s with lbars := Tab.put s.lbars k { s.lbar k with ctx := w.toNat } }

/-! ### Partitions and slots (R381) -/

/-- Whether a value of PARTCFG has a rectangle. -/
def partcfgOk (v : Nat) : Bool := decide (bitsOf v 14 12 ≤ bitsOf v 8 6) && decide (bitsOf v 11 9 ≤ bitsOf v 5 3)
/-- Whether a value is legal for LSLOTp_w. -/
def lslotOk (wi v : Nat) : Bool :=
  (List.range 8).all fun j =>
    let o := v / 16 ^ j % 16
    if j = 0 ∧ wi % 4 = 0 then o == 8 else decide (o ≤ 7) || o == 15
/-- A write of a die register that has no row of its own: PARTCFG, PARTTEN, LSLOTp_w, GTBL (R381) and ALARMLOG (R398). -/
def dieRegWrite (s : State) (gd n : Nat) (w : Word) : State :=
  let v := w.toNat
  if n = 0x80 then (if partcfgOk v then s.modDie gd fun d => { d with partcfg := w &&& 0x80007FFF#32 } else s)
  else if n = 0x81 then s.modDie gd fun d => { d with partten := w &&& 0xFF#32 }
  else if 0x88 ≤ n ∧ n < 0xA8 then (if lslotOk ((n - 0x88) % 8) v then s.modDie gd fun d => { d with lslots := Tab.put d.lslots (n - 0x88) w } else s)
  else if n = 0xA8 then s.modDie gd fun d => { d with gtblLo := w }
  else if n = 0xA9 then s.modDie gd fun d => { d with gtblHi := w }
  else if n = 0xC1 then s.modPkg (pkgOf gd) fun p => { p with log := p.log &&& ~~~(w &&& 0xF#32) }
  else s

/-! ### Keys (R386) -/

def keyFill (s : State) (p slot : Nat) : State :=
  if slot = 0 ∨ 255 < slot then s else
  s.modPkg p fun x => { x with keyEpoch := x.keyEpoch + 1, keys := Tab.put x.keys slot (x.keyEpoch + 1) }
def keyZero (s : State) (p slot : Nat) : State := s.modPkg p fun x => { x with keys := Tab.del x.keys slot }

/-! ### Fault records (R371) -/

/-- Answer every parked sub-group of a record. -/
def answerParks (s : State) (k : Nat) (decline : Bool) : State :=
  s.groups.foldl (fun s e =>
    (e.2.parked.filter fun p => p.frec == k).foldl (fun s p => if Tab.has s.groups e.1 then answerPark s e.1 p decline else s) s) s
/-- Answer every command paused by a record; a declined one completes under R253 at its next piece. -/
def answerCmds (s : State) (k : Nat) (decline : Bool) : State :=
  { s with cmds := s.cmds.map fun c =>
      if c.2.paused = some k then (c.1, { c.2 with paused := none, cause := if decline then cPAGE_FAULT else c.2.cause }) else c }
/-- Lanes that were held for want of a record re-issue once one is free (R369). -/
def freeAllFull (s : State) : State :=
  s.groups.foldl (fun s e => if (s.grp e.1).parked.length < 8 && Tab.has s.groups e.1 then freeFull s e.1 else s) s
/-- A write of FRES. -/
def fresEffect (s : State) (gd : Nat) (w : Word) : State :=
  let s := s.modDie gd fun d => { d with fres := w &&& 0x8000FFFF#32 }
  let n := bitsOf w.toNat 15 0
  let k := gd * 256 + n
  if n < 256 ∧ Tab.has s.faultRecs k then
    let s := { s with faultRecs := Tab.del s.faultRecs k }
    let d := bitOf w.toNat 31
    freeAllFull (answerCmds (answerParks s k d) k d)
  else s

/-! ### The kill of a context (R378) and alarms (R398, R399) -/

def closeChannels (s : State) (ctx : Nat) : State :=
  { s with chans := s.chans.filterMap fun k =>
      if k.2.ctx = ctx then (closeCheck true { k.2 with prods := [] }).map fun c => (k.1, c) else some k }
/-- Open submission entries complete with status 0x06. -/
def closeJobs (s : State) (ctx : Nat) : State :=
  { s with jobs := s.jobs.map fun j =>
      if j.2.ctx = ctx ∧ j.2.doneAt.isNone then (j.1, { j.2 with status := 6, detail := 0, doneAt := some s.cycle, pending := [] }) else j }
def killContext (s : State) (ctx : Nat) : State :=
  if !Tab.has s.ctxs ctx then s else
  let s := { s with ctxs := Tab.put s.ctxs ctx { s.ctxOf ctx with dead := true } }
  let s := closeJobs s ctx
  let es := (s.entries.filter fun e => e.2.ctx == ctx).map Prod.fst
  let s := es.foldl (fun s e => killTask s e cKILLED 0) s
  let s := es.foldl (fun s e => markFaulted s e) s
  let s := closeChannels s ctx
  (s.lbars.filter fun b => b.2.en && b.2.ctx == ctx).foldl (fun s b => breakBar s b.1) s
/-- Whether a context has a place in a package: a partition of its tag, or entries or groups there. -/
def ctxOnPkg (s : State) (p c : Nat) : Bool :=
  ((List.range 64).any fun d => partOf s (p * 64 + d) == some (s.ctxOf c).part) ||
  (s.entries.any fun e => e.2.ctx == c && pkgOf (e.1 / 16384) == p) || (s.groups.any fun g => g.2.ctx == c && pkgOf (gdOf g.1) == p)
def killPkgContexts (s : State) (p : Nat) : State :=
  ((s.ctxs.filter fun c => !c.2.words.isEmpty && !c.2.dead && ctxOnPkg s p c.1).map Prod.fst).foldl killContext s
/-- An alarm: its ALARMLOG bit is set and its policy applies. -/
def raiseAlarm (s : State) (p bit : Nat) : State :=
  let s := s.modPkg p fun x => { x with log := x.log ||| (1#32 <<< bit) }
  let pol := (s.pkg p).policy.toNat / 4 ^ bit % 4
  let s := if 1 ≤ pol then s.modPkg p fun x => { x with debugLocked := true } else s
  if pol = 2 then killPkgContexts (s.modPkg p fun x => { x with keys := [] }) p else s
/-- A write of ALARMPOL: no field falls, and none becomes 3. -/
def alarmpolEffect (s : State) (p : Nat) (w : Word) : State :=
  let old := (s.pkg p).policy.toNat
  let v := (List.range 4).foldl (fun x i =>
    let o := old / 4 ^ i % 4
    let n := w.toNat / 4 ^ i % 4
    x + 4 ^ i * (if n = 3 ∨ n < o then o else n)) 0
  s.modPkg p fun x => { x with policy := w32 v }

/-- The kill that a handler asks for through HCTL (R408). -/
def hctlEffect (s : State) (g : Nat) : State :=
  let x := s.grp g
  if x.hctl.toNat % 2 = 1 then killTask s x.task cKILLED (siteAt s g x.taddr.toNat (macEntry x.tmac)) else s

end Sys2Proof.Machine
end

