-- ==== Sys2Proof/Machine/System.lean ====
section
/-! DEFINITION. Opcodes 0xF0 to 0xFC: traps, system registers, registrations, generation raises, saves and loads,
HALT, CENSUS and PMC.SNAP (16: R400 to R402; 17: R403 to R424; 19: R449, R451). -/
namespace Sys2Proof.Machine

/-! ### TRAP and RTE (R410, R411) -/

/-- TRAP (R410). -/
def execTrap (l : BitVec 24) (s : State) : Out :=
  issue { instr := .trap l, own := fun _ _ _ => some ⟨14, cSOFTWARE, l.toNat⟩ } s fun s _ => s

/-- The handler lanes that have not ended. -/
def handlerLanes (s : State) (g : Nat) : Mask :=
  maskOf fun l => (s.grp g).active.getLsbD l && (s.lane g l).inHandler && (s.lane g l).stand != .ended
/-- Whether every issuing lane is a handler lane (R408). -/
def allHandler (s : State) (m : Mask) : Bool := (lanesIn m).all fun l => (s.lane s.cur.g l).inHandler
/-- RTE (R411). -/
def execRte (s : State) : Out :=
  let cause (s : State) (m : Mask) : Option Trap :=
    if !allHandler s m then some ⟨10, cPROTECTION, 0⟩
    else if m != handlerLanes s s.cur.g then some ⟨12, cCONVERGENCE, curWord s⟩
    else ((lanesIn m).find? fun l => (s.lane s.cur.g l).resumePc.toNat % 4 != 0).map fun l => ⟨13, cALIGN, (s.lane s.cur.g l).resumePc.toNat⟩
  .next (issueRaw { instr := .rte, stopAll := true, all := cause } s fun s _ => returnTrap s s.cur.g)

/-! ### The capability chain (R400 to R402) -/

def retiredOf (s : State) (gd u : Nat) : List Nat := ((s.die gd).retired.filter fun r => r.1 == u).map Prod.snd
/-- Whether a core is disabled (R431): its scratchpad, registers, control store or lane arithmetic retired. -/
def coreOff (s : State) (gd c : Nat) : Bool := (s.die gd).retired.any fun r => (r.1 == 5 || r.1 == 6 || r.1 == 12 || r.1 == 13) && r.2 == c
def arrayOff (s : State) (gd q : Nat) : Bool := (s.die gd).retired.any fun r => (r.1 == 7 || r.1 == 8 || r.1 == 14) && r.2 / 256 == q
def dieGone (s : State) (gd : Nat) : Bool := (s.pkg (pkgOf gd)).lostDies.contains gd
def bitsBy (n : Nat) (p : Nat → Bool) : Nat := ((List.range n).filter p).foldl (fun x i => x + 2 ^ i) 0
def dieWord (s : State) (gd : Nat) : Nat :=
  if dieGone s gd then 0 else
  bitsBy 16 (fun c => !coreOff s gd c) + b2n (!coreOff s gd 16) * 2 ^ 16 + bitsBy 4 (fun q => !arrayOff s gd q) * 2 ^ 17
/-- Working pages of a die, one page less for each retired row (log 22). -/
def pageWord (s : State) (gd : Nat) : Nat :=
  if dieGone s gd then 0 else (393216 - (retiredOf s gd 1).length) + (1572864 - (retiredOf s gd 2).length) * 2 ^ 32
/-- The die links in ascending die order, the eastward link of a die before its southward link (log 22). -/
def linkList : List (Nat × Nat) :=
  (List.range 64).flatMap fun d => (if d % 8 < 7 then [(d, 1)] else []) ++ (if d / 8 < 7 then [(d, 2)] else [])
def linkMask (s : State) (p : Nat) : Nat :=
  (linkList.zip (List.range 112)).foldl (fun x l => if (s.die (p * 64 + l.1.1)).linksDown.contains l.1.2 then x else x + 2 ^ l.2) 0
/-- The records of the chain: id and words. -/
def chainRecs (s : State) (p : Nat) : List (Nat × List Nat) :=
  let x := s.pkg p
  let dies := List.range 64
  let lm := linkMask s p
  [(0x0000, [x.chaingen]), (0x0010, [bitsBy 64 fun d => !dieGone s (p * 64 + d)]),
   (0x0011, dies.map fun d => dieWord s (p * 64 + d)), (0x0012, dies.map fun d => pageWord s (p * 64 + d)),
   (0x0020, [lm % 2 ^ 64, lm / 2 ^ 64, bitsBy 32 fun n => !x.stationsDown.contains n, bitsBy 8 fun i => !dieGone s (p * 64 + 56 + i)]),
   (0x0030, [0x701]), (0x0040, [x.svn % 65536 + x.floorSvn % 65536 * 65536 + b2n x.debugLocked * 2 ^ 32])]
/-- The words of the chain as shipped, by which a record is degraded. -/
def fullWords (id : Nat) : List Nat :=
  if id = 0x10 then [2 ^ 64 - 1] else if id = 0x11 then List.replicate 64 0x1FFFFF
  else if id = 0x12 then List.replicate 64 (393216 + 1572864 * 2 ^ 32)
  else if id = 0x20 then [2 ^ 64 - 1, 2 ^ 48 - 1, 2 ^ 32 - 1, 255] else []
def chainWords : List (Nat × List Nat) → Nat → List Nat
  | [], _ => []
  | (id, ws) :: rs, off =>
    let n := ws.length + 1
    let next := if rs.isEmpty then 0 else off + 8 * n
    let flags := 1 + 2 * b2n (!(fullWords id).isEmpty && ws != fullWords id)
    (id * 2 ^ 48 + 2 ^ 40 + n * 2 ^ 32 + next * 2 ^ 16 + flags) :: ws ++ chainWords rs (off + 8 * n)
/-- Word i of the mirror, the low word of each pair first. -/
def chainMirror (s : State) (p i : Nat) : Nat := (chainWords (chainRecs s p) 0).getD (i / 2) 0 / 2 ^ (32 * (i % 2)) % 2 ^ 32

/-! ### System registers (R408) -/

def sregHandler (n : Nat) : Bool := n == 0x20 || (decide (0x22 ≤ n) && decide (n ≤ 0x2E))
def sregSteward (n : Nat) : Bool :=
  n == 0x40 || n == 0x80 || n == 0x81 || (decide (0x88 ≤ n) && decide (n ≤ 0xA9)) || n == 0xB0 || n == 0xC0 || n == 0xC1 ||
    (decide (0x440 ≤ n) && decide (n ≤ 0x4FF))
def sregContext (n : Nat) : Bool :=
  n == 0x10 || n == 0x11 || n == 0x12 || n == 0x30 || (decide (0x100 ≤ n) && decide (n ≤ 0x37F))
def sregLane (n : Nat) : Bool := n == 0x10 || n == 0x11 || n == 0x12 || n == 0x22 || n == 0x23 || n == 0x26 || n == 0x27

def half (x : Dword) (n : Nat) : Nat := x.toNat / 2 ^ (32 * (n % 2)) % 2 ^ 32
def lbarOf (gd n : Nat) : Nat :=
  let lv := (n - 0x440) / 0x40 + 1
  lbarKey lv ((n - 0x440) % 0x40 / 2) (lbarPlace lv gd)
/-- The value of a register as a lane reads it. -/
def sregRead (s : State) (g l n : Nat) : Nat :=
  let y := s.lane g l
  let x := s.grp g
  let gd := gdOf g
  let d := s.die gd
  let p := s.pkg (pkgOf gd)
  let pm := s.pmc (ckOf g)
  if n = 0x10 then y.astat.toNat else if n = 0x11 then y.streamid.toNat else if n = 0x12 then y.drawctr.toNat
  else if n = 0x20 then x.tcause.toNat
  else if n = 0x22 ∨ n = 0x23 then half y.tinfo n
  else if n = 0x24 ∨ n = 0x25 then half x.taddr n
  else if n = 0x26 ∨ n = 0x27 then half y.resumePc n
  else if n = 0x28 ∨ n = 0x29 then half x.tmask n
  else if n = 0x2A ∨ n = 0x2B then half x.amask n
  else if n = 0x2C ∨ n = 0x2D then half x.addpc n
  else if n = 0x2E then x.hctl.toNat
  else if n = 0x30 then 4 - Tab.get s.credits (ckOf g) 0
  else if n = 0x40 then d.fres.toNat
  else if n = 0x80 then d.partcfg.toNat else if n = 0x81 then d.partten.toNat
  else if n = 0xA8 then d.gtblLo.toNat else if n = 0xA9 then d.gtblHi.toNat
  else if 0x88 ≤ n ∧ n < 0xA8 then (slotWord s gd (n - 0x88)).toNat
  else if n = 0xB0 then p.keycmd.toNat
  else if n = 0xC0 then p.policy.toNat else if n = 0xC1 then p.log.toNat
  else if 0x440 ≤ n ∧ n ≤ 0x4FF then
    (let b := s.lbar (lbarOf gd n)
     if n % 2 = 1 then b.ctx else b2n b.en * 2 ^ 31 + b2n b.brk * 2 ^ 30 + b.e)
  else if 0x100 ≤ n ∧ n < 0x300 then chainMirror s (pkgOf gd) (n - 0x100)
  else if 0x300 ≤ n ∧ n < 0x37E then
    (let v := Tab.get pm.snap ((n - 0x300) / 2) 0
     if n % 2 = 0 then v % 2 ^ 32 else v / 2 ^ 32)
  else if n = 0x37E then pm.snapSeq.toNat else if n = 0x37F then pm.snapClk.toNat else 0

/-- The causes of SREG.RD and SREG.WR (R404, R408). -/
def sregRule (i : Instr) (a : Code) (extra : State → Mask → Nat → Bool) : Rule :=
  let cause (s : State) (m : Mask) : Option Trap :=
    let v := rdA s (lam m) a
    let n := v
    if sregSteward n && !isDcc s.cur.g then some ⟨9, cPRIVILEGE, curWord s⟩
    else if sregHandler n && !allHandler s m then some ⟨10, cPROTECTION, 0⟩
    else if !(sregSteward n || sregHandler n || sregContext n) || extra s m n then some ⟨11, cRESERVED_FIELD, curWord s⟩
    else none
  { instr := i, all := cause }

/-- SREG.RD (R408). -/
def execSregRd (d a : Code) (s : State) : Out :=
  laneOp (sregRule (.sregRd d a) a fun _ _ _ => false) s fun s m l =>
    out1 d (sregRead s s.cur.g (if sregLane (rdA s (lam m) a) then l else lam m) (rdA s (lam m) a))

def setHalf (x : Dword) (n v : Nat) : Dword :=
  if n % 2 = 0 then x.extractLsb' 32 32 ++ BitVec.ofNat 32 v else BitVec.ofNat 32 v ++ x.extractLsb' 0 32
/-- A write of a register (R9, R408); registers that are read only ignore it. -/
def sregWrite (s : State) (g n : Nat) (m : Mask) (v : Nat → Nat) : State :=
  let x := v (lam m)
  let lanes (f : Nat → Lane → Lane) : State := s.onLanes g (lanesIn m) f
  let gd := gdOf g
  if n = 0x10 then lanes fun l y => { y with astat := y.astat &&& ~~~(w32 (v l % 256)) }
  else if n = 0x12 then lanes fun l y => { y with drawctr := w32 (v l) }
  else if n = 0x26 ∨ n = 0x27 then lanes fun l y => { y with resumePc := setHalf y.resumePc n (v l) }
  else if n = 0x2A ∨ n = 0x2B then s.modGrp g fun z => { z with amask := setHalf z.amask n x }
  else if n = 0x2C ∨ n = 0x2D then s.modGrp g fun z => { z with addpc := setHalf z.addpc n x }
  else if n = 0x2E then (if x % 2 = 1 then hctlEffect (s.modGrp g fun z => { z with hctl := 1 }) g else s)
  else if n = 0x40 then fresEffect s gd (w32 x)
  else if n = 0xB0 then
    (let p := pkgOf gd
     let op := bitsOf x 31 30
     let t := if op = 3 then s else s.modPkg p fun y => { y with keycmd := w32 (x &&& 0xC00000FF) }
     if op = 1 then keyFill t p (x % 256) else if op = 2 then keyZero t p (x % 256) else t)
  else if n = 0xC0 then alarmpolEffect s (pkgOf gd) (w32 x)
  else if 0x440 ≤ n ∧ n ≤ 0x4FF then (if n % 2 = 0 then lbarWrite s (lbarOf gd n) (w32 x) else lbctxWrite s (lbarOf gd n) (w32 x))
  else dieRegWrite s gd n (w32 x)

/-- SREG.WR (R408); a reserved bit of an HCTL operand raises RESERVED_FIELD (R404). FRES is a release (R371). -/
def execSregWr (a b : Code) (s : State) : Out :=
  issue (sregRule (.sregWr a b) a fun s m n => n == 0x2E && decide (2 ≤ rdA s (lam m) b)) s fun s ok =>
    let n := rdA s (lam ok) a
    let vs := (lanesIn ok).map fun l => (l, rdA s l b)
    let s := if n = 0x40 then writeBackCore s (ckOf s.cur.g) else s
    sregWrite (popAll s (.sregWr a b)) s.cur.g n ok fun l => ((vs.find? fun v => v.1 == l).map Prod.snd).getD 0

/-! ### Registrations (R413) -/

/-- Read a record of n words at a pair of λ, in the group's own address space; the status is 1 where it is
misaligned or unreadable. -/
def registration (i : Instr) (d a : Code) (n : List Word → Nat) (reg : State → Nat → List Word → Nat × State) (s : State) : Out :=
  issue { instr := i, steward := true } s fun s ok =>
    let g := s.cur.g
    let va := rdP s (lam ok) a
    let s := writeBackCore s (ckOf g)
    let r : Nat × State :=
      if va % 64 ≠ 0 ∨ outside va then (1, s) else
      match ctxWords s (gdOf g) (issueAsid s) va 8 with
      | none => (1, s)
      | some ws =>
        match ctxWords s (gdOf g) (issueAsid s) va (n ws) with
        | none => (1, s)
        | some ws => reg s (gdOf g) ws
    writeGroup r.2 i ok d r.1
/-- OPREG (R414). -/
def execOpreg (d a : Code) (s : State) : Out := registration (.opreg d a) d a (fun _ => 8) registerOper s
/-- TRAY.SET (R415). -/
def execTraySet (d a : Code) (s : State) : Out := registration (.traySet d a) d a (fun _ => 8) registerTray s
/-- BELT.SET (R416). -/
def execBeltSet (d a : Code) (s : State) : Out :=
  registration (.beltSet d a) d a (fun ws => 4 + 4 * min (bitsOf (wordAt ws 0) 31 16) 4096) registerBelt s

/-! ### Generations (R367, R417) -/

def nextGen (g : Nat) : Nat := if g = 4095 then 1 else g + 1
/-- The descriptor of an address space that a raise reads: the issuing die's, else the lowest die's. -/
def descOf (s : State) (gd asid : Nat) : Option Desc :=
  match s.desc? gd asid with
  | some d => some d
  | none => (List.find? (fun e : Nat × Desc => e.1 % 2 ^ 16 == asid) s.descs).map Prod.snd
/-- GEN.RAISE (R417): the group waits until phase 4 has begun. -/
def execGenRaise (d a : Code) (s : State) : Out :=
  let cause (s : State) (m : Mask) : Option Trap :=
    let v := groupReg s m a
    let refused := match descOf s (gdOf s.cur.g) (v % 65536) with
      | none => true
      | some x => nextGen x.curgen == x.floor || raiseHolds s (v % 65536)
    firstTrap [protectTrap refused 10, reservedTrap s (decide (65536 ≤ v)) 11]
  issue { instr := .genRaise d a, steward := true, stopAll := true, all := cause } s fun s ok =>
    let asid := groupReg s ok a % 65536
    let x := (descOf s (gdOf s.cur.g) asid).getD {}
    let s := popAll s (.genRaise d a)
    let s := { s with raises := Tab.put s.raises asid { phase := 1, next := nextGen x.curgen } }
    s.modGrp s.cur.g fun y => { y with service := some (.raise asid d.toNat ok) }

/-! ### Saves and loads (R418 to R420) -/

def teamWordBad (w : Nat) : Bool := bitsOf w 31 20 != 0 || bitsOf w 15 14 != 0
/-- The causes of a save or load at issue (log 23). -/
def imageRule (i : Instr) (a b : Code) : Rule :=
  let cause (s : State) (m : Mask) : Option Trap :=
    let va := rdP s (lam m) a
    firstTrap [(protTrap (outside va) va), reservedTrap s (teamWordBad (groupReg s m b)) 11,
      (alignTrap (va % 64 != 0) va).map fun t => { t with ord := 13 }]
  { instr := i, words := 2, steward := true, all := cause }
/-- CTX.SAVE (R419): c.a is the image, c.b the IMAGEID, c.d the team word. -/
def execCtxSave (d a b : Code) (sync : BitVec 32) (s : State) : Out :=
  groupCmd (imageRule (.ctxSave d a b sync) a b) .ctxSave sync s fun s m c =>
    { c with a := rdP s (lam m) a, b := rdP s (lam m) d, d := groupReg s m b }
/-- CTX.LOAD (R420): D has a write outstanding until completion. -/
def execCtxLoad (d a b : Code) (sync : BitVec 32) (s : State) : Out :=
  groupCmd (imageRule (.ctxLoad d a b sync) a b) .ctxLoad sync s fun s m c =>
    { c with a := rdP s (lam m) a, d := groupReg s m b, dst := liveDst d, b := d.toNat }

/-! ### HALT, CENSUS and PMC.SNAP (R421 to R423) -/

/-- HALT (R421). -/
def execHalt (s : State) : Out :=
  let dbg (s : State) : Bool := (s.ctxOf (s.grp s.cur.g).ctx).dbg
  let cause (s : State) (_ : Mask) : Option Trap := if isDcc s.cur.g || dbg s then none else some ⟨14, cDEBUG, 0⟩
  issue { instr := .halt, all := cause } s fun s _ =>
    if isDcc s.cur.g then s else s.modGrp s.cur.g fun x => { x with halted := true }

def censusWord (s : State) (gd e i : Nat) : Nat := (Tab.get s.census ((gd * 1024 + e) * 4 + i) 0#32).toNat
/-- CRC-32C, one bit and one byte at a time, reflected. -/
def crcBits : Nat → Nat → Nat
  | 0, c => c
  | n + 1, c => crcBits n (if c % 2 = 1 then (c / 2) ^^^ 0x82F63B78 else c / 2)
def crcBytes (c : Nat) (bs : List Nat) : Nat := bs.foldl (fun c b => crcBits 8 (c ^^^ b)) c
/-- The digest of entries 0 to e (R451). -/
def censusDigest (s : State) (gd e : Nat) : Nat :=
  crcBytes 0xFFFFFFFF ((List.range (e + 1)).flatMap fun i =>
    leBytes (censusWord s gd i 0) 4 ++ leBytes (censusWord s gd i 1) 4 ++ [censusWord s gd i 2 / 2 ^ 24]) ^^^ 0xFFFFFFFF
/-- CENSUS (R422). -/
def execCensus (d a b : Code) (s : State) : Out :=
  let cause (s : State) (m : Mask) : Option Trap :=
    let w := groupReg s m b
    reservedTrap s (bitsOf w 31 6 != 0 || bitsOf w 3 2 != 0 || bitsOf w 1 0 == 3) 11
  issue { instr := .census d a b, steward := true, all := cause } s fun s ok =>
    let gd := gdOf s.cur.g
    let e := groupReg s ok a % 1024
    let w := groupReg s ok b
    let op := w % 4
    let x := if op = 0 then censusWord s gd e (bitsOf w 5 4) else if op = 2 then censusDigest s gd e else 0
    let s := if op = 1 then { s with census := Tab.cut s.census ((gd * 1024 + e) * 4) ((gd * 1024 + e) * 4 + 4) } else s
    writeGroup s (.census d a b) ok d x

/-- PMC.SNAP (R423): the counters as they stood before its own issue was counted. -/
def execPmcSnap (d : Code) (s : State) : Out :=
  let p0 := s.pmc (ckOf s.cur.g)
  issue { instr := .pmcSnap d } s fun s ok =>
    let ck := ckOf s.cur.g
    let p := s.pmc ck
    let snap := (List.range 63).foldl (fun (t : Tab Nat) i => Tab.set t 0 i (p0.value i)) []
    let q : Pmc := { p with snap := snap, snapSeq := p.snapSeq + 1, snapClk := w32 s.cycle }
    let s := { s with pmcs := Tab.put s.pmcs ck q }
    writeGroup s (.pmcSnap d) ok d q.snapSeq.toNat

end Sys2Proof.Machine
end

