-- ==== Sys2Proof/Machine/Images.lean ====
section
/-! DEFINITION. Saving a team and restoring it, and the image of a save in memory (16: R390 to R392; 17: R418 to
R420). The manual fixes the image's offsets; where it names items without an order, the order is the model's (log 24).
A row whose condition does not hold changes nothing. -/
namespace Sys2Proof.Machine

/-! ### Saving a team (R390) -/

/-- The quad key and core key of a team. -/
def Team.qk (t : Team) : Nat := t.gd * 5 + t.quad
def Team.ck (t : Team) (c : Nat) : Nat := t.gd * 17 + (if t.quad = 4 then 16 else 4 * t.quad + t.base + c)
/-- Entries of a table with keys from lo to hi, less lo. -/
def slice {α : Type} (t : List (Nat × α)) (lo hi : Nat) : List (Nat × α) :=
  (t.filter fun e => decide (lo ≤ e.1) && decide (e.1 < hi)).map fun e => (e.1 - lo, e.2)
/-- Put entries back at a base. -/
def unslice {α : Type} (t : Tab α) (lo : Nat) (xs : List (Nat × α)) : Tab α := xs.foldl (fun t e => Tab.put t (lo + e.1) e.2) t
def saveGroup (s : State) (g : Nat) : SavedGroup :=
  { g := g, grp := s.grp g, lanes := slice s.lanes (laneKey g 0) (laneKey (g + 1) 0),
    vregs := slice s.vregs (regKey g 0 0) (regKey (g + 1) 0 0), sregs := slice s.sregs (g * 32) ((g + 1) * 32) }
def saveRun (s : State) (h : Handle) : Nat × List Word × List (Nat × Byte) :=
  (h.index, (List.range h.count).flatMap fun i => (headWords s h.qk (h.first + i)).map w32,
    slice s.opmem (opKey h.qk h.first 0 0) (opKey h.qk (h.first + h.count) 0 0))
/-- The handles a team's task holds on its quad. -/
def teamHandles (s : State) (t : Team) : List Handle := s.handles.filter fun h => h.qk == t.qk && h.task == t.task && h.freed.isNone
/-- Everything of a team. -/
def saveTeam (s : State) (n : Nat) : SavedTeam :=
  let t := s.team n
  let hs := teamHandles s t
  let grant := (s.array t.qk).grant == some t.task
  { num := n, team := t, groups := t.groups.map (saveGroup s), wins := slice s.wins (n * 2 ^ 20) ((n + 1) * 2 ^ 20),
    sems := (List.range t.cores).flatMap fun c => (slice s.sems (semKey (t.ck c) 0) (semKey (t.ck c + 1) 0)).filterMap fun e =>
      if blockGranted s (t.ck c) (e.1 / 16) t.task then some (c * 256 + e.1, e.2) else none,
    runs := hs.map (saveRun s), counts := hs.map fun h => (h.index, h.count),
    banks := if grant then slice s.banks (t.qk * 4) (t.qk * 4 + 4) else [], grant := grant }
/-- Whether a team is stopped: no command, access, signal or service of it is outstanding (R390 steps 1 and 2, R419). -/
def teamQuiet (s : State) (n : Nat) (self : Option Nat) : Bool :=
  let t := s.team n
  (t.groups.all fun g => (s.grp g).service.isNone && !(s.accs.any fun a => a.2.g == g && a.2.waiting) && !(s.sigs.any fun x => x.2.g == g)) &&
    !(s.cmds.any fun c => t.groups.contains c.2.g && some c.1 != self)

/-! ### Restoring a team (R390, R420) -/

/-- Whether columns for the saved runs are free on a quad, and where: each run as one allocation (R162). -/
def restoreRuns (qk task : Nat) : List (Nat × Nat) → SavedTeam → State → Option State
  | [], _, s => some s
  | (i, n) :: rest, x, s =>
    match freeRun s qk n with
    | none => none
    | some c =>
      let r := List.find? (fun r : Nat × List Word × List (Nat × Byte) => r.1 == i) x.runs
      let heads := (r.map fun r => r.2.1).getD []
      let bytes := (r.map fun r => r.2.2).getD []
      let s := { zeroColumns s qk c n with handles := s.handles ++ [{ qk := qk, task := task, index := i, first := c, count := n }] }
      let s := (List.range n).foldl (fun s j => setHead s qk (c + j) ((heads.drop (4 * j)).take 4 |>.map BitVec.toNat)) s
      restoreRuns qk task rest x { s with opmem := unslice s.opmem (opKey qk c 0 0) bytes }
/-- A parked sub-group whose record is gone re-issues. -/
def keepParks (s : State) (x : Group) : List Park := x.parked.filter fun p => Tab.has s.faultRecs p.frec
def restoreGroup (s : State) (num : Nat) (gOf : Nat → Nat) (x : SavedGroup) : State :=
  let g := gOf x.g
  let keep := keepParks s x.grp
  let gone := maskOf fun l => (x.grp.parked.any fun p => p.mask.getLsbD l) && !keep.any fun p => p.mask.getLsbD l
  let s := { s with lanes := unslice s.lanes (laneKey g 0) x.lanes, vregs := unslice s.vregs (regKey g 0 0) x.vregs,
                    sregs := unslice s.sregs (g * 32) x.sregs }
  let s := s.setGrp g { x.grp with team := num, parked := keep }
  s.onLanes g (lanesIn gone) fun _ y => { y with stand := .run }
/-- Bytes of scratchpad that each core of a team gives to its window (R182, R284). -/
def winShare (win cores : Nat) : Nat := (win + cores * 16384 - 1) / (cores * 16384) * 16384
/-- The windows of ended teams whose stash lines are still owned: team, first core, cores, bytes (R198, R306). -/
def orphanWins (s : State) : List (Nat × Nat × Nat × Nat) :=
  ((s.stash.filter fun e => !Tab.has s.teams (e.1 / 2 ^ 14)).map fun e => (e.1 / 2 ^ 14, e.2.ck, e.2.cores, e.2.win)).eraseDups
/-- Scratchpad and register banks that teams and groups use on a core. -/
def padUsed (s : State) (ck : Nat) : Nat :=
  (s.teams.filter fun t => (List.range t.2.cores).any fun c => t.2.ck c == ck).foldl (fun n t => n + winShare t.2.win t.2.cores) 0 +
    ((orphanWins s).filter fun w => decide (w.2.1 ≤ ck) && decide (ck < w.2.1 + w.2.2.1)).foldl (fun n w => n + winShare w.2.2.2 w.2.2.1) 0
def banksUsed (s : State) (ck : Nat) : Nat := (s.groups.filter fun g => ckOf g.1 == ck).foldl (fun n g => n + g.2.banks) 0
def padSize (ck : Nat) : Nat := if ck % 17 = 16 then 65536 else 262144
/-- Put a saved team onto a quad, with its groups in the slots they had; none where something is not free. -/
def restoreTeam (s : State) (gd quad base e : Nat) (x : SavedTeam) : Option State :=
  let t := { x.team with gd := gd, quad := quad, base := base, task := e, stopping := false, draining := false }
  let gOf (g : Nat) : Nat := t.ck (coreOfCk (ckOf g) - (if x.team.quad = 4 then 16 else 4 * x.team.quad + x.team.base)) * 32 + slotOf g
  let cores := (List.range t.cores).map t.ck
  let sems := dSems (s.entry e).words
  let need (ck : Nat) : Nat := (x.groups.filter fun y => ckOf (gOf y.g) == ck).foldl (fun n y => n + y.grp.banks) 0
  let fits := (quad == 4 || decide (base + t.cores ≤ 4)) && (cores.all fun ck => !coreOff s gd (coreOfCk ck)) &&
    (x.groups.all fun y => !Tab.has s.groups (gOf y.g)) && (cores.all fun ck =>
      decide (banksUsed s ck + need ck ≤ 256) && decide (padUsed s ck + winShare t.win t.cores ≤ padSize ck) && blocksFree s ck e sems)
  let grantOk := !x.grant || ((s.array t.qk).grant.isNone && bitsOf (s.array t.qk).inForce 2 1 == 0)
  if !fits || !grantOk then none else
  match restoreRuns t.qk e x.counts x s with
  | none => none
  | some s =>
    let s := cores.foldl (fun s ck => grantBlocks s ck e sems) s
    let s := (x.sems).foldl (fun s y => s.setSem (t.ck (y.1 / 256)) (y.1 % 256) y.2) s
    let s := { s with teams := Tab.put s.teams x.num { t with groups := x.groups.map fun y => gOf y.g },
                      wins := unslice s.wins (x.num * 2 ^ 20) x.wins }
    let s := if x.grant then { s with arrays := Tab.put s.arrays t.qk { s.array t.qk with grant := some e },
                                      banks := unslice (Tab.cut s.banks (t.qk * 4) (t.qk * 4 + 4)) (t.qk * 4) x.banks } else s
    some (x.groups.foldl (fun s y => restoreGroup s x.num gOf y) s)
/-- Release what a checkpointed team held (R390 step 4): its entry stays. -/
def releaseTeam (s : State) (n : Nat) : State :=
  let t := s.team n
  let s := trimStash s n
  let hs := teamHandles s t
  let s := t.groups.foldl dropGroup s
  let s := { s with wins := Tab.cut s.wins (n * 2 ^ 20) ((n + 1) * 2 ^ 20),
                    dirtyLines := Tab.cut s.dirtyLines (n * 2 ^ 12) ((n + 1) * 2 ^ 12), teams := Tab.del s.teams n,
                    handles := s.handles.filter fun h => !hs.contains h }
  let s := releaseArrays s t.task
  (List.range t.cores).foldl (fun s c => (blocksOf (dSems (s.entry t.task).words)).foldl (fun s b =>
    if blockGranted s (t.ck c) b t.task then { s with grants := Tab.del s.grants (t.ck c * 16 + b) } else s) s) s

/-! ### The image (R391) -/

def magic : Nat := 0x58425356
def pad (n : Nat) (bs : List Nat) : List Nat := bs.take n ++ List.replicate (n - bs.length) 0
def w4 (n : Nat) : List Nat := leBytes n 4
def w8 (n : Nat) : List Nat := leBytes n 8
def laneImage (y : Lane) (susp : Option Susp) : List Nat :=
  let pc := match susp with
    | some x => x.cont
    | none => y.pc
  w8 pc.toNat ++ w4 y.mode.toNat ++ w4 y.k.toNat ++ w4 y.astat.toNat ++ w4 y.streamid.toNat ++ w4 y.drawctr.toNat ++
    [y.preds.toNat, y.ret.length, b2n (y.stand == .ended) + 2 * b2n y.inHandler, 0]
def stateWord (x : Susp) : Nat :=
  1 + 2 * b2n x.wen + 4 * b2n x.acq + 8 * b2n x.broken + 16 * b2n x.barrier.isSome + 256 * x.wsem + 65536 * (x.barrier.getD 0)
def controlImage (x : SavedGroup) : List Nat :=
  let g := x.grp
  let sreg (i : Nat) : Nat := (Tab.get x.sregs i 0).toNat
  ((List.range 32).flatMap fun i => w4 (sreg i)) ++ w8 g.active.toNat ++
    (match g.susp with
     | some u => w4 (stateWord u) ++ w4 u.wthr ++ w4 u.sync.toNat ++ w4 (32 * b2n g.inHandler) ++ w8 u.cont.toNat
     | none => List.replicate 12 0 ++ w4 (32 * b2n g.inHandler) ++ List.replicate 8 0) ++
    ((List.range 8).flatMap fun b => w8 (g.cb b).expected.toNat ++ w8 (g.cb b).arrived.toNat) ++
    pad 192 (g.parked.flatMap fun p => w8 p.mask.toNat ++ w8 p.pc.toNat ++ w8 (p.frec % 256 + 2 ^ 63)) ++
    w4 g.tcause.toNat ++ w4 g.hctl.toNat ++ w8 g.taddr.toNat ++ w8 g.tmask.toNat ++ w8 g.amask.toNat ++ w8 g.addpc.toNat
def laneOf (x : SavedGroup) (l : Nat) : Lane := Tab.get x.lanes l {}
def groupImage (x : SavedGroup) (dirty : Nat → Bool) : List (Nat × List Nat) :=
  let o := 0x020000 + 0x10000 * x.grp.index
  let bank (i : Nat) : List Nat := (List.range 16).flatMap fun r => laneNums.flatMap fun l => w4 (Tab.get x.vregs (l * 256 + 16 * i + r) 0).toNat
  [(o, laneNums.flatMap fun l => laneImage (laneOf x l) x.grp.susp), (o + 0x800, pad 0x400 (controlImage x)),
   (o + 0xC00, laneNums.flatMap fun l => pad 128 ((laneOf x l).ret.reverse.flatMap fun a => w8 a.toNat))] ++
    ((List.range x.grp.banks).filter dirty).map fun i => (o + 0x2C00 + 0x1000 * i, bank i)
def runStart (x : SavedTeam) (i : Nat) : Nat := ((x.counts.filter fun c => decide (c.1 < i)).map Prod.snd).sum
def headerImage (x : SavedTeam) (task d0 imageId : Nat) (full : Bool) : List Nat :=
  pad 0x100 (w4 magic ++ w4 0x0100 ++ w4 (b2n x.team.edited + 2 * b2n full) ++ w4 x.team.ctx ++ w4 task ++ w4 d0 ++ w8 imageId ++
    w4 (x.counts.map Prod.snd).sum)
def handleImage (x : SavedTeam) : List Nat :=
  (List.range 256).flatMap fun i => match List.find? (fun c : Nat × Nat => c.1 == i) x.counts with
    | some c => w4 (c.2 % 256) ++ w4 (0x3B0000 + 0x8040 * runStart x i)
    | none => w8 0
def semImage (x : SavedTeam) : List Nat :=
  (List.range 1024).flatMap fun k => let m : Sem := Tab.get x.sems k {}; w4 (m.count % 1024 + 1024 * b2n m.fault)
def bankImage (x : SavedTeam) (r : Nat) : List Nat :=
  let b : Bank := Tab.get x.banks r {}
  pad 0x22040 ((b.hdr.flatMap fun w => w4 w.toNat) ++ (if b.hdr.isEmpty then [] else List.replicate 48 0) ++ b.bytes.map BitVec.toNat) ++
    pad (0x24000 - 0x22040) (b.scales.map BitVec.toNat)
def columnImage (x : SavedTeam) : List Nat :=
  x.counts.flatMap fun c =>
    let r := List.find? (fun r : Nat × List Word × List (Nat × Byte) => r.1 == c.1) x.runs
    let heads := (r.map fun r => r.2.1).getD []
    let bytes := (r.map fun r => r.2.2).getD []
    (List.range c.2).flatMap fun j =>
      pad 64 (((heads.drop (4 * j)).take 4).flatMap fun w => w4 w.toNat) ++
        (List.range 0x8000).map fun o => (Tab.get bytes (j * 2 ^ 16 + o) 0#8).toNat
/-- The runs of an image. -/
def imageRuns (x : SavedTeam) (task d0 imageId : Nat) (full : Bool) (bank : Nat → Nat → Bool) (line : Nat → Bool) : List (Nat × List Nat) :=
  [(0, headerImage x task d0 imageId full), (0x100, handleImage x), (0x1000, semImage x)] ++
    (x.groups.flatMap fun y => groupImage y (bank y.g)) ++
    (((List.range (x.team.win / 256)).filter line).map fun i =>
      (0x220000 + 256 * i, (List.range 256).map fun o => (Tab.get x.wins (256 * i + o) 0#8).toNat)) ++
    ((List.range 4).map fun r => (0x320000 + 0x24000 * r, bankImage x r)) ++
    [(0x3B0000, columnImage x)]

/-! ### CTX.SAVE (R419) -/

/-- The team that a team word names: its entry, quad and base. -/
def namedTeam (s : State) (gd w : Nat) : Option Nat :=
  (List.find? (fun t : Nat × Team => t.2.gd == gd && t.2.task == gd * 16384 + bitsOf w 13 0 && t.2.quad == bitsOf w 17 16 && t.2.base == bitsOf w 19 18)
    s.teams).map Prod.fst
/-- Clear the dirty bits of a team. -/
def clearDirty (s : State) (n : Nat) : State :=
  let s := { s with dirtyLines := Tab.cut s.dirtyLines (n * 2 ^ 12) ((n + 1) * 2 ^ 12) }
  (s.team n).groups.foldl (fun s g => { s with dirtyBanks := Tab.cut s.dirtyBanks (g * 16) ((g + 1) * 16) }) s
/-- CTX_SAVE_COMPLETE (R419, R391). -/
def execCtxSaveComplete (cmd : Nat) (s : State) : Out :=
  onCmd s cmd (fun c => c.op == .ctxSave) fun c =>
    match namedTeam s c.gd c.d with
    | none => .next (completeCmd s cmd c true)
    | some n =>
      let t := s.team n
      let still := t.stopping || t.groups.all fun g => (s.grp g).susp.isSome || (s.grp g).halted
      if !still || !teamQuiet s n (some cmd) then .next (completeCmd s cmd c true) else
      let x := saveTeam s n
      let full := !(t.loaded && t.imageId == c.b)
      let runs := imageRuns x (taskIdOf t.task) (wordAt (s.entry t.task).words 0) c.b full
        (fun g i => full || Tab.get s.dirtyBanks (g * 16 + i) false) (fun i => full || Tab.get s.dirtyLines (n * 2 ^ 12 + i) false)
      let ps := runs.flatMap fun r => cutPieces (c.a + r.1) r.2
      (match writeList c.gd c.ck (c.asid s) (c.kslot s) ps s c.who with
      | (s, _, some p) => cmdProb s cmd c 1 p
      | (s, _, none) =>
        let s := (clearDirty s n).modEntry t.task fun y => { y with side := some x }
        .next (completeCmd s cmd c false))

/-! ### CTX.LOAD (R420) -/

/-- Bytes of an image as read: runs by offset. -/
def imgAt (img : List (Nat × List Nat)) (o n : Nat) : Nat :=
  match List.find? (fun r : Nat × List Nat => decide (r.1 ≤ o) && decide (o + n ≤ r.1 + r.2.length)) img with
  | some r => leValue ((r.2.drop (o - r.1)).take n)
  | none => 0
def imgBytes (img : List (Nat × List Nat)) (o n : Nat) : List Nat := (List.range n).map fun i => imgAt img (o + i) 1
/-- The ranges of an image that must be read, after its first 0x2000 bytes. -/
def imageRanges (groups banks win cols : Nat) : List (Nat × Nat) :=
  ((List.range groups).flatMap fun g => (0x020000 + 0x10000 * g, 0x2C00) :: (List.range banks).map fun i => (0x020000 + 0x10000 * g + 0x2C00 + 0x1000 * i, 0x1000)) ++
    [(0x220000, win)] ++ ((List.range 4).map fun r => (0x320000 + 0x24000 * r, 0x24000)) ++ [(0x3B0000, 0x8040 * cols)]
def laneFrom (img : List (Nat × List Nat)) (o l : Nat) (y : Lane) : Lane :=
  let p := o + 0x20 * l
  let f := imgAt img (p + 30) 1
  let depth := imgAt img (p + 29) 1 % 17
  { y with pc := BitVec.ofNat 56 (imgAt img p 8), mode := w32 (imgAt img (p + 8) 4), k := w32 (imgAt img (p + 12) 4),
           astat := w32 (imgAt img (p + 16) 4), streamid := w32 (imgAt img (p + 20) 4), drawctr := w32 (imgAt img (p + 24) 4),
           preds := BitVec.ofNat 7 (imgAt img (p + 28) 1),
           ret := ((List.range depth).map fun i => BitVec.ofNat 56 (imgAt img (o + 0xC00 + 128 * l + 8 * i) 8)).reverse,
           stand := if bitOf f 0 then .ended else y.stand, inHandler := bitOf f 1 }
def suspFrom (img : List (Nat × List Nat)) (o : Nat) (old : Option Susp) : Option Susp :=
  let w := imgAt img o 4
  if !bitOf w 0 then none else
  some { (old.getD { cont := 0 }) with
    cont := BitVec.ofNat 56 (imgAt img (o + 16) 8), wen := bitOf w 1, acq := bitOf w 2, broken := bitOf w 3,
    barrier := if bitOf w 4 then some (bitsOf w 23 16) else none, wsem := bitsOf w 15 8, wthr := imgAt img (o + 4) 4,
    sync := BitVec.ofNat 32 (imgAt img (o + 8) 4) }
/-- A group from its part of an image, over what the image has no place for. -/
def groupFrom (img : List (Nat × List Nat)) (gd : Nat) (x : SavedGroup) : SavedGroup :=
  let o := 0x020000 + 0x10000 * x.grp.index
  let c := o + 0x800
  let d (p : Nat) : Dword := BitVec.ofNat 64 (imgAt img p 8)
  let parks := (List.range 8).filterMap fun i =>
    let p := c + 0x120 + 24 * i
    if !bitOf (imgAt img (p + 16) 8) 63 then none else
    let old : Park := ((x.grp.parked.find? fun q => q.pc.toNat == imgAt img (p + 8) 8 && q.frec % 256 == imgAt img (p + 16) 1).getD
      { mask := 0, pc := BitVec.ofNat 56 (imgAt img (p + 8) 8), mac := none, frec := gd * 256 + imgAt img (p + 16) 1 })
    some { old with mask := d p }
  { x with
    grp := { x.grp with
      active := d (c + 0x80), susp := suspFrom img (c + 0x88) x.grp.susp, inHandler := bitOf (imgAt img (c + 0x94) 4) 5,
      cbars := (List.range 8).foldl (fun t b => Tab.set t {} b { expected := d (c + 0xA0 + 16 * b), arrived := d (c + 0xA8 + 16 * b) }) [],
      parked := parks, tcause := w32 (imgAt img (c + 0x1E0) 4), hctl := w32 (imgAt img (c + 0x1E4) 4), taddr := d (c + 0x1E8),
      tmask := d (c + 0x1F0), amask := d (c + 0x1F8), addpc := d (c + 0x200) },
    lanes := laneNums.map fun l => (l, laneFrom img o l (laneOf x l)),
    vregs := laneNums.foldl (fun t l => (List.range (16 * x.grp.banks)).foldl (fun t r =>
      Tab.set t 0 (l * 256 + r) (w32 (imgAt img (o + 0x2C00 + 0x1000 * (r / 16) + 256 * (r % 16) + 4 * l) 4))) t) [],
    sregs := (List.range 32).foldl (fun t i => Tab.set t 0 i (w32 (imgAt img (c + 4 * i) 4))) [] }
/-- A weight bank from its part of an image; one with a zero header holds no tile. -/
def bankFrom (img : List (Nat × List Nat)) (r : Nat) : Bank :=
  let o := 0x320000 + 0x24000 * r
  let ws := (List.range 4).map fun i => imgAt img (o + 4 * i) 4
  if ws.all (· == 0) then {} else
  tileBank ws (imgBytes img (o + 64) ((parseHdr ws).imageBytes - 64)) (if (parseHdr ws).cen then imgBytes img (o + 0x22040) (parseHdr ws).rows else [])
/-- A team from an image, over what the image has no place for. -/
def teamFrom (img : List (Nat × List Nat)) (gd : Nat) (x : SavedTeam) : SavedTeam :=
  let counts := (List.range 256).filterMap fun i => let n := imgAt img (0x100 + 8 * i) 1; if n = 0 then none else some (i, n)
  { x with
    groups := x.groups.map (groupFrom img gd),
    wins := (List.range x.team.win).foldl (fun t o => Tab.set t 0#8 o (BitVec.ofNat 8 (imgAt img (0x220000 + o) 1))) [],
    sems := (List.range 1024).foldl (fun t k =>
      let w := imgAt img (0x1000 + 4 * k) 4
      Tab.set t {} k { (Tab.get x.sems k {} : Sem) with count := w % 1024, fault := bitOf w 10 }) [],
    counts := counts,
    runs := counts.map fun c =>
      let o := imgAt img (0x104 + 8 * c.1) 4
      (c.1, (List.range c.2).flatMap fun j => (List.range 4).map fun i => w32 (imgAt img (o + 0x8040 * j + 4 * i) 4),
        (List.range (c.2 * 0x8000)).foldl (fun t p =>
          Tab.set t 0#8 (p / 0x8000 * 2 ^ 16 + p % 0x8000) (BitVec.ofNat 8 (imgAt img (o + 0x8040 * (p / 0x8000) + 64 + p % 0x8000) 1))) []),
    banks := if x.grant then (List.range 4).foldl (fun t r => Tab.set t {} r (bankFrom img r)) [] else [] }
/-- A result of CTX.LOAD: what failed is 0 where the team is restored. -/
def loadDone (s : State) (id : Nat) (c : Cmd) (status flags : Nat) : State :=
  completeCmd (writeCmdD s c c.b (flags % 4 + 16 * status)) id c (status != 0)
/-- CTX_LOAD_COMPLETE (R420): a read that fails is status 4. -/
def execCtxLoadComplete (cmd : Nat) (s : State) : Out :=
  onCmd s cmd (fun c => c.op == .ctxLoad) fun c =>
    let e := c.gd * 16384 + bitsOf c.d 13 0
    let y := s.entry e
    let stop (s : State) : Prob → Out
      | .absent gd page => .fault (.absentPage gd page)
      | .held gd page => cmdProb s cmd c 0 (.held gd page)
      | .miss k h key va => if c.cause = cPAGE_FAULT then .next (loadDone s cmd c 4 0) else cmdProb s cmd c 0 (.miss k h key va)
      | .cause k _ _ => .next (loadDone (failReport s c k) cmd c 4 0)
    match readRange s c.gd c.ck (c.asid s) c.a 0x2000 c.who with
    | .error p => stop s p
    | .ok (s, b0) =>
      let img0 := [(0, b0)]
      let flags := imgAt img0 8 4
      if imgAt img0 0 4 ≠ magic ∨ imgAt img0 4 4 ≠ 0x0100 then .next (loadDone s cmd c 1 flags)
      else if imgAt img0 12 4 ≠ y.ctx ∨ imgAt img0 16 4 ≠ taskIdOf e then .next (loadDone s cmd c 2 flags)
      else match y.side with
        | none => .next (loadDone s cmd c 3 flags)
        | some x =>
          let rs := imageRanges (dGroups y.words) (dBanks y.words) x.team.win (imgAt img0 32 4)
          match readMany c.gd c.ck (c.asid s) (rs.map fun r => (c.a + r.1, r.2)) s c.who with
          | .error p => stop s p
          | .ok (s, bs) =>
            let x := teamFrom (img0 ++ (rs.zip bs).map fun r => (r.1.1, r.2)) c.gd x
            let x := { x with team := { x.team with edited := bitOf flags 0, loaded := true, imageId := imgAt img0 24 8 } }
            if Tab.has s.teams x.num then .next (loadDone s cmd c 3 flags) else
            match restoreTeam s c.gd (bitsOf c.d 17 16) (bitsOf c.d 19 18) e x with
            | none => .next (loadDone s cmd c 3 flags)
            | some s =>
              let s := s.setEntry e { y with st := .running, running := y.running + 1, saves := y.saves.filter fun z => z.num != x.num, quad := bitsOf c.d 17 16, base := bitsOf c.d 19 18 }
              .next (loadDone (clearDirty s x.num) cmd c 0 flags)

end Sys2Proof.Machine
end

