-- ==== Sys2Proof/Machine/TaskEvents.lean ====
section
/-! DEFINITION. The rows of the Proof table and its dispatch: admission, pulls, pre-emption, ranges (12: R282 to R285;
13: R315 to R322; 14: R347; 16: R379, R387 to R390). A row whose condition does not hold changes nothing. -/
namespace Sys2Proof.Machine

/-! ### Admission (R284, R285) -/

/-- Register banks that the groups of a team take on its core c. -/
def groupsOn (n cores c : Nat) : Nat := (n + cores - 1 - c) / cores
/-- Bytes of a task's window. -/
def winBytes (ws : List Word) : Nat := dWin ws * 16384
def slotsUsed (s : State) (ck : Nat) : Nat := (s.groups.filter fun g => ckOf g.1 == ck).length
/-- Whether a task's team can be admitted at a core of a quad. -/
def fitsAt (s : State) (e : Nat) (ws : List Word) (qk base : Nat) : Bool :=
  let c := dCores ws
  let gd := qk / 5
  (List.range c).all fun i =>
    let core := 4 * (qk % 5) + base + i
    let ck := gd * 17 + core
    let n := groupsOn (dGroups ws) c i
    decide (base + c ≤ 4) && !coreOff s gd core && decide (slotsUsed s ck + n ≤ 32) && decide (banksUsed s ck + n * dBanks ws ≤ 256) &&
      decide (padUsed s ck + winShare (winBytes ws) c ≤ padSize ck) && blocksFree s ck e (dSems ws)
/-- The lowest base at which a task's team can be admitted on a quad (R283). -/
def baseFor (s : State) (e : Nat) (ws : List Word) (qk : Nat) : Option Nat := (List.range 4).find? (fitsAt s e ws qk)

/-! ### Argument words (R314) -/

inductive Args where
  | ok (ws : List Word)
  | miss (kind home key va : Nat)
  | wait                                -- its page moves (R200)
  | bad
  deriving DecidableEq, Repr
/-- A request task receives its descriptor's address in s0:s1 (R310). -/
def withReq (x : Entry) (ws : List Word) : List Word :=
  match x.reqAddr with
  | none => ws
  | some a => w32 a :: w32 (a / 2 ^ 32) :: ws.drop 2
/-- The argument words of an entry, as its die reads them. -/
def argsOf (s : State) (e : Nat) : Args :=
  let x := s.entry e
  let gd := e / 16384
  let n := dNarg x.words
  if n = 0 then .ok (withReq x []) else
  match readRange s gd (gd * 17 + 16) (s.ctxOf x.ctx).asid (dArgs x.words % 2 ^ 64) (4 * n) with
  | .ok (_, bs) => .ok (withReq x (wordsOfBytes bs n))
  | .error (.miss k h key va) => .miss k h key va
  | .error (.held _ _) => .wait
  | .error _ => .bad
/-- A miss waits for its record (log 25). -/
def argsWait (s : State) (e : Nat) : Bool :=
  match argsOf s e with
  | .miss k h key va =>
    let asid := (s.ctxOf (s.entry e).ctx).asid
    (s.faultRecs.any fun r => r.1 / 256 == h && sameRecord k asid va key r.2) || (makeFault s h k 0 asid (e / 16384) va key 0).isNone
  | .wait => true
  | _ => false

/-! ### Which entry, and where (R317, R318) -/

/-- Whether an entry wants a dispatch: Ready, or a range child or saved team with more to run. -/
def wants (x : Entry) : Bool :=
  (x.st == .ready && !x.root) || (x.st == .running && !x.root && (partsLeft x || !x.saves.isEmpty))
/-- Levels from 3 down, each in queue order. -/
def queueLt (a b : Entry) : Bool := decide (b.level < a.level) || (a.level == b.level && decide (a.order < b.order))
def insertEntry (x : Nat × Entry) : List (Nat × Entry) → List (Nat × Entry)
  | [] => [x]
  | y :: ys => if queueLt x.2 y.2 then x :: y :: ys else y :: insertEntry x ys
def readyQueue (s : State) (gd : Nat) : List (Nat × Entry) :=
  (s.entries.filter fun e => e.1 / 16384 == gd && wants e.2).foldr insertEntry []
/-- Whether what proofed an entry can be performed: the commands of the tasks before it have completed, and what they have
stored is, or can be, written back (R231). -/
def releasesDone (s : State) (x : Entry) : Bool :=
  x.after.all fun e => ((s.entry e).st != .ending || !taskBusy s e) && taskWritten (writeTask s e) e
/-- Perform the part of the releases before an entry that its placement needs. -/
def performReleases (s : State) (e : Nat) : State := (s.entry e).after.foldl writeTask s
/-- Free group slots of a quad. -/
def freeSlots (s : State) (qk : Nat) : Nat :=
  ((List.range 4).map fun i => let core := 4 * (qk % 5) + i; if coreOff s (qk / 5) core then 0 else 32 - slotsUsed s (qk / 5 * 17 + core)).sum
def insertQuad (s : State) (q : Nat) : List Nat → List Nat
  | [] => [q]
  | p :: ps => if freeSlots s p < freeSlots s q ∨ (freeSlots s p = freeSlots s q ∧ q < p) then q :: p :: ps else p :: insertQuad s q ps
/-- The quads of a die by free group slots. -/
def quadOrder (s : State) (gd : Nat) : List Nat := ((List.range 4).map fun q => gd * 5 + q).foldr (insertQuad s) []
/-- The quads that an entry may use, in order: its Tray's, those of its remaining chunks, or any. -/
def quadsFor (s : State) (e : Nat) (x : Entry) : List Nat :=
  match x.saves with
  | y :: _ => [y.team.qk]
  | [] =>
    if dType x.words = 1 then (match x.reservedTray with
      | some t => [(s.tray t.1).quad]
      | none => [])
    else if dType x.words = 0 then
      ((List.range 4).filter fun q => let p := x.parts.getD q (0, 0); decide (p.1 < p.2)).map fun q => e / 16384 * 5 + q
    else quadOrder s (e / 16384)
/-- Save a stopped team to its entry, and release what it held (R390 steps 3 and 4); its entry returns to its queue. -/
def checkpoint (s : State) (n : Nat) : State :=
  let t := s.team n
  let x := saveTeam s n
  let (o, s) := (releaseTeam s n).fresh
  s.modEntry t.task fun y =>
    { y with saves := y.saves ++ [x], running := y.running - 1, st := if y.running ≤ 1 then .ready else y.st,
             level := dPrio y.words, since := s.cycle, order := o }
/-- The state in which a reserved entry is tried: its victim's checkpoint, once that can be taken. -/
def readyState (s : State) (x : Entry) : State :=
  match x.victim with
  | some n => if Tab.has s.teams n && (s.team n).stopping && teamQuiet s n none then checkpoint s n else s
  | none => s
/-- Where an entry can be admitted: a saved team only where it stood. -/
def placeFor (s : State) (e : Nat) (x : Entry) (blocked : List Nat) : Option (Nat × Nat) :=
  let s := readyState s x
  if !releasesDone s x || argsWait s e then none else
  (quadsFor s e x).findSome? fun qk =>
    if blocked.contains qk then none else
    match x.saves with
    | y :: _ => if (restoreTeam s (e / 16384) y.team.quad y.team.base e y).isSome then some (qk, y.team.base) else none
    | [] => (baseFor s e x.words qk).map fun b => (qk, b)
/-- The first entry of a queue that can be admitted: entry, quad, base. -/
def firstFit (s : State) : List (Nat × Entry) → List Nat → Option (Nat × Nat × Nat)
  | [], _ => none
  | x :: xs, blocked =>
    match placeFor s x.1 x.2 blocked with
    | some p => some (x.1, p.1, p.2)
    | none => firstFit s xs (blocked ++ x.2.reserved.toList)

/-! ### Pre-emption (R387, R388) -/

def pick1 (better : Nat × Team → Nat × Team → Bool) : List (Nat × Team) → Option (Nat × Team)
  | [] => none
  | x :: xs => match pick1 better xs with
    | none => some x
    | some y => if better y x then some y else some x
/-- Whether a team's removal would let an entry be admitted on a quad. -/
def wouldFit (s : State) (e : Nat) (x : Entry) (qk n : Nat) : Bool := (baseFor (releaseTeam s n) e x.words qk).isSome
/-- The victim of a decision for an entry on a quad: fewest PTOK, then dispatched last. -/
def victimFor (s : State) (e : Nat) (x : Entry) (qk : Nat) : Option Nat :=
  let ts := s.teams.filter fun t => t.2.qk == qk && !t.2.stopping && wouldFit s e x qk t.1
  let tok (t : Nat × Team) : Nat := (s.ctxOf t.2.ctx).ptok
  (pick1 (fun a b => decide (tok a < tok b) ||
    (tok a == tok b && (decide (b.2.dispatchedAt < a.2.dispatchedAt) || (a.2.dispatchedAt == b.2.dispatchedAt && decide (b.1 < a.1))))) ts).map Prod.fst
def dirtyCount (s : State) (n : Nat) : Nat × Nat :=
  ((s.dirtyBanks.filter fun d => (s.team n).groups.contains (d.1 / 16)).length, (s.dirtyLines.filter fun d => d.1 / 2 ^ 12 == n).length)
def mustEnd (op : CmdOp) : Bool :=
  op.isColl || op == .put || op == .get || op == .ratom || op == .tokSend || op == .taskPost || op == .launch
/-- Whether a team can be checkpointed. -/
def canSave (s : State) (n : Nat) : Bool :=
  let t := s.team n
  !(s.cmds.any fun c => t.groups.contains c.2.g && (!c.2.started || mustEnd c.2.op)) &&
  !(t.groups.any fun g => match (s.grp g).service with
    | some (.pull _ _ _ _ _) => true
    | _ => false) &&
  !(s.chans.any fun k => k.2.prods.contains t.task || k.2.cons.contains t.task) && bitsOf (s.array t.qk).inForce 2 1 == 0
/-- Take a decision on a victim. -/
def decideOn (s : State) (e : Nat) (x : Entry) (n : Nat) (retake : Bool) : State :=
  let t := s.team n
  let v := s.entry t.task
  let new := (s.ctxOf x.ctx).ptok
  let old := (s.ctxOf t.ctx).ptok
  let r := dEst v.words - (s.cycle - t.dispatchedAt)
  let d := dirtyCount s n
  let drain : State :=
    { s with teams := Tab.put s.teams n { t with draining := true },
             entries := Tab.put s.entries e { x with victim := some n, drained := some (s.cycle + r + 65536) } }
  if new ≤ old ∧ !retake then s
  else if r ≤ 2048 + 64 * d.1 + 4 * d.2 ∧ !retake then drain
  else if !canSave s n ∧ (retake ∨ old + 64 ≤ new) then
    killTask (s.setEntry e { x with victim := some n, drained := none, retaken := retake || x.retaken }) t.task cKILLED 0
  else if !canSave s n then drain
  else
    { s with teams := Tab.put s.teams n { t with stopping := true, draining := false },
             entries := Tab.put s.entries e { x with victim := some n, drained := none, retaken := retake || x.retaken } }
/-- A decision for a reserved entry (R387). -/
def decide1 (s : State) (e : Nat) : State :=
  let x := s.entry e
  match x.reserved with
  | none => s
  | some qk => match victimFor s e x qk with
    | none => s
    | some n => decideOn s e x n false
/-- An entry that was passed over once more: from the sixteenth time on it becomes reserved (R318). -/
def passOver (s : State) (e : Nat) : State :=
  let x := s.entry e
  let x := { x with passed := x.passed + 1 }
  let s := s.setEntry e x
  if 16 ≤ x.passed ∧ x.reserved.isNone then
    decide1 (s.setEntry e { x with reserved := (quadsFor s e x).head? }) e
  else s
/-- The entries before one in its queue that could not be admitted are passed over. -/
def passEarlier (s : State) (gd e : Nat) : State :=
  let q := (readyQueue s gd).takeWhile fun x => x.1 != e
  (q.filter fun x => (placeFor s x.1 x.2 []).isNone).foldl (fun s x => passOver s x.1) s
/-- A reserved entry whose victim is gone and that still does not fit takes a new decision (R388). -/
def needsDecision (s : State) (e : Nat) : Bool :=
  let x := s.entry e
  x.st == .ready && x.reserved.isSome && x.victim.isSome && !(x.victim.any fun n => Tab.has s.teams n) && (placeFor s e x []).isNone

/-! ### The dispatch of an entry (R283, R285, R379, R467) -/

/-- What a lane of group i carries: its stream word, and whether it is active. A USER task's lanes carry no rows (R83, R285). -/
def carried (s : State) (gd : Nat) (x : Entry) (range : Option (Nat × Nat)) (i l : Nat) : Bool × Nat :=
  match range with
  | some (b, e) => (decide (b + 64 * i + l < e), b + 64 * i + l)
  | none =>
    if x.rows.isEmpty || dType x.words == 5 then (true, 64 * i + l)
    else if i = 0 ∧ l < x.rows.length then (true, wordAt (s.recAt (recKey gd (x.rows.getD l 0))).words 0)
    else (false, 64 * i + l)
def activeOf (s : State) (gd : Nat) (x : Entry) (range : Option (Nat × Nat)) (i : Nat) : Mask := maskOf fun l => (carried s gd x range i l).1
def tokBase (x : Entry) : Word := if rowType (dType x.words) && !x.rows.isEmpty then w32 (x.rows.headD 0) else 0xFFFFFFFF#32
/-- The array grant goes to a USER or RANGE task that may have it (R379). -/
def giveArray (s : State) (e qk : Nat) (x : Entry) : State :=
  let a := s.array qk
  if (dType x.words = 5 ∨ dType x.words = 0) ∧ (s.ctxOf x.ctx).arr ∧ a.grant.isNone ∧ bitsOf a.inForce 2 1 = 0 ∧ qk % 5 < 4 ∧ !arrayOff s (qk / 5) (qk % 5) then
    { s with arrays := Tab.put s.arrays qk { a with grant := some e } } else s
/-- The handles of a TILE task (R467). -/
def bindTile (s : State) (e : Nat) (x : Entry) : State :=
  match x.reservedTray with
  | none => s
  | some (k, b) =>
    if dType x.words ≠ 1 then s else
    let t := s.tray k
    let c := (t.bufs.getD b {}).first
    { s with handles := s.handles ++ { qk := t.quad, task := e, index := 0, first := c, count := t.cols } ::
        (List.range t.rescol).map fun i => { qk := t.quad, task := e, index := 1 + i, first := c + t.cols + i, count := 1 } }
/-- Records that an entry holds pass to its task. -/
def ownRecords (s : State) (e : Nat) : State :=
  { s with recs := s.recs.map fun r => if r.2.st = .heldEntry e then (r.1, { r.2 with st := .held e }) else r }
/-- One group of a team. -/
def admitGroup (s : State) (e n g i : Nat) (x : Entry) (range : Option (Nat × Nat)) (args : List Word) : State :=
  let gd := gdOf g
  let c := carried s gd x range i
  let pc : BitVec 56 := BitVec.ofNat 56 (dEntry x.words)
  let lanes := laneNums.foldl (fun t l => Tab.put t (laneKey g l) { pc := if (c l).1 then pc else 0, streamid := w32 (c l).2 }) s.lanes
  let sregs := (List.range args.length).foldl (fun t j => Tab.set t 0 (g * 32 + j) (args.getD j 0)) s.sregs
  let grp : Group := { task := e, ctx := x.ctx, team := n, index := i, banks := dBanks x.words, active := activeOf s gd x range i,
                       tile := rowType (dType x.words) && !x.rows.isEmpty, tokbase := tokBase x, age := s.cycle, dispatchedAt := s.cycle }
  { s with lanes := lanes, sregs := sregs, groups := Tab.put s.groups g grp }
/-- The group keys of a team on a quad, by slots; groups without an active lane are not created (log 25). -/
def teamKeys (qk base cores : Nat) (slots : List Nat) (i : Nat) : Nat :=
  (qk / 5 * 17 + 4 * (qk % 5) + base + i % cores) * 32 + slots.getD i 0
def admitTeam (s : State) (e qk base : Nat) (slots : List Nat) (range : Option (Nat × Nat)) (args : List Word) : State :=
  let s := performReleases s e
  let x := s.entry e
  let cores := dCores x.words
  let gd := qk / 5
  let is := (List.range (dGroups x.words)).filter fun i => activeOf s gd x range i != 0
  let (n, s) := s.fresh
  let t : Team := { task := e, ctx := x.ctx, gd := gd, quad := qk % 5, base := base, cores := cores, win := winBytes x.words,
                    groups := is.map (teamKeys qk base cores slots), dispatchedAt := s.cycle }
  let cks := (List.range cores).map t.ck
  let s := cks.foldl (fun s ck => grantBlocks (dropClean s ck) ck e (dSems x.words)) s
  let s := { s with teams := Tab.put s.teams n t }
  let s := is.foldl (fun s i => admitGroup s e n (teamKeys qk base cores slots i) i x range args) s
  let s := giveArray (ownRecords (bindTile s e x) e) e qk x
  let s := s.modTask e fun y => { y with cores := (y.cores ++ cks).eraseDups }
  s.modEntry e fun y => { y with st := .running, running := y.running + 1, quad := qk % 5, base := base, dispatched := s.cycle,
                                 reserved := none, passed := 0, victim := none, drained := none, after := [] }
/-- Whether slots are free ones for each group of a team. -/
def slotsOk (s : State) (qk base cores groups : Nat) (slots : List Nat) : Bool :=
  let ks := (List.range groups).map (teamKeys qk base cores slots)
  slots.length == groups && (slots.all fun x => decide (x < 32)) && (ks.all fun k => !Tab.has s.groups k) && ks.eraseDups.length == ks.length
/-- The lowest free slots for a team. -/
def lowSlots (s : State) (qk base cores groups : Nat) : List Nat :=
  (List.range groups).foldl (fun (ks : List Nat) i =>
    let used (j : Nat) : Bool := (List.range i).any fun i' => i' % cores == i % cores && ks.getD i' 32 == j
    ks ++ [((List.range 32).find? fun j => !Tab.has s.groups ((qk / 5 * 17 + 4 * (qk % 5) + base + i % cores) * 32 + j) && !used j).getD 32]) []
/-- Admit an entry with what its argument block holds: an unreadable block makes it Faulted, a miss makes a record. -/
def withArgs (s : State) (e : Nat) (k : List Word → State) : State :=
  match argsOf s e with
  | .ok ws => k ws
  | .bad => markFaulted s e
  | .wait => s
  | .miss kd h key va => ((makeFault s h kd 0 (s.ctxOf (s.entry e).ctx).asid (e / 16384) va key 0).map Prod.snd).getD s
/-- Whether a group of a die that waits in TASK.PULL can be served now, with the entry: the oldest pull first. -/
def pullFits (s : State) (g e : Nat) (x : Entry) (mask : Nat) : Bool :=
  let y := s.grp g
  let t := s.team y.team
  let ck := ckOf g
  let quadOk := if dType x.words ≤ 1 then (quadsFor s e x).contains (qkOf g) else true
  wants x && x.saves.isEmpty && x.ctx == y.ctx && bitOf mask (dType x.words) && dGroups x.words == 1 && decide (dBanks x.words ≤ y.banks) &&
    decide (winBytes x.words ≤ t.win) && quadOk && releasesDone s x && !argsWait s e &&
    (blocksOf (dSems x.words)).all fun b => !Tab.has s.grants (ck * 16 + b) || (blockGranted s ck b y.task && !blockBusy s ck b y.task)
/-- The group's accesses are done, as END asks, its window's stash lines can be written back, and its drain does not refuse
it (R198, R231, R347, R388). -/
def pullOpen (s : State) (g : Nat) : Option (Nat × Nat × Nat) :=
  match (s.grp g).service with
  | some (.pull _ mask since until_ _) => 
    let n := (s.grp g).team
    if writesWaiting s g || groupAccsWaiting s g || (s.teamOf g).draining ||
      (trimStash s n).stash.any (fun x => x.1 / 2 ^ 14 == n) then none else some (mask, since, until_)
  | _ => none
/-- The entry a pull would receive: the first of its die's queue that suits it. -/
def pullEntry (s : State) (g : Nat) : Option Nat :=
  match pullOpen s g with
  | none => none
  | some (mask, _, _) => (List.find? (fun x : Nat × Entry => pullFits s g x.1 x.2 mask) (readyQueue s (gdOf g))).map Prod.fst
/-- The oldest pull of a die that can be served: since, group, entry. -/
def nextPull (s : State) (gd : Nat) : Option (Nat × Nat × Nat) :=
  s.groups.foldl (fun best p =>
    if gdOf p.1 != gd then best else
    match pullOpen s p.1, pullEntry s p.1 with
    | some (_, since, _), some e => (match best with
      | some (b : Nat × Nat × Nat) => if since < b.1 then some (since, p.1, e) else best
      | none => some (since, p.1, e))
    | _, _ => best) none
/-- Whether a die dispatches: its body runs, and a partition holds it (R380). -/
def dieRuns (s : State) (gd : Nat) : Bool := (s.die gd).up && (partOf s gd).isSome && !(s.pkg (pkgOf gd)).lostDies.contains gd && !gatedDie s gd
/-- The next dispatch of a die: entry, quad, base. Pulls come first. -/
def nextDispatch (s : State) (gd : Nat) : Option (Nat × Nat × Nat) :=
  if !dieRuns s gd || (nextPull s gd).isSome then none else firstFit s (readyQueue s gd) []
/-- TASK_DISPATCH (R318, R390): `slots` are the group slots taken, group by group. A reserved entry whose victim has
gone and that still does not fit takes a new decision (R388). -/
def execTaskDispatch (e quad base : Nat) (slots : List Nat) (s : State) : Out :=
  if needsDecision s e then .next (decide1 (s.modEntry e fun x => { x with victim := none }) e) else
  let x := s.entry e
  if dType x.words = 0 ∧ x.saves.isEmpty ∨ nextDispatch s (e / 16384) ≠ some (e, quad, base) then .next s else
  let s := readyState (passEarlier s (e / 16384) e) x
  match x.saves with
  | y :: ys =>
    .next (match restoreTeam s (e / 16384) (quad % 5) base e y with
      | none => s
      | some s => (dropClean s (y.team.ck 0)).modEntry e fun z =>
          { z with saves := ys, st := .running, running := z.running + 1, reserved := none, passed := 0, victim := none, drained := none })
  | [] =>
    if !slotsOk s quad base (dCores x.words) (dGroups x.words) slots then .next s
    else .next (withArgs s e fun ws => admitTeam s e quad base slots none ws)

/-- CHUNK_DISPATCH (R320): the next chunk of a quad's part is one team. -/
def execChunkDispatch (e quad base : Nat) (slots : List Nat) (s : State) : Out :=
  let x := s.entry e
  let part := x.parts.getD (quad % 5) (0, 0)
  if dType x.words ≠ 0 ∨ !x.saves.isEmpty ∨ nextDispatch s (e / 16384) ≠ some (e, quad, base) then .next s else
  let s := readyState (passEarlier s (e / 16384) e) x
  if !slotsOk s quad base (dCores x.words) (dGroups x.words) slots then .next s else
  let stop := min (part.1 + 64 * dGroups x.words) part.2
  .next (withArgs s e fun ws =>
    admitTeam (s.modEntry e fun y => { y with parts := y.parts.set (quad % 5) (stop, part.2) }) e quad base slots (some (part.1, stop)) ws)

/-- DRAIN_RETAKE (R387): a drained victim has not ended in time. -/
def execDrainRetake (e : Nat) (s : State) : Out :=
  let x := s.entry e
  match x.drained, x.victim with
  | some at_, some n =>
    if x.retaken || s.cycle < at_ || !Tab.has s.teams n then .next s
    else .next (decideOn s e { x with drained := none, retaken := true } n true)
  | _, _ => .next s

/-- READY_AGING (R317). -/
def execReadyAging (e : Nat) (s : State) : Out :=
  let x := s.entry e
  if x.st = .ready ∧ !x.root ∧ x.level < 3 ∧ x.since + 65536 ≤ s.cycle then
    let (o, s) := s.fresh
    .next (s.setEntry e { x with level := x.level + 1, since := s.cycle, order := o })
  else .next s

/-! ### Pulls (R347) -/

/-- Write one value to a register in some lanes; a channel receives one row. -/
def writeLanes (s : State) (g d x : Nat) (m : Mask) : State :=
  if isCh d then pushChan s g (d - 0xE0) (laneNums.map fun l => if m.getLsbD l then w32 x else 0)
  else (lanesIn m).foldl (fun s l => wr s g l d x) s
/-- The task of a pulling group ends as by END; its team, window and group stay for the next task. -/
def endPuller (s : State) (g : Nat) : State :=
  let y := s.grp g
  let n := y.team
  let s := trimStash s n
  let s := dropBounds (s.modGrp g fun x => { x with service := none }) g fun _ => true
  let t := s.team n
  let s := { s with teams := Tab.put s.teams n { t with bars := [], stash := [], loaded := false, edited := false } }
  teamEnded s y.task (s.entry y.task).fault
/-- PULL_SERVED (R347). -/
def execPullServed (g e : Nat) (s : State) : Out :=
  match (s.grp g).service with
  | some (.pull d _ _ _ _) =>
    if (nextPull s (gdOf g)).map Prod.snd ≠ some (g, e) then .next s else
    let gd := gdOf g
    let x := s.entry e
    let qi := quadOf g
    let part := x.parts.getD qi (0, 0)
    let stop := min (part.1 + 64) part.2
    let range : Option (Nat × Nat) := if dType x.words = 0 then some (part.1, stop) else none
    .next (withArgs s e fun ws =>
      let s := performReleases s e
      let pc := (s.lane g (lowest (s.grp g).active)).pc
      let n := (s.grp g).team
      let s := endPuller s g
      let s := returnBlocks s
      let s := grantBlocks (dropClean s (ckOf g)) (ckOf g) e (dSems x.words)
      let act := activeOf s gd x range 0
      let s := { s with teams := Tab.put s.teams n { s.team n with task := e, dispatchedAt := s.cycle } }
      let s := s.modGrp g fun y => { y with task := e, index := 0, active := act, tile := rowType (dType x.words) && !x.rows.isEmpty,
                                            tokbase := tokBase x, dispatchedAt := s.cycle }
      let s := s.onLanes g laneNums fun l y =>
        { y with streamid := w32 (carried s gd x range 0 l).2, drawctr := 0, astat := 0, pc := if act.getLsbD l then pc else y.pc,
                 mac := none, stand := .run }
      let s := { s with sregs := (List.range ws.length).foldl (fun t j => Tab.set t 0 (g * 32 + j) (ws.getD j 0)) s.sregs }
      let s := giveArray (ownRecords (bindTile s e x) e) e (qkOf g) x
      let s := s.modTask e fun y => { y with cores := (y.cores ++ [ckOf g]).eraseDups }
      let s := s.modEntry e fun y => { y with st := .running, running := y.running + 1, quad := qi, base := coreOfCk (ckOf g) % 4, dispatched := s.cycle,
                                              reserved := none, passed := 0, victim := none, drained := none, after := [],
                                              parts := if dType x.words = 0 then y.parts.set qi (stop, part.2) else y.parts }
      writeLanes s g d (taskIdOf e) act)
  | _ => .next s
/-- PULL_TIMEOUT (R347); a drain refuses a pull at once (R388). -/
def execPullTimeout (g : Nat) (s : State) : Out :=
  match (s.grp g).service with
  | some (.pull d _ _ until_ m) =>
    if s.cycle < until_ && !(s.teamOf g).draining then .next s
    else .next (writeLanes (s.modGrp g fun x => { x with service := none }) g d noTask m)
  | _ => .next s

/-! ### Kills and faults (R315, R316, R389) -/

/-- The entries of the range children of an entry. -/
def childrenOf (s : State) (e : Nat) : List Nat :=
  (s.entries.filter fun c => dType c.2.words == 0 && c.2.parent.toNat == taskIdOf e && !c.2.root && c.2.st != .free).map Prod.fst
/-- TASK_KILL (R389): a range root is killed with its children. -/
def execTaskKill (e : Nat) (s : State) : Out :=
  let cs := if (s.entry e).root then childrenOf s e else []
  let s := cs.foldl (fun s c => markFaulted (killTask s c cKILLED 0) c) s
  .next (killTask s e cKILLED 0)
/-- FAULTED_ENTRY_RELEASE (R315, R316). -/
def execFaultedEntryRelease (e : Nat) (s : State) : Out :=
  let x := s.entry e
  if x.st ≠ .faulted then .next s else
  let s := x.deps.foldl (fun s t => releaseDep s (e / 16384) e t true) s
  let s := freeEntry (freeBuffer s e) e
  let child := dType x.words == 0 && !x.root && x.parent.toNat != 0xFFFFFFFF
  .next (if child then childDone s (entryOf x.parent.toNat) true else s)

/-! ### Ranges (R319 to R322) -/

/-- Parts of whole chunks: part i of d gets the floor, plus one for the first remaining parts. -/
def splitRange (b e cs d : Nat) : List (Nat × Nat) :=
  let c := (e - b + cs - 1) / cs
  (List.range d).map fun i =>
    let lo := i * (c / d) + min i (c % d)
    let hi := (i + 1) * (c / d) + min (i + 1) (c % d)
    (min (b + lo * cs) e, min (b + hi * cs) e)
/-- The dies of a package that a die's partition holds and that work. -/
def partDies (s : State) (gd : Nat) : List Nat :=
  ((List.range 64).map fun d => pkgOf gd * 64 + d).filter fun d => partOf s d == partOf s gd && !(s.pkg (pkgOf gd)).lostDies.contains d
/-- The dies over which a range is spread (R319). -/
def rangeDies (s : State) (e : Nat) : List Nat :=
  let x := s.entry e
  let gd := e / 16384
  let all := partDies s gd
  if dNarg x.words < 2 then all else
  match argsOf s e with
  | .ok ws =>
    let va := pairAt ws 0
    (match walkHome s gd (s.ctxOf x.ctx).asid va with
     | .miss _ => all
     | .ok leaf =>
       let d := leafStripe leaf
       let ds := if leafIl leaf = 0 then [(homeOf leaf va).1] else (List.range d).map fun i => bitsOf leaf 63 54 * 64 + bitsOf leaf 53 48 + i
       if outside va || ds.any (fun x => !all.contains x) then all else ds)
  | _ => all
/-- Make a child of a range root in a die's table; none where the table is full. -/
def makeChild (s : State) (root gd b e : Nat) : Option State :=
  match freeEntryOf s gd with
  | none => none
  | some k =>
    let r := s.entry root
    let (o, s) := s.fresh
    some (s.setEntry k { words := (r.words.set 8 (w32 b)).set 9 (w32 e), ctx := r.ctx, st := .ready, parent := w32 (taskIdOf root),
                         level := dPrio r.words, since := s.cycle, order := o, after := r.after,
                         parts := splitRange b e (64 * dGroups r.words) 4 })
/-- RANGE_DISTRIBUTION (R319). -/
def execRangeDistribution (e : Nat) (s : State) : Out :=
  let x := s.entry e
  if x.st ≠ .ready ∨ !x.root ∨ argsWait s e then .next s else
  match argsOf s e with
  | .miss kd h key va => .next (((makeFault s h kd 0 (s.ctxOf x.ctx).asid (e / 16384) va key 0).map Prod.snd).getD s)
  | _ =>
  let ds := rangeDies s e
  let ps := ((splitRange (dBegin x.words) (dEnd x.words) (64 * dGroups x.words) ds.length).zip ds).filter fun p => decide (p.1.1 < p.1.2)
  if dEnd x.words ≤ dBegin x.words ∨ ps.isEmpty then .next (endTask (s.setEntry e { x with st := .running }) e false) else
  let s := s.setEntry e { x with st := .running, children := 0, held := [] }
  .next (ps.foldl (fun s p =>
    match makeChild s e p.2 p.1.1 p.1.2 with
    | some s => s.modEntry e fun r => { r with children := r.children + 1 }
    | none => s.modEntry e fun r => { r with held := r.held ++ [(p.2, p.1.1, p.1.2)] }) s)
/-- HELD_PART_PLACED (R319). -/
def execHeldPartPlaced (root part : Nat) (s : State) : Out :=
  let r := s.entry root
  match r.held[part]? with
  | none => .next s
  | some h =>
    if r.st ≠ .running then .next s else
    match makeChild s root h.1 h.2.1 h.2.2 with
    | none => .next s
    | some s => .next (s.modEntry root fun r => { r with children := r.children + 1, held := r.held.eraseIdx part })
/-- The first held part of a range root whose die has a Free entry. -/
def heldReady (s : State) (x : Entry) : Option Nat := (List.range x.held.length).find? fun i => (freeEntryOf s (x.held.getD i (0, 0, 0)).1).isSome
def chunksOf (cs : Nat) (p : Nat × Nat) : Nat := (p.2 - p.1 + cs - 1) / cs
/-- The first largest of some numbers: its place. -/
def largest (xs : List Nat) : Nat := (List.range xs.length).foldl (fun b i => if xs.getD b 0 < xs.getD i 0 then i else b) 0
/-- QUAD_STEAL (R321): a quad without chunks, which could admit a team, takes the back half of the largest part. -/
def execQuadSteal (e quad : Nat) (s : State) : Out :=
  let x := s.entry e
  let cs := 64 * dGroups x.words
  let ns := x.parts.map (chunksOf cs)
  let q := quad % 5
  let j := largest ns
  let n := ns.getD j 0
  if !wants x || dType x.words != 0 || x.parts.length != 4 || decide (4 ≤ q) || quad / 5 != e / 16384 || ns.getD q 0 != 0 || n == 0 ||
      (baseFor s e x.words quad).isNone then .next s else
  let p := x.parts.getD j (0, 0)
  let cut := p.1 + (n - max 1 (n / 2)) * cs
  .next (s.setEntry e { x with parts := (x.parts.set j (p.1, cut)).set q (cut, p.2) })
/-- Take k chunks from the back of some parts, the last part first: what is left, and what was taken. -/
def takeBack (cs : Nat) : List (Nat × Nat) → Nat → List (Nat × Nat) × List (Nat × Nat)
  | [], _ => ([], [])
  | p :: ps, k =>
    let r := takeBack cs ps k
    let got := (r.2.map (chunksOf cs)).sum
    let m := min (k - got) (chunksOf cs p)
    if m = 0 then (p :: r.1, r.2) else
    let cut := p.1 + (chunksOf cs p - m) * cs
    ((p.1, cut) :: r.1, (cut, p.2) :: r.2)
/-- DIE_STEAL_REQUEST (R321): a die whose parts are empty takes the back half of the largest remaining child range of
its root. Several pieces go to one quad each (log 25). -/
def execDieStealRequest (root gd : Nat) (s : State) : Out :=
  let r := s.entry root
  let cs := 64 * dGroups r.words
  let kids := (childrenOf s root).filter fun c => (s.entry c).st == .ready || (s.entry c).st == .running
  let left (c : Nat) : Nat := ((s.entry c).parts.map (chunksOf cs)).sum
  match kids.find? fun c => c / 16384 == gd with
  | none => .next s
  | some me =>
    let n := largest (kids.map left)
    let v := kids.getD n 0
    if r.st ≠ .running ∨ left me ≠ 0 ∨ (s.entry me).fault ∨ (s.entry me).parts.length ≠ 4 ∨ v = me ∨ left v < 4 then .next s else
    let t := takeBack cs (s.entry v).parts (left v / 2)
    let mine := match t.2 with
      | [p] => splitRange p.1 p.2 cs 4
      | ps => (List.range 4).map fun i => ps.getD i (0, 0)
    .next ((s.modEntry v fun x => { x with parts := t.1 }).modEntry me fun x => { x with parts := mine })

end Sys2Proof.Machine
end

