-- ==== Sys2Proof/Machine/TrayEvents.lean ====
section
/-! DEFINITION. The rows of Trays and Belts: gathers, firings, boarding, passes and readouts, and the steward's reclaim
of records (01: R25, R26; 06: R145 to R153; 13: R323 to R326; 23: R467). A row whose condition does not hold changes
nothing. -/
namespace Sys2Proof.Machine

/-! ### Firing (R323 to R325) -/

def setBuf (s : State) (k b : Nat) (x : TBuf) : State :=
  let t := s.tray k
  { s with trays := Tab.put s.trays k { t with bufs := t.bufs.set b x } }
def trayOper (s : State) (k : Nat) : Oper := Tab.get s.opers (k / 64 * 2 ^ 16 + (s.tray k).oper) {}
def setRecs (s : State) (gd : Nat) (slots : List Nat) (st : RecState) : State :=
  slots.foldl (fun s n => { s with recs := Tab.put s.recs (recKey gd n) { s.recAt (recKey gd n) with st := st } }) s
/-- The TILE task of a fired tile is proofed: its entry owns the records, and it may become Ready (R25, R325). -/
def proofTile (s : State) (e : Nat) : State := tryReady (setRecs s (e / 16384) (s.entry e).rows (.heldEntry e)) e
/-- A building tile fires: its records are Boarded, its header's ROWS is set, and its task is created in the buffer's
entry. Without a span the task is proofed at once; with one it waits for the tile's signal (R150, R325). -/
def fireTile (s : State) (k b : Nat) : State :=
  let t := s.tray k
  let x := t.bufs.getD b {}
  let o := trayOper s k
  let e := x.entry
  let (n, s) := s.fresh
  let s := setBuf s k b { x with building := false, fired := true, due := false, firedNo := n }
  let s := setRecs s (k / 64) x.rows .boarded
  let s := setHead s t.quad x.first (trayHdr t x.rows.length)
  let s := s.setEntry e { words := o.tmpl, ctx := o.ctx, st := .waiting, dep := b2n o.span, rows := x.rows,
                          reservedTray := some (k, b) }
  if o.span then s else proofTile s e
/-- A tile that is full or timed out fires, or waits while the seat limit holds it (R324). -/
def fireOrWait (s : State) (k b : Nat) : State :=
  if mayFire s k then fireTile s k b else setBuf s k b { (s.tray k).bufs.getD b {} with due := true }
def buildingOf (t : Tray) : Option Nat := (List.range t.bufs.length).find? fun b => (t.bufs.getD b {}).building
/-- The buffer that the next row joins: the building one, else the first that is free. -/
def bufForRow (t : Tray) : Option Nat :=
  match buildingOf t with
  | some b => if (t.bufs.getD b {}).rows.length < 64 then some b else none
  | none => (List.range t.bufs.length).find? fun b => (t.bufs.getD b {}).empty

/-! ### Gathers (R323, R415) -/

/-- A record waits for its gather while its ROW is 0xFF. -/
def ungathered (r : Rec) : Bool := r.st == .waiting && bitsOf (wordAt r.words 14) 23 16 == 0xFF
/-- A record whose hidden state cannot be read goes to the steward (log 21). -/
def gatherFail (s : State) (gd slot site : Nat) : State :=
  let s := { s with recs := Tab.put s.recs (recKey gd slot) { s.recAt (recKey gd slot) with st := .steward } }
  s.report gd (causeReport s cTOKEN_FAULT noTask slot site)
/-- One row of operand memory, and word 14 of its record. -/
def placeRow (s : State) (gd slot k b : Nat) (bs : List Nat) : State :=
  let t := s.tray k
  let x := t.bufs.getD b {}
  let row := x.rows.length
  let len := bs.length
  let mem := (List.range len).foldl (fun m i =>
    let c := bandAt x.first len row i
    Tab.set m 0#8 (opKey t.quad c.1 c.2.1 c.2.2) (BitVec.ofNat 8 (bs.getD i 0))) s.opmem
  let r := s.recAt (recKey gd slot)
  let s := { s with opmem := mem, recs := Tab.put s.recs (recKey gd slot) { r with words := r.words.set 14 (w32 (row * 2 ^ 16 + b)) } }
  let x := { x with rows := x.rows ++ [slot], building := true, startedAt := if row = 0 then s.cycle else x.startedAt }
  let s := setBuf s k b x
  if row = 63 then fireOrWait s k b else s
/-- GATHER_COMPLETE (R323). -/
def execGatherComplete (gd slot : Nat) (s : State) : Out :=
  let r := s.recAt (recKey gd slot)
  let k := r.tray
  match Tab.find? s.trays k with
  | none => .next s
  | some t =>
    match bufForRow t with
    | none => .next s
    | some b =>
      if !ungathered r || k / 64 != gd then .next s else
      let asid := (s.ctxOf (trayOper s k).ctx).asid
      let n := (parseHdr (trayHdr t 1)).areas.getD 0 0
      match readRange s gd (gd * 17 + 16) asid (pairAt r.words 8) n with
      | .ok (s, bs) => .next (placeRow s gd slot k b bs)
      | .error (.absent g page) => .fault (.absentPage g page)
      | .error (.held _ _) => .next s
      | .error (.miss kd h key va) => .next (((makeFault s h kd 0 asid gd va key 0).map Prod.snd).getD s)
      | .error (.cause c va home) =>
        .next (gatherFail (if c = cGUARD_DROP then guardReport s gd home .req (trayOper s k).ctx va 0 else s) gd slot 0)
/-- Whether a building tile's timer has reached maxwait. -/
def timedOut (s : State) (k b : Nat) : Bool :=
  let t := s.tray k
  let x := t.bufs.getD b {}
  x.building && !x.due && !x.rows.isEmpty && decide (x.startedAt + t.maxwait ≤ s.cycle)
/-- TRAY_TIMEOUT (R323). -/
def execTrayTimeout (gd tray : Nat) (s : State) : Out :=
  let k := gd * 64 + tray
  match buildingOf (s.tray k) with
  | some b => if timedOut s k b then .next (fireOrWait s k b) else .next s
  | none => .next s
/-- DEFERRED_TILE_FIRE (R324). -/
def execDeferredTileFire (gd tray : Nat) (s : State) : Out :=
  let k := gd * 64 + tray
  match buildingOf (s.tray k) with
  | some b => if ((s.tray k).bufs.getD b {}).due && mayFire s k then .next (fireTile s k b) else .next s
  | none => .next s

/-! ### The ring (R145 to R150) -/

/-- The ring that serves a region now: one of the geometry in force, while the region is in Belt mode. -/
def ringNow (s : State) (q r : Nat) : Option (Nat × Ring) :=
  if !bitOf (s.array q).inForce (1 + r) then none else
  let k := ringKey q r (bitOf (s.array q).inForce 0)
  (Tab.find? s.rings k).map fun g => (k, g)
def slotAt (g : Ring) (i : Nat) : BeltSlot := g.slots.getD i { addr := 0, seats := 1, oper := 0, block := 0 }
/-- The first and the last slot of an operator's span, and of one of its output blocks. -/
def spanFirst (g : Ring) (i : Nat) : Bool := i == 0 || (slotAt g (i - 1)).oper != (slotAt g i).oper
def spanLast (g : Ring) (i : Nat) : Bool := i + 1 == g.slots.length || (slotAt g (i + 1)).oper != (slotAt g i).oper
def blockFirst (g : Ring) (i : Nat) : Bool := spanFirst g i || (slotAt g (i - 1)).block != (slotAt g i).block
def blockLast (g : Ring) (i : Nat) : Bool := spanLast g i || (slotAt g (i + 1)).block != (slotAt g i).block
/-- The Trays of a die that serve an operator. -/
def traysOf (s : State) (gd op : Nat) : List Nat :=
  ((s.trays.filter fun t => t.1 / 64 == gd && t.2.oper == op).map Prod.fst)
def insertFired (x : Nat × Nat × Nat) : List (Nat × Nat × Nat) → List (Nat × Nat × Nat)
  | [] => [x]
  | y :: ys => if x.1 < y.1 then x :: y :: ys else y :: insertFired x ys
/-- The fired tiles of an operator that have not boarded, in the order in which they fired: number, Tray, buffer. -/
def firedTiles (s : State) (gd op : Nat) : List (Nat × Nat × Nat) :=
  ((traysOf s gd op).flatMap fun k =>
    ((List.range (s.tray k).bufs.length).filter fun b => let x := (s.tray k).bufs.getD b {}; x.fired && !x.boarded).map
      fun b => (((s.tray k).bufs.getD b {}).firedNo, k, b)).foldl (fun ys x => insertFired x ys) []
/-- Boarding at the first slot of a span (R149, R324): the fired tiles in order; then, if a seat is left, the building
tile fires and boards. -/
def board (s : State) (gd op seats : Nat) : State × List Rider :=
  let fired := (firedTiles s gd op).take seats
  let s := if fired.length < seats then
      (match (traysOf s gd op).findSome? fun k => (buildingOf (s.tray k)).map fun b => (k, b) with
       | some (k, b) => if ((s.tray k).bufs.getD b {}).rows.isEmpty || !entryBack s k then s else fireTile s k b
       | none => s)
    else s
  let all := (firedTiles s gd op).take seats
  (all.foldl (fun s x => setBuf s x.2.1 x.2.2 { (s.tray x.2.1).bufs.getD x.2.2 {} with boarded := true }) s,
   all.map fun x => { tray := x.2.1, buf := x.2.2 })
/-- The B tile of a rider. -/
def riderTile (s : State) (x : Rider) : TileV :=
  let t := s.tray x.tray
  let c := ((s.tray x.tray).bufs.getD x.buf {}).first
  let h := hdrAt s t.quad c
  { hdr := h, bytes := tileBytes s t.quad c h, scales := [] }
/-- The columns that an operator has in an output block. -/
def blockCols (o : Oper) (b : Nat) : Nat := min (o.n - 128 * b) 128
/-- Whether the header of a tile fits the pass of a weight tile at a K position (R139, R147). -/
def passFits (h a : Hdr) (k : Nat) : Bool :=
  h.okB (groupOf a.fmt) && h.isInt == a.isInt && decide (k + a.kext ≤ h.kext)
/-- Whether a tile meets an invalid header of its own at the active slot: a fault of R139 that the slot's preload could not
find. -/
def passFault (s : State) (g : Ring) (i : Nat) (a : Option TileV) (x : Rider) : Bool :=
  !(slotAt g i).faulted && (match a with
    | none => false
    | some t => !passFits (riderTile s x).hdr t.hdr (if blockFirst g i then 0 else x.k))
/-- One tile passes the active slot (R150): its chain starts at +0 at the first pass of each block, and takes in the columns
n < ROWS of the weight tile (R141). A header that does not fit the pass, or a faulted slot, is remembered (R139). -/
def passSlot (s : State) (g : Ring) (i : Nat) (o : Oper) (a : Option TileV) (x : Rider) : Rider :=
  let sl := slotAt g i
  let b := riderTile s x
  let zeros := b.hdr.rows * 128
  let x := if blockFirst g i then { x with k := 0, cols := 0, acc := List.replicate zeros 0, sat := List.replicate zeros false } else x
  let ok := match a with
    | none => none
    | some t => if !sl.faulted && passFits b.hdr t.hdr x.k then some t else none
  let x := match ok with
    | none => { x with bad := true }
    | some t =>
      let ys := (List.range zeros).map fun j =>
        if j % 128 < t.hdr.rows then passElem t b o.sat x.k (j / 128) (j % 128) (x.acc.getD j 0).toNat
        else ((x.acc.getD j 0).toNat, {})
      { x with k := x.k + t.hdr.kext, cols := max x.cols t.hdr.rows, acc := ys.map fun y => w32 y.1,
               sat := (List.range zeros).map fun j => x.sat.getD j false || (((ys.map Prod.snd).getD j {}).sat != 0) }
  if !blockLast g i then x else
  { x with out := x.out ++ [(sl.block, i, x.cols, x.acc, (x.sat.filter id).length)], last := spanLast g i }
/-- Whether a region takes no tile any more: an MCFG that it waits for has issued (R173), or its array is retired (R1). -/
def boardsNot (s : State) (q r : Nat) : Bool :=
  arrayOff s (q / 5) (q % 5) || s.cmds.any fun c => c.2.op == .mcfg && c.2.qk == q && bitOf c.2.pos r
/-- Count the fault of a pass in the entry of the operator and slot (R139, R153, R449). -/
def passCensus (s : State) (q op i : Nat) : State :=
  addCensus s (q / 5) (896 + (op + i) % 128) (2 ^ 31 + i * 2 ^ 16 + op) { hdr := 1 }
/-- BELT_SLOT_ACTIVE (R145, R146, R149, R150): the banks swap, tiles board at the first slot of a span, and the boarded
tiles pass in boarding order; blocks of earlier slots may still be read out. It waits for the preload (R148). -/
def execBeltSlotActive (q r : Nat) (s : State) : Out :=
  match ringNow s q r with
  | none => .next s
  | some (k, g) =>
    if !g.preloaded || g.slots.isEmpty then .next s else
    let i := (g.current + 1) % g.slots.length
    let sl := slotAt g i
    let s := swapBanks s q r
    let (s, boarded) := if spanFirst g i && !boardsNot s q r then board s (q / 5) sl.oper sl.seats else (s, [])
    let o := Tab.get s.opers (operKey (q / 5) sl.oper) {}
    let a := (s.bank (bankKey q r 0)).tile?
    let mine (x : Rider) : Bool := (s.tray x.tray).oper == sl.oper && !x.last
    let all := g.riders ++ boarded
    let riders := all.map fun x => if mine x then passSlot s g i o a x else x
    let s := (all.filter fun x => mine x && passFault s g i a x).foldl (fun s _ => passCensus s q sl.oper i) s
    .next { s with rings := Tab.put s.rings k { g with current := i, preloaded := false, riders := riders } }

/-! ### Preloads (R139, R146, R226, R326, R373) -/

/-- Where byte o of a weight tile lies: die and page-space address, by the extents fixed at registration. -/
def extentAt : List (Nat × Nat × Nat) → Nat → Option (Nat × Nat)
  | [], _ => none
  | (gd, a, n) :: t, o => if o < n then some (gd, a + o) else extentAt t (o - n)
/-- Bytes of a weight tile, line by line at PKG scope; none where the tile does not reach so far or a line is lost. -/
def tileRead (asid : Nat) (x : BeltSlot) : List (Nat × Nat) → State → Option (State × List Nat)
  | [], s => some (s, [])
  | p :: ps, s =>
    match extentAt x.extents (p.1 - x.addr) with
    | none => none
    | some (gd, a) =>
      let s := recallLine s asid (p.1 - p.1 % 64) false
      match homeRead s { gd := gd, leaf := 0, page := a / 65536, off := a % 65536, key := p.1, hpa := 0 } p.2 with
      | none => none
      | some bs => (tileRead asid x ps s).map fun y => (y.1, bs ++ y.2)
def fourWords (bs : List Nat) : List Nat := (List.range 4).map fun i => leValue ((bs.drop (4 * i)).take 4)
/-- Whether a weight tile differs in class from the B tiles of its operator's Trays on the die (R139). -/
def classDiffers (s : State) (gd op : Nat) (h : Hdr) : Bool :=
  (traysOf s gd op).any fun k => (parseHdr (trayHdr (s.tray k) 1)).isInt != h.isInt
/-- A preload: the state with the shadow bank written, and whether the slot is faulted. -/
def preload (s : State) (q r : Nat) (g : Ring) (i : Nat) : State × Bool :=
  let x := slotAt g i
  let asid := (s.ctxOf g.ctx).asid
  let sh := bankKey q r 1
  match tileRead asid x (pieces x.addr 16) s with
  | none => (setBank s sh {}, true)
  | some (s, hb) =>
    let ws := fourWords hb
    let h := parseHdr ws
    if !h.okA g.split || h.cen || classDiffers s (q / 5) x.oper h then (passCensus (setBank s sh {}) q x.oper i, true)
    else
      match tileRead asid x (pieces (x.addr + 64) (h.imageBytes - 64)) s with
      | none => (setBank s sh {}, true)
      | some (s, bs) => (setBank s sh (tileBank ws bs []), false)
/-- PRELOAD_COMPLETE (R146): the successor of the active slot is in the shadow bank. -/
def execPreloadComplete (q r : Nat) (s : State) : Out :=
  match ringNow s q r with
  | none => .next s
  | some (k, g) =>
    if g.preloaded || g.slots.isEmpty then .next s else
    let i := (g.current + 1) % g.slots.length
    let (s, bad) := preload s q r g i
    .next { s with rings := Tab.put s.rings k { g with preloaded := true, slots := g.slots.set i { slotAt g i with faulted := bad } } }

/-! ### Readouts (R150, R153, R449, R467) -/

/-- The first rider that has a block to read out. -/
def readyRider (g : Ring) : Option Nat := (List.range g.riders.length).find? fun i => ((g.riders[i]?).map fun x => !x.out.isEmpty) == some true
def setHdrD (s : State) (qk col rows cols : Nat) (isInt : Bool) : State :=
  setHead s qk col [rows * 2 ^ 24 + (if isInt then 8 else 7), cols, 0, 0]
/-- The events that results count. -/
def outCounts (isInt : Bool) (ws : List Word) (sat : Nat) : Counts :=
  if isInt then { sat := sat } else sumCounts (ws.map fun w => countF w.toNat)
/-- Results into a result column, with its D header; columns that no pass has reached are not written (R141), and blocks
past RESCOL have no column. -/
def writeOut (s : State) (x : Rider) (o : Oper) (b n wide : Nat) (ws : List Word) (sat : Nat) : State :=
  let t := s.tray x.tray
  if t.rescol ≤ b then s else
  let h := (riderTile s x).hdr
  let col := (t.bufs.getD x.buf {}).first + t.cols + b
  let cols := blockCols o b
  let at_ (j : Nat) : Nat := j / wide * 128 + j % wide
  let js := List.range (h.rows * wide)
  let s := js.foldl (fun s j => setDWord s t.quad col cols (j / wide) (j % wide) (ws.getD (at_ j) 0).toNat) s
  let s := setHdrD s t.quad col h.rows cols h.isInt
  addCensus s (t.quad / 5) (896 + (t.oper + n) % 128) (2 ^ 31 + n * 2 ^ 16 + t.oper) (outCounts h.isInt (js.map fun j => ws.getD (at_ j) 0) sat)
/-- The TILE task's signal (R150), with fault flag 1 for a tile that passed a faulted slot (R139). -/
def signalTile (s : State) (x : Rider) : State :=
  let y := (s.tray x.tray).bufs.getD x.buf {}
  let e := y.entry
  let s := setBuf s x.tray x.buf { y with signalled := true }
  if x.bad then
    let s := setRecs s (e / 16384) (s.entry e).rows (.heldEntry e)
    (markFaulted s e).report (e / 16384) (causeReport s 0 (taskIdOf e) 0 0)
  else proofTile (s.modEntry e fun z => { z with dep := z.dep - 1 }) e
/-- READOUT_COMPLETE (R150). -/
def execReadoutComplete (q r : Nat) (s : State) : Out :=
  match ringNow s q r with
  | none => .next s
  | some (k, g) =>
    match readyRider g with
    | none => .next s
    | some i =>
      match g.riders[i]? with
      | none => .next s
      | some x =>
        match x.out with
        | [] => .next s
        | o :: rest =>
          let op := trayOper s x.tray
          let s := if x.bad then s else writeOut s x op o.1 o.2.1 o.2.2.1 o.2.2.2.1 o.2.2.2.2
          let done := rest.isEmpty && x.last
          let riders := if done then g.riders.eraseIdx i else g.riders.set i { x with out := rest }
          let s := { s with rings := Tab.put s.rings k { g with riders := riders } }
          .next (if done then signalTile s x else s)

/-! ### Records of the steward (R25) -/

/-- STEWARD_RECLAIM (R25): a record that the steward holds becomes Free. -/
def execStewardReclaim (gd slot : Nat) (s : State) : Out :=
  if (s.recAt (recKey gd slot)).st = .steward then .next { s with recs := Tab.del s.recs (recKey gd slot) } else .next s

end Sys2Proof.Machine
end

