-- ==== Sys2Proof/Machine/Loader.lean ====
section
/-! DEFINITION. Submission pages, the graph image and its load (11: R279; 13: R308 to R313, R482; 15: R359, R360,
R363). What the manual leaves to the steward, it takes as it comes: which frames, table pages and addresses a load uses
is the row's argument `frames` (log 28). -/
namespace Sys2Proof.Machine

/-! ### The dies of a context (R312, R375) -/

/-- A package whose dies hold a translation descriptor of a context: that of its submission page. -/
def ctxPkg (s : State) (ctx : Nat) : Nat :=
  let c := s.ctxOf ctx
  match List.find? (fun d : Nat × Desc => d.1 % 2 ^ 16 == c.asid) s.descs with
  | none => 0
  | some d =>
    let gd := d.1 / 2 ^ 16
    match walkHome s gd c.asid c.subpg with
    | .ok leaf => pkgOf (homeOf leaf c.subpg).1
    | .miss _ => pkgOf gd
/-- The dies of a context's partition in its package; where no die carries its tag, the whole package. -/
def ctxDies (s : State) (ctx : Nat) : List Nat :=
  let p := ctxPkg s ctx * 64
  let tagged := ((List.range 64).map (p + ·)).filter fun d => partOf s d == some (s.ctxOf ctx).part
  if tagged.isEmpty then (List.range 64).map (p + ·) else tagged
def ctxRoot (s : State) (ctx : Nat) : Nat := (ctxDies s ctx).headD 0

/-! ### The submission page (R308) -/

/-- The home line of a byte of a context's submission page. -/
def subLoc (s : State) (ctx off : Nat) : Option Loc :=
  let c := s.ctxOf ctx
  match locate s (ctxRoot s ctx) c.asid (c.subpg + off) with
  | .at l => if l.absent then none else some l
  | .miss _ _ _ => none
def subRead (s : State) (ctx off n : Nat) : List Nat :=
  match subLoc s ctx off with
  | some l => (homeRead s l n).getD (List.replicate n 0)
  | none => List.replicate n 0
def subWord (s : State) (ctx off : Nat) : Nat := leValue (subRead s ctx off 4)
def subWrite (s : State) (ctx off : Nat) (bs : List Nat) : State :=
  match subLoc s ctx off with
  | some l =>
    let gd := ctxRoot s ctx
    let va := (s.ctxOf ctx).subpg + off
    let q : Ask := { req := gd, core := 16, agent := 0, op := 1, asid := (s.ctxOf ctx).asid, va := va, bytes := bs.length }
    (homePut (recallLine s (s.ctxOf ctx).asid (va - va % 64) true) 0 l q (2 ^ bs.length - 1) bs).getD s
  | none => s
/-- The submission doorbell: the lowest semaphore of the lowest block of DBSEMS (R310). -/
def submissionSem (c : Ctx) : Option Nat := (blocksOf c.dbsems).head?.map (· * 16)
/-- Room for a completion record. -/
def complRoom (s : State) (ctx : Nat) : Bool := decide ((subWord s ctx 8 + 2 ^ 32 - subWord s ctx 12) % 2 ^ 32 < 512)
/-- Whether the steward takes entries of a context. -/
def subOpen (s : State) (ctx : Nat) : Bool :=
  let c := s.ctxOf ctx
  !c.dead && !c.words.isEmpty && (s.die (ctxPkg s ctx * 64)).up && complRoom s ctx
/-- The next entry that the steward takes: one to be run again (R454), else the next that the host has handed over. -/
def nextSub (s : State) (ctx : Nat) : Option (List Word) :=
  let c := s.ctxOf ctx
  if !subOpen s ctx then none else
  match c.again, submissionSem c with
  | ws :: _, _ => some ws
  | [], none => none
  | [], some e =>
    let cons := subWord s ctx 4
    if (s.sem (ctxPkg s ctx * 64 * 17 + 16) e).count == 0 || subWord s ctx 0 == cons then none
    else some (wordsOfBytes (subRead s ctx (0x40 + 64 * (cons % 512)) 64) 16)
/-- Take it: CONS advances and the doorbell's count falls by one. -/
def takeSub (s : State) (ctx : Nat) : State :=
  let c := s.ctxOf ctx
  match c.again with
  | _ :: rest => { s with ctxs := Tab.put s.ctxs ctx { c with again := rest } }
  | [] =>
    let s := subWrite s ctx 4 (leBytes (subWord s ctx 4 + 1) 4)
    match submissionSem c with
    | none => s
    | some e =>
      let ck := ctxPkg s ctx * 64 * 17 + 16
      let x := s.sem ck e
      s.setSem ck e { x with count := x.count - 1 }
/-- A doorbell add of a context (R279); `s` gets DBSTAT where it is discarded. -/
def doorbellAdd (s : State) (ctx i n : Nat) : State :=
  let c := s.ctxOf ctx
  let ck := ctxPkg s ctx * 64 * 17 + 16
  let x := s.sem ck i
  let stat (b : Word) : State := { s with ctxs := Tab.put s.ctxs ctx { c with dbstat := c.dbstat ||| b } }
  if 256 ≤ i || !bitOf c.dbsems (i / 16) then stat 1#32
  else if 1023 < x.count + x.pending + n then stat 2#32
  else s.setSem ck i { x with count := x.count + n, wide := true }

/-- The first word of a submission entry that breaks R309, by kind. -/
def subBad (ws : List Word) : Option Nat :=
  let k := bitsOf (wordAt ws 0) 31 24
  if k ≠ 1 ∧ k ≠ 2 then some 0 else
  (List.range 16).find? fun i =>
    let w := wordAt ws i
    if i = 0 then bitsOf w 23 16 != 0 else if i = 1 then w != 0 else if i = 7 then bitsOf w 31 9 != 0
    else if 8 ≤ i then w != 0 else k == 2 && decide (4 ≤ i) && w != 0

/-! ### The image (R311) -/

structure Image where
  code : List Nat := []
  tasks : List (List Word) := []
  oper : List Nat := []
  nodes : List (List Nat) := []
  edges : List (Nat × Nat) := []
  patches : List (Nat × Nat) := []
  plans : List (List Nat) := []
  data : List Nat := []
  macros : List Nat := []
  deriving DecidableEq, Repr

def wordsN (bs : List Nat) : List Nat := (List.range (bs.length / 4)).map fun i => leValue ((bs.drop (4 * i)).take 4)
/-- Groups of n words. -/
def chunks (n : Nat) (ws : List Nat) : List (List Nat) := (List.range (ws.length / n)).map fun i => (ws.drop (n * i)).take n
/-- Section records: place of the record, type, offset, size. -/
abbrev Sec := Nat × Nat × Nat × Nat
def unitOf (ty : Nat) : Nat := if ty = 2 then 64 else if ty = 5 then 8 else if ty = 6 then 16 else if ty = 7 then 1 else if ty = 8 then 8 else 4
def firstBad (xs : List (Bool × Nat)) : Option Nat := (xs.find? Prod.fst).map Prod.snd
/-- The first bad field of the header and the section table. -/
def headerBad (w : Nat → Nat) : Option Nat :=
  let n := w 2
  let total := w 3
  let tab := 64 + 16 * n
  let sec (i : Nat) : Nat × Nat × Nat × Nat := (w (16 + 4 * i), w (17 + 4 * i), w (18 + 4 * i), w (19 + 4 * i))
  let count (t : Nat) : Nat := ((List.range n).filter fun i => (sec i).1 == t).length
  firstBad ([(w 0 != 0x49474258, 0), (w 1 != 0x100, 4), (n == 0 || decide (16 < n), 8), (decide (total < tab), 12)] ++
    (List.range 12).map fun i => (w (4 + i) != 0, 16 + 4 * i)) |>.or <|
  firstBad ((List.range n).flatMap fun i =>
    let (ty, r, off, size) := sec i
    let o := 64 + 16 * i
    [(ty == 0 || decide (8 < ty), o), (r != 0, o + 4), (off % 64 != 0 || decide (off < tab) || decide (total < off + size), o + 8),
     (size % unitOf ty != 0, o + 12),
     ((List.range i).any fun j => let (_, _, p, q) := sec j; decide (p < off + size) && decide (off < p + q), o + 8),
     ((List.range i).any fun j => (sec j).1 == ty && ty != 2, o)]) |>.or <|
  firstBad [(count 1 == 0 || count 2 == 0 || count 4 == 0, 8)]
/-- The sections of a checked image. -/
def splitImage (bs : List Nat) : Image :=
  let ws := wordsN (bs.take (64 + 16 * 16))
  let w (i : Nat) : Nat := ws.getD i 0
  let part (t : Nat) : List Nat := (List.range (w 2)).flatMap fun i =>
    if w (16 + 4 * i) = t then (bs.drop (w (18 + 4 * i))).take (w (19 + 4 * i)) else []
  let g := wordsN (part 4)
  let n := min (Config.graphNodes g) (g.length / 4)
  { code := wordsN (part 1), tasks := (chunks 16 (wordsN (part 2))).map fun t => t.map w32, oper := wordsN (part 3),
    nodes := chunks 4 (g.take (4 * n)), edges := (chunks 2 (g.drop (4 * n))).map fun e => (e.getD 0 0, e.getD 1 0),
    patches := (chunks 2 (wordsN (part 5))).map fun e => (e.getD 0 0, e.getD 1 0), plans := chunks 4 (wordsN (part 6)),
    data := part 7, macros := (chunks 2 (wordsN (part 8))).map fun e => e.getD 0 0 + 2 ^ 32 * e.getD 1 0 }
/-- Where a section starts in the image. -/
def secOff (bs : List Nat) (t : Nat) : Nat :=
  let ws := wordsN (bs.take (64 + 16 * 16))
  ((List.range (ws.getD 2 0)).findSome? fun i => if ws.getD (16 + 4 * i) 0 = t then some (ws.getD (18 + 4 * i) 0) else none).getD 0
/-- Whether edges among n nodes form no cycle: nodes without an in-edge are taken away until none is left. -/
def acyclic (edges : List (Nat × Nat)) : Nat → List Nat → Bool
  | 0, left => left.isEmpty
  | f + 1, left =>
    let rest := left.filter fun i => edges.any fun e => e.2 == i && left.contains e.1
    if rest.length = left.length then left.isEmpty else acyclic edges f rest
/-- A control-store record that MSTORE would refuse (R57). -/
def macroBad (x : Nat) : Bool :=
  let o := x / 2 ^ 24 % 256
  reservedOp o || (l24Op o && bitsOf x 38 33 != 0) || macBanned o
/-- The first bad record of an image whose header is sound (step 1 of R312). -/
def recordsBad (c : Ctx) (bs : List Nat) (m : Image) : Option Nat :=
  let tOff := secOff bs 2
  let gOff := secOff bs 4
  let n := m.nodes.length
  let at_ (i : Nat) : List Word := m.tasks.getD i []
  ((List.range m.tasks.length).findSome? fun i =>
    (descBad c (at_ i)).map (· + (tOff + 64 * i))) |>.or <|
  (firstBad ((List.range n).flatMap fun i =>
    let x := m.nodes.getD i []
    let t := at_ (x.getD 0 0)
    let o := gOff + 16 * i
    [(decide (m.tasks.length ≤ x.getD 0 0), o), (dType t != 0 && x.getD 1 0 != 1, o + 4),
     (x.getD 2 0 != 0xFFFFFFFF && decide (m.data.length < x.getD 2 0 + 4 * x.getD 3 0), o + 8)])) |>.or <|
  (firstBad ((List.range m.edges.length).map fun i =>
    let e := m.edges.getD i (0, 0)
    (decide (n ≤ e.1) || decide (n ≤ e.2), gOff + 16 * n + 8 * i))) |>.or <|
  (if acyclic m.edges n (List.range n) then none else some (gOff + 16 * n)) |>.or <|
  (firstBad ((List.range m.patches.length).map fun i =>
    let p := m.patches.getD i (0, 0)
    (decide (m.code.length * 4 ≤ p.1) || p.1 % 4 != 0 || decide (4 < p.2), secOff bs 5 + 8 * i))) |>.or <|
  (firstBad ((List.range m.plans.length).map fun i =>
    let p := Config.planRead (m.plans.getD i [])
    (!([0, 1, 2, 4, 8, 16, 32, 64].contains p.2.2.2), secOff bs 6 + 16 * i))) |>.or
  (firstBad ((List.range m.macros.length).map fun i => (macroBad (m.macros.getD i 0), secOff bs 8 + 8 * i)))

/-! ### The steward's choices -/

/-- Choices left: (die * 2^41 + key page, page) is the frame of a key page, (die * 2^41 + 2^40, page) a page for a
table, (2^60, address) the code's address, (2^60 + 1, address) that of argument blocks and descriptors. -/
abbrev Choices := List (Nat × Nat)
def choose (fr : Choices) (k : Nat) : Option Nat := (fr.find? fun f => f.1 == k).map Prod.snd
/-- A page as the steward hands it out: every byte 0 (log 28). -/
def zeroPage (s : State) (gd page : Nat) : State :=
  let k := memKey gd (page * 65536)
  { s with mem := Tab.cut s.mem k (k + 65536), stamps := Tab.cut s.stamps (k / 64) (k / 64 + 1024),
           bad := Tab.cut s.bad (k / 64) (k / 64 + 1024), dead := Tab.del s.dead (pageKey gd page) }
def poke8 (s : State) (gd addr v : Nat) : State := { s with mem := setBytes s.mem (memKey gd addr) (leBytes v 8) }
abbrev Work := State × Choices
/-- A page of a die for a new table, and its page-space address. -/
def newTable (gd : Nat) (p : Work) : Option (Nat × Work) :=
  match choose p.2 (gd * 2 ^ 41 + 2 ^ 40) with
  | none => none
  | some pg => some (pg * 65536, zeroPage p.1 gd pg, p.2.erase (gd * 2 ^ 41 + 2 ^ 40, pg))

/-! ### Home map and frame map entries (R359, R360, R363) -/

/-- The table that the entry at an address of the home map names, made if there is none. -/
def hmFollow (pkg root gd addr : Nat) (p : Work) : Option ((Nat × Nat) × Work) :=
  let e := readEntry8 p.1 gd addr
  if e % 4 = 0 then
    (newTable root p).map fun t => ((root, t.1), poke8 t.2.1 gd addr (root % 64 * 2 ^ 58 + t.1 / 2 ^ 14 * 2 ^ 35 + 1), t.2.2)
  else (hmPointer e).map fun d => ((pkg * 64 + d.1, d.2), p)
/-- Write the leaf of one region. -/
def mapHome (root asid va leaf : Nat) (p : Work) : Option Work :=
  let pkg := pkgOf root
  match (p.1.desc? root asid).bind fun d => hmPointer d.hmroot.toNat with
  | none => none
  | some (d0, a0) =>
    match hmFollow pkg root (pkg * 64 + d0) (a0 + 8 * bitsOf va 55 43) p with
    | none => none
    | some ((g1, a1), p) =>
      match hmFollow pkg root g1 (a1 + 8 * bitsOf va 42 32) p with
      | none => none
      | some ((g2, a2), p) =>
        let a := a2 + 8 * bitsOf va 31 21
        let old := readEntry8 p.1 g2 a
        if old % 4 = 0 then some (poke8 p.1 g2 a leaf, p.2) else if old = leaf then some p else none
def fmFollow (gd addr : Nat) (p : Work) : Option (Nat × Work) :=
  let e := readEntry8 p.1 gd addr
  if !fV e then (newTable gd p).map fun t => (t.1, poke8 t.2.1 gd addr (2 ^ 43 + t.1), t.2.2)
  else if fSz e = 0 then some (fFrame e % 2 ^ 37, p) else none
def fmWalk (gd : Nat) : List Nat → Nat → Work → Option (Nat × Work)
  | [], a, p => some (a, p)
  | i :: is, a, p =>
    match fmFollow gd (a + 8 * i) p with
    | none => none
    | some (b, p) => fmWalk gd is b p
/-- The root of a die's frame map, made if there is none. -/
def fmRoot (gd asid : Nat) (p : Work) : Option (Nat × Work) :=
  match p.1.desc? gd asid with
  | none => none
  | some d =>
    if fV d.fmroot.toNat then some (fFrame d.fmroot.toNat % 2 ^ 37, p)
    else (newTable gd p).map fun t =>
      (t.1, { t.2.1 with descs := Tab.put t.2.1.descs (descKey gd asid) { d with fmroot := BitVec.ofNat 64 (2 ^ 43 + t.1) } }, t.2.2)
/-- Write the leaf of one 64 KiB key page, on the frame chosen for it. `rights` holds bits [47:44]. -/
def mapFrame (gd asid key rights : Nat) (p : Work) : Option Work :=
  match choose p.2 (gd * 2 ^ 41 + key / 65536), fmRoot gd asid p with
  | some page, some (a, p) =>
    (match fmWalk gd [bitsOf key 55 47, bitsOf key 46 38, bitsOf key 37 30, bitsOf key 29 21] a p with
     | none => none
     | some (a, p) =>
       let k := a + 8 * bitsOf key 20 16
       if fV (readEntry8 p.1 gd k) ∨ Config.pages ≤ page then none else
       let leaf := page + 2 ^ 43 + rights * 2 ^ 44 + 2 ^ 50 + p.1.curgen gd asid * 2 ^ 52
       some (poke8 (zeroPage p.1 gd page) gd k leaf, p.2))
  | _, _ => none
/-- A descriptor for an address space on a die, with the generation the others hold (R358). -/
def ensureDesc (s : State) (gd asid : Nat) : State :=
  match s.desc? gd asid, List.find? (fun d : Nat × Desc => d.1 % 2 ^ 16 == asid) s.descs with
  | none, some d => { s with descs := Tab.put s.descs (descKey gd asid) { d.2 with fmroot := 0 } }
  | _, _ => s
def eachM {α : Type} (f : α → Work → Option Work) : List α → Work → Option Work
  | [], p => some p
  | x :: xs, p => match f x p with
    | none => none
    | some p => eachM f xs p
/-- Map a range whose regions all have one home-map leaf. -/
def mapRange (root asid va n blocks leaf rights : Nat) (p : Work) : Option Work :=
  let regions := (List.range (blocks / 2 ^ 21)).map fun i => va - va % 2 ^ 21 + i * 2 ^ 21
  let step := if leafIl leaf = 0 then 65536 else 4096
  let keys := ((List.range (n / step)).map fun i => let h := homeOf leaf (va + i * step); (h.1, h.2 / 65536 * 65536)).eraseDups
  match eachM (fun a p => mapHome root asid a leaf p) regions p with
  | none => none
  | some p => eachM (fun (h : Nat × Nat) p => mapFrame h.1 asid h.2 rights (ensureDesc p.1 h.1 asid, p.2)) keys p
/-- Bytes into mapped memory, in whole lines. -/
def pokeRange (s : State) (gd asid kslot va : Nat) (bs : List Nat) : State :=
  (pieces va bs.length).foldl (fun s p => writeLine s gd asid kslot p.1 (2 ^ p.2 - 1) ((bs.drop (p.1 - va)).take p.2)) s

/-! ### Placement (R482) -/

def roundUp (x b : Nat) : Nat := (x + b - 1) / b * b
/-- A placed region: address, bytes, whole blocks, home-map leaf, whether its tier is fast. -/
structure Placed where
  va : Nat
  size : Nat
  blocks : Nat
  leaf : Nat
  fast : Bool
  deriving DecidableEq, Repr
def log2n : Nat → Nat
  | 2 => 1 | 4 => 2 | 8 => 3 | 16 => 4 | 32 => 5 | 64 => 6 | _ => 0
/-- Place one region at a pointer: none where its die or run does not exist in the partition. -/
def placeOne (dies : List Nat) (pkg ptr : Nat) (r : List Nat) : Option Placed :=
  let (bytes, fast, home, stripe) := Config.planRead r
  let striped := decide (2 ≤ stripe)
  let block := if striped then max (2 ^ 21) (stripe * 65536) else 2 ^ 21
  let va := roundUp ptr block
  let size := roundUp (max bytes 1) 65536
  let die := if striped then ((List.range (64 / stripe)).map (· * stripe)).find? fun d => (List.range stripe).all fun i => dies.contains (pkg * 64 + d + i)
    else if dies.contains (pkg * 64 + home) then some home else none
  die.map fun d => { va := va, size := size, blocks := roundUp size block, leaf := pkg * 2 ^ 54 + d * 2 ^ 48 + log2n (if striped then stripe else 0) * 2 ^ 45 + 2, fast := fast }
/-- Place the regions in record order: the placed ones and the pointer, or the first that cannot be placed. -/
def placeAll (dies : List Nat) (pkg : Nat) : List (List Nat) → Nat → Nat → Except Nat (List Placed × Nat)
  | [], ptr, _ => .ok ([], ptr)
  | r :: rs, ptr, i =>
    match placeOne dies pkg ptr r with
    | none => .error i
    | some x => match placeAll dies pkg rs (x.va + x.blocks) (i + 1) with
      | .error e => .error e
      | .ok (xs, q) => .ok (x :: xs, q)

/-! ### The load (R312, R313) -/

/-- Apply one patch value (step 4); none where it is out of range. Values are signed for a literal. -/
def patchWord (w field v : Nat) : Option Nat :=
  let x := sextI v 32
  if field = 0 then (if -(2 ^ 23 : Int) ≤ x ∧ x < 2 ^ 24 then some (w - w % 2 ^ 24 + v % 2 ^ 24) else none)
  else if field = 4 then some v
  else if v < 256 then
    let sh := if field = 1 then 16 else if field = 2 then 8 else 0
    some (w - bitsOf w (sh + 7) sh * 2 ^ sh + v * 2 ^ sh)
  else none
def patchAll (vals : List Nat) : List (Nat × Nat) → Nat → List Nat → Except Nat (List Nat)
  | [], _, code => .ok code
  | p :: ps, i, code =>
    match patchWord (code.getD (p.1 / 4) 0) p.2 (vals.getD i 0) with
    | none => .error i
    | some w => patchAll vals ps (i + 1) (code.set (p.1 / 4) w)
/-- The argument words of each node, in GRAPH order. -/
def nodeArgs (data : List Nat) : List (List Nat) → List Nat → List (List Nat)
  | [], _ => []
  | x :: xs, extra =>
    let n := x.getD 3 0
    if x.getD 2 0 = 0xFFFFFFFF then extra.take n :: nodeArgs data xs (extra.drop n)
    else wordsN ((data.drop (x.getD 2 0)).take (4 * n)) :: nodeArgs data xs extra
/-- Bytes of a node's argument block, in whole lines, and where node i's block starts among them. -/
def argBlock (x : List Nat) : Nat := roundUp (max 1 (4 * x.getD 3 0)) 64
def argAt (nodes : List (List Nat)) (i : Nat) : Nat := ((nodes.take i).map argBlock).sum
/-- A template as it is loaded: its entry at the code's address, its argument block, its range. -/
def loadedTask (t : List Word) (code : Nat) (args : Option Nat) (grid : Nat) : List Word :=
  let e := code + dEntry t
  let t := (t.set 2 (w32 e)).set 3 (w32 (e / 2 ^ 32))
  let t := match args with
    | some a => (t.set 6 (w32 a)).set 7 (w32 (a / 2 ^ 32))
    | none => t
  if dType t = 0 then (t.set 8 0).set 9 (w32 grid) else t
/-- Register the records of an OPER section on the root die (step 7); the steward writes the address of the loaded
template into TMPL, and the context's id into CTXID. -/
def registerAll (gd ctx tmpl : Nat) : Nat → List Nat → State → Option State
  | 0, ws, s => if ws.isEmpty then some s else none
  | f + 1, ws, s =>
    if ws.isEmpty then some s else
    let k := Config.operKind ws
    let n := if k ≤ 1 then 8 else 4 + 4 * (ws.getD 0 0 / 65536)
    let r := (ws.take n).map w32
    let ta := tmpl + 64 * ws.getD 2 0
    let x := if k = 0 then registerOper s gd (((r.set 1 (w32 ctx)).set 2 (w32 ta)).set 3 (w32 (ta / 2 ^ 32)))
      else if k = 1 then registerTray s gd r else registerBelt s gd (r.set 1 (w32 ctx))
    if x.1 = 0 then registerAll gd ctx tmpl f (ws.drop n) x.2 else none
/-- One Proof-table entry for each node (step 8). -/
def takeNodes (gd : Nat) : Nat → State → Option (List Nat × State)
  | 0, s => some ([], s)
  | n + 1, s =>
    match freeEntryOf s gd with
    | none => none
    | some e => (takeNodes gd n (s.modEntry e fun x => { x with reserving := true })).map fun r => (e :: r.1, r.2)
def fillNodes (s : State) (m : Image) (es : List Nat) (ctx job code args : Nat) : State :=
  (List.range es.length).foldl (fun s i =>
    let x := m.nodes.getD i []
    let t := loadedTask (m.tasks.getD (x.getD 0 0) []) code (some (args + argAt m.nodes i)) (x.getD 1 0)
    let outs := (m.edges.filter fun d => d.1 == i).map fun d => w32 (taskIdOf (es.getD d.2 0))
    s.setEntry (es.getD i 0) { words := t, ctx := ctx, st := .waiting, dep := (m.edges.filter fun d => d.2 == i).length,
                               deps := outs, job := some job, root := dType t == 0 }) s
/-- A load: a status with its detail and the placement pointer to keep, or the loaded state; none where the steward's
choices do not serve it. -/
inductive Loaded where
  | fail (status detail place : Nat)
  | stall
  | ok (s : State)
  deriving DecidableEq, Repr
def loadImage (s : State) (ctx job : Nat) (bs : List Nat) (vals : List Nat) (fr : Choices) : Loaded :=
  let c := s.ctxOf ctx
  let w (i : Nat) : Nat := (wordsN (bs.take 320)).getD i 0
  match headerBad w with
  | some o => .fail 1 o c.place
  | none =>
    let m := splitImage bs
    match recordsBad c bs m with
    | some o => .fail 1 o c.place
    | none =>
      let dies := ctxDies s ctx
      let root := ctxRoot s ctx
      match placeAll dies (pkgOf root) m.plans c.place 0 with
      | .error i => .fail 3 i c.place
      | .ok (ps, ptr) =>
        let s0 := dies.foldl (fun s d => ensureDesc s d c.asid) s
        let short := (List.range ps.length).find? fun i =>
          ((ps.take (i + 1)).foldl (fun (p : Option Work) x => p.bind (mapRange root c.asid x.va x.size x.blocks x.leaf (3 + 8 * b2n x.fast))) (some (s0, fr))).isNone
        match short with
        | some i => .fail 3 i c.place
        | none =>
          let placed := ps.foldl (fun (p : Option Work) x => p.bind (mapRange root c.asid x.va x.size x.blocks x.leaf (3 + 8 * b2n x.fast))) (some (s0, fr))
          let narg := ((m.nodes.filter fun x => x.getD 2 0 == 0xFFFFFFFF).map fun x => x.getD 3 0).sum
          if vals.length ≠ m.patches.length + narg then .fail 2 (min vals.length (m.patches.length + narg)) ptr else
          match patchAll vals m.patches 0 m.code with
          | .error i => .fail 2 i ptr
          | .ok code =>
            let leaf := pkgOf root * 2 ^ 54 + root % 64 * 2 ^ 48 + 2
            match placed, choose fr (2 ^ 60), choose fr (2 ^ 60 + 1) with
            | some p, some ca, some aa =>
              let cn := roundUp (4 * code.length) 65536
              let na := argAt m.nodes m.nodes.length
              let an := roundUp (na + 64 * m.tasks.length) 65536
              let span (a n : Nat) : Nat := roundUp (a % 2 ^ 21 + n) (2 ^ 21)
              if ca % 65536 ≠ 0 ∨ aa % 65536 ≠ 0 then .stall else
              (match (mapRange root c.asid ca cn (span ca cn) leaf 5 p).bind (mapRange root c.asid aa an (span aa an) leaf 1) with
               | none => .stall
               | some (s1, _) =>
                 let put (s : State) (va : Nat) (bs : List Nat) : State := pokeRange s root c.asid c.kslot va bs
                 let s1 := put s1 ca (code.flatMap fun w => leBytes w 4)
                 let s1 := (ps.foldl (fun (q : State × List Nat) x => (put q.1 x.va (q.2.take x.size), q.2.drop x.size)) (s1, m.data)).1
                 let argw := nodeArgs m.data m.nodes (vals.drop m.patches.length)
                 let s1 := (List.range argw.length).foldl (fun s i => put s (aa + argAt m.nodes i) ((argw.getD i []).flatMap fun w => leBytes w 4)) s1
                 let ta := aa + na
                 let s1 := (List.range m.tasks.length).foldl (fun s i =>
                   put s (ta + 64 * i) ((loadedTask (m.tasks.getD i []) ca none 0).flatMap fun w => leBytes w.toNat 4)) s1
                 let store := m.macros.foldl (fun t x => dies.foldl (fun t d => (List.range 16).foldl (fun t k =>
                   Tab.set t 0#39 ((d * 17 + k) * 2048 + (Config.macroPlace x).1 % 64 * 32 + (Config.macroPlace x).2 % 32) (BitVec.ofNat 39 x)) t) t) s1.store
                 let s1 := { s1 with store := store,
                                     ctxs := Tab.put s1.ctxs ctx { c with place := ptr, codes := c.codes ++ [(ca, 4 * code.length)] } }
                 match registerAll root ctx ta (m.oper.length + 1) m.oper s1 with
                 | none => .fail ((Config.freeWord s.tick).toNat % 256) (Config.freeWord (s.tick + 1)).toNat ptr
                 | some s2 =>
                   match takeNodes root m.nodes.length s2 with
                   | none => .fail 4 m.nodes.length ptr
                   | some (es, s3) =>
                     let s3 := fillNodes s3 m es ctx job ca aa
                     let s3 := { s3 with jobs := s3.jobs.map fun j =>
                       if j.1 = job then (j.1, { j.2 with pending := es, doneAt := if es.isEmpty then some s3.cycle else none }) else j }
                     .ok (es.foldl (fun s e => tryReady s e) s3))
            | _, _, _ => .stall

end Sys2Proof.Machine
end

