-- ==== Sys2Proof/Machine/Submission.lean ====
section
/-! DEFINITION. The rows of submission: entries that the steward takes, and their completions (13: R308 to R313). A row
whose condition does not hold changes nothing. -/
namespace Sys2Proof.Machine

/-- A new job for an entry that the steward takes. -/
def openJob (s : State) (ctx : Nat) (ws : List Word) : Nat × State :=
  let (j, s) := (takeSub s ctx).fresh
  (j, { s with jobs := Tab.put s.jobs j { ctx := ctx, words := ws } })
/-- A job is done with a status (R310). -/
def closeJob (s : State) (j status detail : Nat) : State :=
  match Tab.find? s.jobs j with
  | none => s
  | some x => { s with jobs := Tab.put s.jobs j { x with status := status, detail := detail, doneAt := some s.cycle } }
/-- Read for the steward with the context's rights (R309): the bytes, or the first address not read. -/
inductive SubRead where
  | got (s : State) (bs : List Nat)
  | bad (va : Nat)
  | absent (gd page : Nat)
  deriving DecidableEq, Repr
def stewardRead (s : State) (ctx va n : Nat) : SubRead :=
  let gd := ctxRoot s ctx
  match readRange s gd (gd * 17 + 16) (s.ctxOf ctx).asid va n with
  | .ok (s, bs) => .got s bs
  | .error (.miss _ _ _ a) => .bad a
  | .error (.cause _ a _) => .bad a
  | .error (.absent g p) => .absent g p
  | .error (.held _ _) => match readThrough gd (gd * 17 + 16) (s.ctxOf ctx).asid (pieces va n) s with
    | some bs => .got s bs
    | none => .bad va
/-- The image of a LAUNCH entry: its header, then all of it. -/
def readImage (s : State) (ctx va : Nat) : SubRead :=
  match stewardRead s ctx va 64 with
  | .got s1 hd =>
    let size := leValue ((hd.drop 12).take 4)
    if (wordsN hd).getD 0 0 ≠ 0x49474258 ∨ size < 64 then .got s1 hd else stewardRead s1 ctx va size
  | r => r
/-- SUBMISSION_LAUNCH (R312). -/
def execSubmissionLaunch (ctx : Nat) (frames : List (Nat × Nat)) (s : State) : Out :=
  match nextSub s ctx with
  | none => .next s
  | some ws =>
    if (subBad ws).isSome || bitsOf (wordAt ws 0) 31 24 != 1 then .next s else
    let (j, s1) := openJob s ctx ws
    match readImage s1 ctx (pairAt ws 2) with
    | .absent gd page => .fault (.absentPage gd page)
    | .bad va => .next (closeJob s1 j 1 (va - pairAt ws 2))
    | .got s2 bs =>
      match stewardRead s2 ctx (pairAt ws 4) (4 * wordAt ws 6) with
      | .absent gd page => .fault (.absentPage gd page)
      | .bad va => .next (closeJob s2 j 1 (va - pairAt ws 4))
      | .got s3 vs =>
        match loadImage s3 ctx j bs (wordsN vs) frames with
        | .stall => .next s
        | .ok s4 => .next s4
        | .fail st d ptr => .next (closeJob { s3 with ctxs := Tab.put s3.ctxs ctx { s3.ctxOf ctx with place := ptr } } j st d)
/-- The request task of a context: its descriptor with the request's priority, or the first bad byte (R310). -/
def requestTask (s : State) (ctx : Nat) : Except (Option (Nat × Nat) × Nat) (State × List Word) :=
  let c := s.ctxOf ctx
  if c.reqtask = 0 then .error (none, 0) else
  match stewardRead s ctx c.reqtask 64 with
  | .absent gd page => .error (some (gd, page), 0)
  | .bad _ => .error (none, 0)
  | .got s bs =>
    let ws := wordsOfBytes bs 16
    let p := min 3 c.maxPrio
    let ws' := ws.set 0 (w32 (wordAt ws 0 - dPrio ws * 2 ^ 27 + p * 2 ^ 27))
    match descBad c ws with
    | some o => .error (none, o)
    | none => if dType ws ≠ 5 then .error (none, 0) else .ok (s, ws')
/-- SUBMISSION_REQUEST (R310). -/
def execSubmissionRequest (ctx : Nat) (s : State) : Out :=
  match nextSub s ctx with
  | none => .next s
  | some ws =>
    if (subBad ws).isSome || bitsOf (wordAt ws 0) 31 24 != 2 then .next s else
    let (j, s1) := openJob s ctx ws
    match requestTask s1 ctx with
    | .error (some (gd, page), _) => .fault (.absentPage gd page)
    | .error (none, o) => .next (closeJob s1 j 8 o)
    | .ok (s2, t) =>
      match freeEntryOf s2 (ctxRoot s ctx) with
      | none => .next (closeJob s2 j 4 1)
      | some e =>
        let x : Entry := { words := t, ctx := ctx, st := .waiting, job := some j, reqAddr := some (pairAt ws 2) }
        let s3 := s2.setEntry e x
        let s3 := match Tab.find? s3.jobs j with
          | some y => { s3 with jobs := Tab.put s3.jobs j { y with pending := [e] } }
          | none => s3
        .next (tryReady s3 e)
/-- SUBMISSION_RESERVED (R310): status 0x07 with the first word at fault. -/
def execSubmissionReserved (ctx : Nat) (s : State) : Out :=
  match nextSub s ctx with
  | none => .next s
  | some ws =>
    match subBad ws with
    | none => .next s
    | some i => let (j, s1) := openJob s ctx ws; .next (closeJob s1 j 7 i)
/-- SUBMISSION_COMPLETE (R310): the record, then CPROD, then the signal. -/
def execSubmissionComplete (ctx job : Nat) (s : State) : Out :=
  match Tab.find? s.jobs job with
  | none => .next s
  | some x =>
    if x.ctx ≠ ctx ∨ x.doneAt.isNone ∨ !complRoom s ctx then .next s else
    let n := subWord s ctx 8
    let rec4 := [x.status * 2 ^ 16 + bitsOf (wordAt x.words 0) 15 0, x.detail, s.cycle, 0]
    let s := { s with jobs := Tab.del s.jobs job }
    let s := subWrite s ctx (0x8040 + 16 * (n % 512)) (rec4.flatMap fun w => leBytes w 4)
    let s := subWrite s ctx 8 (leBytes (n + 1) 4)
    .next (if bitOf (wordAt x.words 7) 8 then doorbellAdd s ctx (wordAt x.words 7 % 256) 1 else s)

end Sys2Proof.Machine
end

