-- ==== Sys2Proof/Machine/Recovery.lean ====
section
/-! DEFINITION. Errors, their reports and containment, self-tests and retirements, and the loss of a die or a package
(01: R30; 11: R269, R276; 18: R425 to R438). A row whose condition does not hold changes nothing. -/
namespace Sys2Proof.Machine

/-! ### Reports (R429) -/

def unitKey (unit idx : Nat) : Nat := unit * 65536 + idx % 65536
/-- A report of a detection or a classification; one of CLASS 1 may stop a scan (R452). -/
def errReport (s : State) (gd unit cls idx loc ctx task site : Nat) : State :=
  let n := (s.die gd).reportSeq
  let s := s.modDie gd fun d => { d with reportSeq := n + 1 }
  let s := s.report gd [w32 (unit * 2 ^ 24 + cls * 2 ^ 16 + n % 65536), w32 (gd * 65536 + idx % 65536), w32 loc, w32 (loc / 2 ^ 32),
    w32 ctx, w32 task, w32 s.cycle, w32 site]
  if cls = 1 then scanStop s gd 2 else s
/-- A detection: its report, unless the same unit was reported within 65,536 cycles. -/
def detect (s : State) (gd unit cls idx loc ctx task site : Nat) : State :=
  match Tab.find? (s.die gd).seen (unitKey unit idx) with
  | some t => if s.cycle < t + 65536 then s else note s
  | none => note s
where
  note (s : State) : State :=
    errReport (s.modDie gd fun d => { d with seen := Tab.put d.seen (unitKey unit idx) s.cycle }) gd unit cls idx loc ctx task site

/-! ### Links and stations (R22, R24, R269, R275) -/

/-- The die at the other end of a link, within the package. -/
def neighbour (d port : Nat) : Option Nat :=
  if port = 0 ∧ 8 ≤ d then some (d - 8) else if port = 1 ∧ d % 8 < 7 then some (d + 1)
  else if port = 2 ∧ d < 56 then some (d + 8) else if port = 3 ∧ 0 < d % 8 then some (d - 1) else none
def opposite (port : Nat) : Nat := (port + 2) % 4
def addOnce (x : Nat) (xs : List Nat) : List Nat := if xs.contains x then xs else xs ++ [x]
/-- Take a link down, or bring it up, at both its ends. -/
def setLink (s : State) (gd port : Nat) (down : Bool) : State :=
  let f (q : Nat) (d : Die) : Die := { d with linksDown := if down then addOnce q d.linksDown else d.linksDown.filter (· != q) }
  let s := s.modDie gd (f port)
  match neighbour (dieOf gd) port with
  | some n => s.modDie (pkgOf gd * 64 + n) (f (opposite port))
  | none => s
/-- The station of a die behind its port 4 or 5. -/
def stationAt (gd port : Nat) : Option Nat :=
  ((List.range 16).find? fun i => stationDies.getD i 64 == dieOf gd).map fun i => 2 * i + port % 2
def setStation (s : State) (gd port : Nat) (down : Bool) : State :=
  match stationAt gd port with
  | some n => s.modPkg (pkgOf gd) fun p => { p with stationsDown := if down then addOnce n p.stationsDown else p.stationsDown.filter (· != n) }
  | none => s

/-! ### Losing a die or a package (R276, R437, R438) -/

/-- Release an entry's dependants as faulted, and settle its submission (R316, R437). -/
def loseEntry (s : State) (e : Nat) : State :=
  let s := markFaulted (killTask s e cKILLED 0) e
  let x := s.entry e
  let s := (x.deps.filter fun t => entryOf t.toNat / 16384 != e / 16384).foldl (fun s t => releaseDep s (e / 16384) e t true) s
  let s := if x.st = .faulted ∧ dType x.words = 0 ∧ !x.root ∧ x.parent.toNat ≠ 0xFFFFFFFF then childDone s (entryOf x.parent.toNat) true else s
  jobDone s e x.job
/-- A record lost with its die is reported to the steward of its home die. -/
def loseRecord (s : State) (k : Nat) (r : Rec) : State :=
  s.report (wordAt r.words 12 % 65536) (causeReport s cPEER_LOST noTask k 0)
/-- A die is lost (R276, R437). -/
def loseDie (s : State) (gd : Nat) : State :=
  let p := pkgOf gd
  if (s.pkg p).lostDies.contains gd then s else
  let s := (s.modPkg p fun x => { x with lostDies := x.lostDies ++ [gd] }).modDie gd fun d => { d with up := false }
  let s := breakBars s fun id => gdOf (id % 2 ^ 32) == gd
  let s := (((s.groups.filter fun g => gdOf g.1 == gd).map fun g => g.2.task).eraseDups).foldl (fun s e => killTask s e cKILLED 0) s
  let s := ((s.entries.filter fun e => e.1 / 16384 == gd && e.2.st != .free).map Prod.fst).foldl loseEntry s
  let s := (s.recs.filter fun r => r.1 / 65536 == gd).foldl (fun s r => loseRecord s r.1 r.2) s
  { s with entries := Tab.cut s.entries (gd * 16384) ((gd + 1) * 16384), recs := Tab.cut s.recs (gd * 65536) ((gd + 1) * 65536),
           cmds := s.cmds.filter fun c => c.2.gd != gd || c.2.op.isColl }
/-- Whether a context has a rank of some communicator on a package. -/
def rankOnPkg (s : State) (p c : Nat) : Bool :=
  (s.ctxOf c).commtab != 0 && (List.range 4096).any fun m => match commRanks s (ctxRoot s c) c m with
    | some rs => rs.any fun r => pkgOf r.1 == p
    | none => false
/-- Remove a package from the guard table that a die names. -/
def dropGuards (s : State) (gd p : Nat) : State :=
  let d := s.die gd
  let a := d.gtblLo.toNat + 2 ^ 32 * d.gtblHi.toNat
  let h := pkgOf gd * 64 + bitsOf a 63 58
  if a = 0 then s else
  (List.range 256).foldl (fun s i =>
    let w := readWord s h (a % 2 ^ 37 + 16 * i)
    if bitOf w 31 && bitsOf w 9 0 == p then { s with mem := setBytes s.mem (memKey h (a % 2 ^ 37 + 16 * i)) (leBytes (w % 2 ^ 31) 4) } else s) s
/-- A package declares another lost: requests to it are settled from now on, and its steward kills every context that
has a partition or a rank there (R276, R438). -/
def losePackage (s : State) (seer p : Nat) : State :=
  if seer = p ∨ (s.pkg seer).lostPkgs.contains p then s else
  let s := s.modPkg seer fun x => { x with lostPkgs := x.lostPkgs ++ [p] }
  let cs := ((s.ctxs.filter fun c => !c.2.words.isEmpty && !c.2.dead && (ctxOnPkg s p c.1 || rankOnPkg s p c.1)).map Prod.fst)
  let s := breakBars s fun id => pkgOf (gdOf (id % 2 ^ 32)) == p
  let s := cs.foldl killContext s
  (List.range 64).foldl (fun s d => dropGuards s (seer * 64 + d) p) s
/-- DIE_SILENCE_LOSS (R276). -/
def execDieSilenceLoss (gd : Nat) (s : State) : Out := .next (loseDie s gd)
/-- REGULATION_FAIL (R30). -/
def execRegulationFail (gd : Nat) (s : State) : Out := .next (loseDie (detect s gd 0x11 1 0 0 0 noTask 0) gd)
/-- UALINK_PORT_DOWN (R276). -/
def execUalinkPortDown (seer pkg : Nat) (s : State) : Out := .next (losePackage s seer pkg)
/-- A request of a package to another that has been unanswered for 1 ms since its first send. -/
def unanswered (s : State) (seer p : Nat) : Bool :=
  (s.accs.any fun e => e.2.stage == .going && e.2.sent && pkgOf (gdOf e.2.g) == seer && pkgOf e.2.home == p && decide (e.2.sentAt + 1300000 ≤ s.cycle)) ||
  (s.cmds.any fun e =>
    let c := e.2
    if c.op.isColl then
      let ms := members s (commKey c)
      pkgOf c.gd == seer && collLive s ms (ranksOf s (commKey c) ms) && (ms.any fun m => pkgOf m.2.gd == p) &&
        ms.all fun m => decide (m.2.startedAt + 1300000 ≤ s.cycle)
    else
    let far (va : Nat) : Bool := match walkHome s c.gd (s.ctxOf c.ctx).asid va with
      | .ok leaf => pkgOf (homeOf leaf va).1 == p
      | .miss _ => false
    c.started && pkgOf c.gd == seer && decide (c.startedAt + 1300000 ≤ s.cycle) &&
      ((c.op == .put && far c.d) || (c.op == .get && far c.a) || (c.op == .tokSend && pkgOf c.d == p) ||
       (c.op == .ratom && c.lanes.any fun v => v.status.isNone && far v.x)))
/-- PEER_LOSS_TIMEOUT (R276). -/
def execPeerLossTimeout (seer pkg : Nat) (s : State) : Out := if unanswered s seer pkg then .next (losePackage s seer pkg) else .next s
/-- LOSS_NOTICE (R277): some survivor has declared the package lost. -/
def noticed (s : State) (seer p : Nat) : Bool := s.pkgs.any fun q => q.1 != seer && q.2.lostPkgs.contains p
def execLossNotice (seer pkg : Nat) (s : State) : Out := if noticed s seer pkg then .next (losePackage s seer pkg) else .next s

/-! ### Self-tests (R430 to R433) -/

/-- Start the test of a unit; an error in a unit under test joins it. Lookaside caches and regulation are not tested. -/
def startTest (s : State) (gd unit idx loc : Nat) : State :=
  if unit = 0x0B ∨ unit = 0x11 then s
  else if s.tests.any fun t => t.1 / 2 ^ 32 == gd && t.2.unit == unit && t.2.index == idx then s
  else
    let (n, s) := s.fresh
    let s := { s with tests := Tab.put s.tests (gd * 2 ^ 32 + n) { unit := unit, index := idx, loc := loc, startedAt := s.cycle } }
    if unit = 0x0F then setLink s gd idx true else if unit = 0x10 then setStation s gd idx true else s
/-- The sub-array of 4 KiB in which a place of L2 or L1 lies: one way of 64 sets, or eight words of each of 64 sets; with the
slice or core (log 22). -/
def subArray (unit idx loc : Nat) : Nat :=
  if unit = 3 then idx % 16 + 16 * (loc / 16 % 4096 / 64) + 1024 * (loc % 16) else idx % 32 + 32 * (loc / 16 % 1024 / 64) + 512 * (loc % 16 % 5)
/-- Which spare serves a place of a unit: one for each 32 sub-arrays, four columns of operand memory being as many, four for a
quad's columns; else the unit's own (R431; log 22). -/
def spareKey (unit idx loc : Nat) : Nat :=
  if unit = 3 then unitKey unit (idx % 16) + 2 ^ 24 * (loc / 16 % 4096 / 128)
  else if unit = 4 then unitKey unit idx + 2 ^ 24 * ((loc / 16 % 1024 / 64 * 5 + loc % 16 % 5) / 32)
  else if unit = 5 ∨ unit = 9 then unitKey unit idx + 2 ^ 24 * (loc / 2048)
  else if unit = 7 then unitKey unit (idx / 4 * 4)
  else if unit = 0x0E then unitKey unit (idx / 256 * 256)
  else unitKey unit idx
/-- Spares of a unit (R431); the lane-repair lanes of a link module have no stated number, so whether one is left is
open (log 12). -/
def spareLeft (s : State) (gd unit idx loc : Nat) : Bool :=
  let used := Tab.get (s.die gd).spares (spareKey unit idx loc) 0
  if unit = 1 ∨ unit = 2 then decide (used < 16)
  else if unit = 0x0E ∨ unit = 6 then decide (used < 4)
  else if unit = 0x0D ∨ unit = 0x10 then false
  else if unit = 0x0F then Config.freeBool s.tick
  else decide (used < 1)
/-- A frame as the number under which its row is retired. -/
def Frame.num : Frame → Nat
  | .fast g => g
  | .capacity n => n
/-- Tasks on a disabled core or a retired array are killed under R434. -/
def killOn (s : State) (p : Nat → Bool) : State :=
  (((s.groups.filter fun g => p g.1).map fun g => g.2.task).eraseDups).foldl (fun s e => killTask s e cDATA_LOST 0) s
/-- A retirement (R431, R433): the unit leaves placement, its tasks are killed, the chain is rewritten in two steps. `loc` names
the line whose row of DRAM is retired. -/
def retire (s : State) (gd unit idx loc : Nat) : State :=
  let row := (unit, if unit = 1 ∨ unit = 2 then (pageFrame s gd (loc / 1024)).num else if unit = 3 ∨ unit = 4 then subArray unit idx loc else idx)
  let s := s.modDie gd fun d => { d with retired := if d.retired.contains row then d.retired else d.retired ++ [row] }
  let s := if unit = 5 ∨ unit = 6 ∨ unit = 0x0C ∨ unit = 0x0D then killOn s fun g => gdOf g == gd && coreOfCk (ckOf g) == idx
    else if unit = 7 ∨ unit = 8 ∨ unit = 0x0E then
      (((s.arrays.filter fun a => a.1 == gd * 5 + idx / 256).filterMap fun a => a.2.grant)).foldl (fun s e => killTask s e cDATA_LOST 0) s
    else s
  let s := s.modPkg (pkgOf gd) fun p => { p with chaingen := p.chaingen + 2 }
  let dead (q : Nat) : Bool := (neighbour (dieOf gd) q).isNone || (s.die gd).linksDown.contains q
  if unit = 0x0F ∧ (List.range 4).all dead then loseDie s gd else s
/-- Whether a unit has had two transients within the last 2^30 cycles. -/
def thirdTransient (s : State) (gd unit idx : Nat) : Bool :=
  decide (2 ≤ ((s.die gd).transients.filter fun t => t.1 == unitKey unit idx && decide (s.cycle < t.2 + 2 ^ 30)).length)
/-- Bring a tested link or station back. -/
def testUp (s : State) (gd unit idx : Nat) : State :=
  if unit = 0x0F then setLink s gd idx false else if unit = 0x10 then setStation s gd idx false else s
/-- The outcome of a test: its report, and what becomes of the unit (R432). -/
def classify (s : State) (gd : Nat) (t : Test) (lasting : Bool) : State :=
  let note (s : State) (cls : Nat) : State := errReport s gd t.unit cls t.index t.loc 0 noTask 0
  if !lasting then note (testUp (s.modDie gd fun d => { d with transients := d.transients ++ [(unitKey t.unit t.index, s.cycle)] }) gd t.unit t.index) 2
  else if spareLeft s gd t.unit t.index t.loc then
    note (testUp (s.modDie gd fun d =>
      { d with spares := Tab.put d.spares (spareKey t.unit t.index t.loc) (Tab.get d.spares (spareKey t.unit t.index t.loc) 0 + 1) }) gd t.unit t.index) 3
  else retire (note s 4) gd t.unit t.index t.loc
/-- SELF_TEST_COMPLETE (R432): `reproduced` says whether the test reproduced the error. -/
def execSelfTestComplete (gd test : Nat) (reproduced : Bool) (s : State) : Out :=
  let k := gd * 2 ^ 32 + test
  match Tab.find? s.tests k with
  | none => .next s
  | some t => .next (classify { s with tests := Tab.del s.tests k } gd t (reproduced || thirdTransient s gd t.unit t.index))

/-! ### Containment (R434) -/

/-- The line of DRAM that LOC names: page number and line (log 29). -/
def locLine (gd loc : Nat) : Nat := memKey gd (loc / 1024 * 65536 + loc % 1024 * 64) / 64
/-- The core of a team that LOC and INDEX name. -/
def teamsOn (s : State) (gd core : Nat) : List (Nat × Team) :=
  s.teams.filter fun t => t.2.gd == gd &&
    (if t.2.quad = 4 then core == 16 else decide (4 * t.2.quad + t.2.base ≤ core) && decide (core < 4 * t.2.quad + t.2.base + t.2.cores))
/-- The task that an uncorrectable datum of a unit aborts at once, if any. -/
def victimTask (s : State) (gd unit idx loc : Nat) : Option Nat :=
  let onCore (p : Nat → Bool) : Option Nat :=
    (List.find? (fun g : Nat × Group => gdOf g.1 == gd && coreOfCk (ckOf g.1) == idx && p g.1) s.groups).map fun g => g.2.task
  if unit = 5 then (let ts := teamsOn s gd idx; (ts[loc % max ts.length 1]?).map fun t => t.2.task)
  else if unit = 6 then onCore fun g => slotOf g == loc % 32
  else if unit = 7 then (s.handles.find? fun h => h.qk == gd * 5 + idx / 256 && decide (h.first ≤ idx % 256) && decide (idx % 256 < h.first + h.count)).map fun h => h.task
  else if unit = 0x0C then onCore fun g => laneNums.any fun l => ((s.lane g l).mac.map fun m => m.index) == some (loc / 32)
  else if unit = 0x0D then onCore fun g => g == s.cur.g
  else none
/-- The Tray buffer that holds a column of operand memory. -/
def bufAt (s : State) (qk col : Nat) : Option (Nat × Nat) :=
  s.trays.findSome? fun t =>
    if t.2.quad ≠ qk then none else
      ((List.range t.2.bufs.length).find? fun b => let x := t.2.bufs.getD b {}; decide (x.first ≤ col) && decide (col < x.first + t.2.cols + t.2.rescol)).map
        fun b => (t.1, b)
/-- An uncorrectable datum in a Tray's buffer: its TILE task is aborted, its records pass to the steward. -/
def loseBuffer (s : State) (k b : Nat) : State :=
  let x := (s.tray k).bufs.getD b {}
  let e := x.entry
  let s := setRecs s (k / 64) (x.rows.filter fun n => let r := s.recAt (recKey (k / 64) n); r.st == .waiting || r.st == .boarded || r.st == .heldEntry e) .steward
  if x.fired then markFaulted (killTask s e cDATA_LOST 0) e
  else setBuf s k b { x with rows := [], building := false, due := false }
/-- An uncorrectable block of L1: a clean one is uncorrectable for whoever reads it next, until it goes; one with dirty bytes
is so at its home, as its stored bits will be when they are written back (R427, R434). -/
def loseBlock (s : State) (ck k way : Nat) (b : L1Blk) : State :=
  let bs := Tab.get s.l1sets k []
  if (dirtyIn s ck b.asid (64 * b.line) (8 * b.first) (8 * (b.first + b.words))).isEmpty then
    { s with l1sets := Tab.put s.l1sets k (bs.set way { b with bad := true }) }
  else
    let s1 := l1Drop s fun x _ => inLine ck b.asid (64 * b.line) x && decide (8 * b.first ≤ l1Va x % 64) && decide (l1Va x % 64 < 8 * (b.first + b.words))
    match locate s (gdOfCk ck) b.asid (64 * b.line) with
    | .at l => if l.host || l.obs then s1 else { s1 with bad := Tab.put s1.bad (l.mkey / 64) true }
    | .miss _ _ _ => s1
/-- What an uncorrectable datum does to the unit that holds it, beside the task that it aborts. -/
def containUnit (s : State) (gd unit idx loc : Nat) : State :=
  if unit = 1 ∨ unit = 2 then
    (if Tab.get s.stamps (locLine gd loc) 0 % 256 = 1 then loseDie s gd else { s with bad := Tab.put s.bad (locLine gd loc) true })
  else if unit = 3 then
    (let k := (gd * 16 + idx % 16) * 4096 + loc / 16 % 4096
     match (l2At s k)[loc % 16]? with
     | none => s
     | some x =>
       if !x.replica && Tab.get s.stamps x.mline 0 % 256 == 1 then loseDie s gd
       else setL2 s k ((l2At s k).set (loc % 16) { x with bad := true }))
  else if unit = 4 then
    (let k := (gd * 17 + idx) * 1024 + loc / 16 % 1024
     let bs := Tab.get s.l1sets k []
     match bs[loc % 16]? with
     | none => s
     | some b => loseBlock s (gd * 17 + idx) k (loc % 16) b)
  else if unit = 7 then
    (match bufAt s (gd * 5 + idx / 256) (idx % 256) with
     | some (k, b) => loseBuffer s k b
     | none => s)
  else if unit = 8 then setBank s (bankKey (gd * 5 + idx / 256) (loc % 4 / 2) (loc % 2)) {}
  else if unit = 9 then
    (let k := recKey gd (loc % 65536)
     if (s.recAt k).st = .free then s else
     ({ s with recs := Tab.put s.recs k { s.recAt k with st := .steward } }).report gd (causeReport s cTOKEN_FAULT noTask loc 0))
  else if unit = 0x0A then (let e := gd * 16384 + loc % 16384; markFaulted (killTask s e cDATA_LOST 0) e)
  else if unit = 0x0B then { s with hlb := s.hlb.filter fun e => e.1 / 2 ^ 51 != gd, ctc := s.ctc.filter fun e => e.1 / 2 ^ 56 != gd }
  else if unit = 0x12 then
    { s with bad := (List.range 5120).foldl (fun t i => Tab.put t (memKey gd ((5 * loc + i / 1024) * 65536 + i % 1024 * 64) / 64) true) s.bad }
  else if unit = 0x11 then loseDie s gd
  else s
/-- Where the datum that aborts a task lies, as a report names it: die, unit, index, place. -/
def abortPlace (s : State) (x : Nat × Nat × Nat) : Nat × Nat × Nat × Nat :=
  match locate s (x.1 / 16384) (s.ctxOf (s.entry x.1).ctx).asid x.2.1 with
  | .at l => (l.gd, tierUnit s l.gd l.page, dramIndex s l.gd l.page l.off, l.page * 1024 + l.off / 64)
  | .miss _ _ _ => (x.1 / 16384, 3, sliceOf x.2.1, 65536)
/-- ERROR_DETECTED (R425, R429, R430, R434). The tasks that met the datum are aborted; the report names the first. A lookaside
entry in error is dropped and classed transient. -/
def execErrorDetected (gd unit idx loc : Nat) (uncorrectable : Bool) (s : State) : Out :=
  let met := if uncorrectable then s.aborts.filter fun x => abortPlace s x == (gd, unit, idx, loc) else []
  let vs : List (Nat × Nat) := (if uncorrectable then (victimTask s gd unit idx loc).toList.map fun e => (e, 0) else []) ++ met.map fun x => (x.1, x.2.2)
  let v := vs.head?
  let ctx := (v.map fun e => (s.entry e.1).ctx).getD 0
  let s := detect { s with aborts := s.aborts.filter fun x => !met.contains x } gd unit (b2n uncorrectable) idx loc ctx
    ((v.map fun e => taskIdOf e.1).getD noTask) ((v.map fun e => e.2).getD 0)
  let s := vs.foldl (fun s e => killTask s e.1 cDATA_LOST e.2) s
  let known := !met.isEmpty && (unit == 3 || Tab.get s.stamps (locLine gd loc) 0 % 256 != 1)
  let s := if (uncorrectable ∧ !known) ∨ unit = 0x0B then containUnit s gd unit idx loc else s
  let s := if unit = 0x0B then errReport s gd unit 2 idx loc 0 noTask 0 else s
  .next (startTest s gd unit idx loc)
/-- RESIDUE_MISMATCH (R426): the instruction or pass is run once more, with the result it would have had; a second
mismatch is uncorrectable, and the work that needed it pays (R434). Cores 17 to 20 stand for the arrays of quads 0 to 3. -/
def execResidueMismatch (gd core : Nat) (second : Bool) (s : State) : Out :=
  let unit := if core < 17 then 0x0D else 0x0E
  let idx := if core < 17 then core else (core - 17) % 4 * 256
  let v := if !second then none else if core < 17 then victimTask s gd unit core 0 else (s.array (gd * 5 + (core - 17) % 4)).grant
  let s := detect s gd unit (b2n second) idx 0 ((v.map fun e => (s.entry e).ctx).getD 0) ((v.map taskIdOf).getD noTask) 0
  let s := match v with
    | some e => killTask s e cDATA_LOST 0
    | none => s
  .next (startTest s gd unit idx 0)
/-- SCRUB_PASS (R425): a line is read and, if it can be, corrected; one that cannot is detected. `line` is page times
1024 plus line. -/
def execScrubPass (gd line : Nat) (s : State) : Out :=
  let unit := tierUnit s gd (line / 1024)
  let idx := dramIndex s gd (line / 1024) (line % 1024 * 64)
  if Tab.get s.bad (locLine gd line) false then .next (startTest (detect s gd unit 1 idx line 0 noTask 0) gd unit idx line) else .next s

/-! ### Flits in error (R269, R274) -/

/-- FLIT_CRC_ERROR (R269, R275): the flit is resent; a flit in hand that needs 16 resends takes its link or station
down, to be tested. Ports 0 to 3 are die links, 4 and 5 stations. Whether the flit is the one last resent is open
(log 12). -/
def execFlitCrcError (gd port : Nat) (s : State) : Out :=
  let n := if Config.freeBool s.tick then Tab.get (s.die gd).retries port 0 + 1 else 1
  let unit := if port < 4 then 0x0F else 0x10
  if 16 ≤ n then
    let s := s.modDie gd fun d => { d with retries := Tab.del d.retries port }
    .next (startTest (detect s gd unit 1 port 0 0 noTask 0) gd unit port 0)
  else .next (detect (s.modDie gd fun d => { d with retries := Tab.put d.retries port n }) gd unit 0 port 0 0 noTask 0)
/-- UALINK_BAD_TRANSACTION (R274): an error response, counted against the station. Stations are numbered
package * 32 + n; reads, writes, atomics and the vendor types 0x57 and 0x58 are accepted. -/
def execUalinkBadTransaction (station kind : Nat) (s : State) : Out :=
  if kind = 0x57 ∨ kind = 0x58 ∨ Config.ualinkKnown kind then .next s else
  .next (s.modPkg (station / 32) fun p => { p with errResponses := p.errResponses ++ [(station % 32, kind)], stationErrs := Tab.put p.stationErrs (station % 32) (Tab.get p.stationErrs (station % 32) 0 + 1) })

end Sys2Proof.Machine
end

