-- ==== Sys2Proof/Machine/Links.lean ====
section
/-! DEFINITION. The host over CXL and the Ethernet ports (09: R235; 11: R278 to R281; 16: R378; 18: R436). Answers to
the host stand in `hostReply`. A row whose condition does not hold changes nothing. -/
namespace Sys2Proof.Machine

/-! ### CXL (R235, R278 to R280, R436) -/

def hostUp (s : State) (ctx : Nat) : Bool := !(s.pkg (ctxPkg s ctx)).cxlDown
/-- BAR2 holds the doorbell pages of 4,096 contexts, each at its CTXID (R278; log 35). -/
def hasBar2 (s : State) (ctx : Nat) : Bool := Tab.has s.ctxs ctx && decide (ctx < 4096) && hostUp s ctx
/-- DOORBELL_WRITE (R279): index 256 stands for DBSTAT, whose bits a write of 1 clears; beyond it nothing is written. -/
def execDoorbellWrite (ctx i : Nat) (w : BitVec 32) (s : State) : Out :=
  if !hasBar2 s ctx then .next s
  else if i < 256 then .next (doorbellAdd s ctx i (w.toNat % 16))
  else if i = 256 then .next { s with ctxs := Tab.put s.ctxs ctx { s.ctxOf ctx with dbstat := (s.ctxOf ctx).dbstat &&& ~~~(w &&& 3#32) } }
  else .next s
/-- What a host read of a context's doorbell page gives at an offset (R279); it changes nothing. -/
def doorbellRead (s : State) (ctx off : Nat) : Nat :=
  let c := s.ctxOf ctx
  if off < 0x800 then
    if off % 8 != 0 || !bitOf c.dbsems (off / 8 / 16) then 0
    else let x := s.sem (ctxPkg s ctx * 64 * 17 + 16) (off / 8); x.count + 1024 * b2n x.fault
  else if off = 0x800 then c.dbstat.toNat
  else 0
/-- The host-shared frame behind an address of a context; none for any other address (R189, R235). -/
def sharedLoc (s : State) (ctx va : Nat) : Option Loc :=
  match locate s (ctxRoot s ctx) (s.ctxOf ctx).asid va with
  | .at l => if fHs l.leaf ∧ !l.absent then some l else none
  | .miss _ _ _ => none
def strayHost (s : State) (ctx va : Nat) : State :=
  s.report (ctxPkg s ctx * 64) (causeReport s cPROTECTION noTask va 0)
def zeros64 : List Byte := List.replicate 64 0#8
/-- What the home slice logs of a host request (R448). -/
def hostAsk (s : State) (ctx va n : Nat) : Ask :=
  { req := ctxPkg s ctx * 64, agent := 5, op := 11, asid := (s.ctxOf ctx).asid, va := va, bytes := n }
/-- Whether a host request waits: its home is gated, or its page moves (R200, R453). -/
def hostWaits (s : State) (ctx va : Nat) (l : Loc) : Bool := gatedDie s l.gd || chanHeld s l (s.ctxOf ctx).asid va
/-- Whether the host may only read a byte of a submission page: what the device writes there, and the reserved bytes (R308). -/
def subReadOnly (off : Nat) : Bool :=
  !(decide (off < 4) || (decide (12 ≤ off) && decide (off < 16)) || (decide (0x40 ≤ off) && decide (off < 0x8040)))
/-- Whether a frame is the submission page of some context. -/
def isSubPage (s : State) (l : Loc) : Bool :=
  s.ctxs.any fun c => !c.2.words.isEmpty && c.2.subpg != 0 && (match subLoc s c.1 0 with
    | some x => x.gd == l.gd && x.page == l.page
    | none => false)
/-- The bytes of a host write that are written. -/
def hostEnable (s : State) (l : Loc) (n : Nat) : Nat :=
  if isSubPage s l then ((List.range n).map fun i => if subReadOnly (l.off + i) then 0 else 2 ^ i).sum else 2 ^ n - 1
/-- CXL_MEM_READ (R235, R436): one 64-byte line; poison and zeros for an address that is not host-shared, and for a
line that is uncorrectable. -/
def execCxlMemRead (ctx va : Nat) (s : State) : Out :=
  if !hostUp s ctx then .next s else
  let la := va - va % 64
  match sharedLoc s ctx la with
  | none => .next (strayHost { s with hostReply := (zeros64, true) } ctx la)
  | some l =>
    if hostWaits s ctx la l then .next s else
    let q := hostAsk s ctx la 64
    match homeRead s l 64 with
    | some bs => .next { homeAsk s l q false false false with hostReply := (bs.map (BitVec.ofNat 8), false) }
    | none =>
      let idx := dramIndex s l.gd l.page l.off
      let s := homeAsk { s with hostReply := (zeros64, true) } l q false false true
      .next (startTest (detect s l.gd (tierUnit s l.gd l.page) 1 idx (l.page * 1024 + l.off / 64) ctx noTask 0) l.gd (tierUnit s l.gd l.page) idx (l.page * 1024 + l.off / 64))
/-- CXL_MEM_WRITE (R235): at most 64 bytes within one line; elsewhere it is discarded and completes normally. -/
def execCxlMemWrite (ctx va : Nat) (bytes : List (BitVec 8)) (s : State) : Out :=
  if !hostUp s ctx then .next s else
  let bs := (bytes.take (64 - va % 64)).map BitVec.toNat
  match sharedLoc s ctx va with
  | none => .next (strayHost s ctx va)
  | some l =>
    if hostWaits s ctx va l then .next s else
    .next ((homePut s 0 l (hostAsk s ctx va bs.length) (hostEnable s l bs.length) bs).getD s)
/-- HOST_SNOOP (R278): die 0's L2 answers with the line as the device last wrote it, while the link is up. The row
names both: package * 2^56 + address. -/
def execHostSnoop (line : Nat) (s : State) : Out :=
  let hpa := line % 2 ^ 56
  if (s.pkg (line / 2 ^ 56)).cxlDown then .next s
  else .next { s with hostReply := ((getBytes s.hostMem (hpa - hpa % 64) 64).map (BitVec.ofNat 8), false) }
/-- CXL_LINK_DOWN (R280, R378): requests to host memory complete with PEER_LOST from now on, and the contexts whose
host connection is lost are killed. -/
def execCxlLinkDown (pkg : Nat) (s : State) : Out :=
  if (s.pkg pkg).cxlDown then .next s else
  let cs := (s.ctxs.filter fun c => !c.2.words.isEmpty && !c.2.dead && c.2.kslot != 1 && ctxPkg s c.1 == pkg).map Prod.fst
  .next (cs.foldl killContext (s.modPkg pkg fun p => { p with cxlDown := true }))

/-! ### RoCEv2 queue pairs (R23, R281) -/

def State.queue (s : State) (q : Nat) : Queue := Tab.get s.queues q {}
/-- The dies that carry an Ethernet port: 56 to 63 of a package (R23). -/
def ethPort (gd : Nat) : Bool := decide (56 ≤ dieOf gd)
/-- Whether a queue pair has a port engine that runs it. -/
def queueRuns (s : State) (q : Nat) : Bool := Tab.has s.queues q && ethPort (s.queue q).gd && !(s.queue q).dead && (s.die (s.queue q).gd).up
/-- Whether the port of a queue pair serves its context's partition: the one that owns its die (R271). -/
def portServes (s : State) (x : Queue) : Bool :=
  match partOf s x.gd with
  | some p => p == (s.ctxOf x.ctx).part
  | none => (partOf s (ctxRoot s x.ctx)).isNone
/-- A completion entry: its status, in a byte whose place is open, and open bytes (log 12). -/
def ethEntry (s : State) (status : Nat) : List Nat :=
  (List.range 16).map fun i => if i = Config.ethStatusAt % 16 then status else (Config.ethByte (s.tick * 16 + i)).toNat
/-- Write a completion entry and signal its semaphore (R281); none while the entry can not be written. -/
def ethComplete (s : State) (q status : Nat) (fault : Bool) : Option State :=
  let x := s.queue q
  let c := s.ctxOf x.ctx
  match writeRange s x.gd (x.gd * 17 + 16) c.asid c.kslot (x.complQ + 16 * x.completed) (ethEntry s status) with
  | (_, some (.miss _ _ _ _)) => none
  | (_, some (.held _ _)) => none
  | (s, _) =>
    let y := s.sem x.ck x.semaphore
    let s := s.setSem x.ck x.semaphore { y with count := min (y.count + 1) 1023, fault := y.fault || fault, wide := true }
    some { s with queues := Tab.put s.queues q { x with completed := x.completed + 1 } }
/-- Take one handed-over entry of the send, or of the receive queue: its doorbell's count falls by one (log 30). -/
def takeWork (s : State) (q : Nat) (recv : Bool) : State :=
  let x := s.queue q
  let e := if recv then x.recvBell else x.doorbell
  let y := s.sem x.ck e
  { s.setSem x.ck e { y with count := y.count - 1 } with
    queues := Tab.put s.queues q (if recv then { x with received := x.received + 1 } else { x with sent := x.sent + 1 }) }
def workWaits (s : State) (q : Nat) (recv : Bool) : Nat :=
  (s.sem (s.queue q).ck (if recv then (s.queue q).recvBell else (s.queue q).doorbell)).count
/-- The guard report of a frame that a port may not send (R272, R273). -/
def ethReport (s : State) (x : Queue) : State :=
  s.report x.gd [w32 (0x19 * 2 ^ 24 + Traffic.eth.code * 2 ^ 16 + (s.ctxOf x.ctx).part * 2 ^ 8 + partNum s x.gd), w32 (x.gd * 65536 + x.gd),
    w32 (5 * 65536 + x.gd), w32 x.ctx, 0, 0, w32 s.cycle, 0]
/-- ETH_COMPLETION (R272, R281): a frame that a port may not send completes with status 0x19 and a guard report. -/
def execEthCompletion (qp : Nat) (s : State) : Out :=
  if !queueRuns s qp || workWaits s qp false == 0 then .next s else
  let x := s.queue qp
  .next ((if portServes s x then ethComplete (takeWork s qp false) qp 0 false
    else ethComplete (takeWork (ethReport s x) qp false) qp 0x19 false).getD s)
/-- Entries handed over complete with status 0x10. -/
def failAll (q : Nat) (recv : Bool) : Nat → State → Option State
  | 0, s => some s
  | n + 1, s => (ethComplete (takeWork s q recv) q 0x10 true).bind (failAll q recv n)
/-- ETH_RETRY_EXHAUSTED (R281): every outstanding entry completes with status 0x10. -/
def execEthRetryExhausted (qp : Nat) (s : State) : Out :=
  if !queueRuns s qp then .next s else
  .next (match (failAll qp false (workWaits s qp false) s).bind fun s => failAll qp true (workWaits s qp true) s with
    | none => s
    | some s =>
      let x := s.queue qp
      let y := s.sem x.ck x.semaphore
      { s.setSem x.ck x.semaphore { y with fault := true } with queues := Tab.put s.queues qp { x with dead := true } })
/-- ETH_FRAME_RECEIVED (R281): the port writes the data where the next receive entry that was handed over says, then completes
it. Where that is in the entry's 64 bytes is open (log 12). -/
def execEthFrameReceived (qp : Nat) (bytes : List (BitVec 8)) (s : State) : Out :=
  if !queueRuns s qp || !portServes s (s.queue qp) || workWaits s qp true == 0 then .next s else
  let x := s.queue qp
  let c := s.ctxOf x.ctx
  match readRange s x.gd (x.gd * 17 + 16) c.asid (x.recvQ + 64 * x.received) 64 with
  | .error (.absent gd page) => .fault (.absentPage gd page)
  | .error _ => .next s
  | .ok (t, e) =>
    match writeRange t x.gd (x.gd * 17 + 16) c.asid c.kslot (Config.ethAddr e) (bytes.map BitVec.toNat) with
    | (t, none) => .next ((ethComplete (takeWork t qp true) qp 0 false).getD s)
    | (_, some (.absent gd page)) => .fault (.absentPage gd page)
    | (_, some _) => .next s

end Sys2Proof.Machine
end

