-- ==== Sys2Proof/Machine/Tier.lean ====
section
/-! DEFINITION. What the steward and the home dies do to translation and to the tiers: FRES, the phases of a
generation raise, replication epochs, page counts and swaps (08: R192, R193, R199 to R202; 15: R367, R371, R372,
R374). A row whose condition does not hold changes nothing. -/
namespace Sys2Proof.Machine

/-! ### FRES (R371) -/

/-- FRES_WRITE (R371): a release at PKG scope of the steward's earlier accesses, then the record is resolved. -/
def execFresWrite (gd : Nat) (w : BitVec 32) (s : State) : Out := .next (fresEffect (writeBackCore s (gd * 17 + 16)) gd w)

/-! ### Generation raises (R367, R368, R372) -/

/-- Whether the address space has nothing left to drain: no access translated under the old generation, no dirty byte, no
owned line. Gated dies count as having answered (R453). -/
def drained (s : State) (asid : Nat) : Bool :=
  (s.accs.all fun a => a.2.asid != asid || a.2.stage != .going || gatedDie s (gdOf a.2.g)) &&
    (s.l1.all fun e => l1Asid e.1 != asid || !e.2.dirty || gatedDie s (gdOfCk (l1Core e.1))) &&
    s.stash.all fun e => !e.2.owned || stashAsid s e.2 != asid || gatedDie s (gdOfCk e.2.ck)
where
  stashAsid (s : State) (x : StashLine) : Nat := (s.ctxOf x.ctx).asid
/-- Write back everything dirty of an address space (R187, R196). -/
def drainAsid (s : State) (asid : Nat) : State :=
  let s := writeBack s fun k => l1Asid k == asid && !gatedDie s (gdOfCk (l1Core k))
  let s := (s.stash.filter fun e => e.2.owned && (s.ctxOf e.2.ctx).asid == asid && !gatedDie s (gdOfCk e.2.ck)).foldl
    (fun s e => stashBack s e.1 e.2) s
  l2Clean s fun _ x => x.asid == asid
/-- Phase 3: every cached copy, right and translation of the address space goes, and its generation moves on in every
descriptor. Stash ranges stay mapped with no line. -/
def clearAsid (s : State) (asid next : Nat) : State :=
  let lines := (s.stash.filter fun e => (s.ctxOf e.2.ctx).asid != asid)
  let s := l2Drop (l1Drop s fun k _ => l1Asid k == asid) fun _ x => x.asid == asid
  let s := mapAccs s (fun a => a.asid == asid && a.stage == .issued) fun a => { a with via := none }
  { s with stash := lines,
           rights := s.rights.map fun e => (e.1, e.2.filter fun r => r.asid != asid),
           hlb := (s.hlb.filter fun e => e.1 / 2 ^ 35 % 2 ^ 16 != asid), ctc := (s.ctc.filter fun e => e.1 / 2 ^ 40 % 2 ^ 16 != asid),
           descs := s.descs.map fun d => if d.1 % 2 ^ 16 = asid then (d.1, { d.2 with curgen := next }) else d }
/-- Phase 4: the group that raised goes on, with the new generation in D. -/
def raiseDone (s : State) (asid next : Nat) : State :=
  s.groups.foldl (fun s e => match e.2.service with
    | some (.raise a d m) => if a = asid then writeLanes (s.modGrp e.1 fun x => { x with service := none }) e.1 d next m else s
    | _ => s) s
/-- Phase 4: the extents of a started tile command are walked again; a miss makes a record of KIND 5 (R372). -/
def repatch (s : State) (id : Nat) (c : Cmd) : State :=
  match (loaderLook s c.gd (c.asid s) c.a c.b).findSome? fun f => match f.2 with
    | .miss _ h key => some (f.1, h, key)
    | .at _ => none with
  | none => s
  | some (va, h, key) => match makeFault s h 5 5 (c.asid s) c.gd va key c.site with
    | some (r, s) => setCmd s id { c with paused := some r }
    | none => s
def repatchAll (s : State) (asid : Nat) : State :=
  (s.cmds.filter fun c => c.2.op.kind == .tile && c.2.started && c.2.paused.isNone && c.2.asid s == asid).foldl (fun s c => repatch s c.1 c.2) s
/-- GEN_RAISE_PHASE_END (R367): the phase of a raise ends; with phase 3, phase 4 begins and the raise is over. -/
def execGenRaisePhaseEnd (asid : Nat) (s : State) : Out :=
  match Tab.find? s.raises asid with
  | none => .next s
  | some r =>
    if r.phase ≤ 1 then .next { s with raises := Tab.put s.raises asid { r with phase := 2 } }
    else if r.phase = 2 then
      (let t := drainAsid s asid
       if drained t asid then .next { t with raises := Tab.put t.raises asid { r with phase := 3 } } else .next s)
    else
      (let t := clearAsid { s with raises := Tab.del s.raises asid } asid r.next
       .next (repatchAll (raiseDone t asid r.next) asid))

/-! ### Replication epochs (R193) -/

def epochDue (s : State) (gd : Nat) : Bool := decide (65536 * ((s.die gd).epoch + 1) ≤ s.cycle)
/-- The degree of a region after an epoch. -/
def nextDegree (x : Repl) : Nat :=
  if x.w * 8 > x.r ∨ x.x > 1024 then x.degree - 1
  else if 32 * (x.w + 1) ≤ x.r ∧ 256 ≤ x.r then min (x.degree + 1) 8
  else x.degree
/-- Revise one region's degree; changes are counted at slice 0 of the home die. -/
def reviseDegree (s : State) (gd k : Nat) (x : Repl) : State :=
  let d := nextDegree x
  let s := if x.degree < d then s.sliceEvent gd 0 5 else if d < x.degree then s.sliceEvent gd 0 6 else s
  { s with repls := Tab.set s.repls {} k { degree := d } }
/-- REPLICATION_EPOCH (R193). -/
def execReplicationEpoch (gd : Nat) (s : State) : Out :=
  if !epochDue s gd then .next s else
  let s := s.modDie gd fun d => { d with epoch := d.epoch + 1 }
  .next ((s.repls.filter fun r => r.1 / 2 ^ 35 == gd).foldl (fun s r => reviseDegree s gd r.1 r.2) s)

/-! ### Page counts and swaps (R199 to R202, R374) -/

def decayDue (s : State) (gd : Nat) : Bool := decide (2 ^ 20 * ((s.die gd).decay + 1) ≤ s.cycle)
/-- A page's count halves; the accesses towards its next step are kept. -/
def halveCount (c : Nat) : Nat := c / 64 / 2 * 64 + c % 64
/-- PAGE_COUNT_DECAY (R201). -/
def execPageCountDecay (gd : Nat) (s : State) : Out :=
  if !decayDue s gd then .next s else
  let s := s.modDie gd fun d => { d with decay := d.decay + 1 }
  let t := s.counts.filterMap fun c =>
    if c.1 / 2 ^ 21 ≠ gd then some c else if halveCount c.2 = 0 then none else some (c.1, halveCount c.2)
  .next { s with counts := t }

/-- SWAP_START (R201, R374): an access has asked for the swap; requests to the moving pages are held from now on. -/
def execSwapStart (gd page : Nat) (s : State) : Out :=
  let t := s.tier gd (page / 5)
  if t.asked != some (page % 5) then .next s else
  .next (s.setTier gd (page / 5) (if swapStarts s gd page then
    { t with asked := none, swapping := some (page % 5, s.cycle), lastSwap := s.cycle, swapped := true } else { t with asked := none }))
/-- The cycle by which a swap's remap entry is rewritten: 1,040 after its start, 2,080 where three pages move (R200). -/
def swapBy (t : Tier) (i start : Nat) : Nat := start + (if t.f = 0 ∨ i = 0 then 1040 else 2080)
/-- An uncorrectable line of a page, as page times 1024 plus line. -/
def badLine (s : State) (gd page : Nat) : Option Nat :=
  (List.find? (fun b : Nat × Bool => b.2 && b.1 / 1024 == memKey gd (page * 65536) / 65536) s.bad).map fun b => page * 1024 + b.1 % 1024
/-- SWAP_REMAP (R200, R202, R374): the moving pages are at their new frames, and held requests go on; a copy that meets
an uncorrectable line is abandoned, and the error is detected. -/
def execSwapRemap (gd group : Nat) (s : State) : Out :=
  let t := s.tier gd group
  match t.swapping with
  | none => .next s
  | some (i, _) =>
    let put (x : Tier) : State := s.setTier gd group x
    match ([i, t.f, 0].eraseDups).findSome? fun p =>
        if isDead s gd (5 * group + p) then none else (badLine s gd (5 * group + p)).map fun l => (p, l) with
    | none => .next (put { t with f := i, swapping := none })
    | some (p, l) =>
      let unit := tierUnit s gd (5 * group + p)
      let idx := dramIndex s gd (5 * group + p) (l % 1024 * 64)
      .next (startTest (detect (put { t with swapping := none }) gd unit 1 idx l 0 noTask 0) gd unit idx l)

end Sys2Proof.Machine
end

