-- ==== Sys2Proof/Machine/Power.lean ====
section
/-! DEFINITION. Power credits, throttling and temperature (01: R27 to R29; 13: R330, R331; 16: R384, R398, R399). A row
whose condition does not hold changes nothing. -/
namespace Sys2Proof.Machine

def State.power (s : State) (gd : Nat) : Power := Tab.get s.powers gd {}
def State.modPower (s : State) (gd : Nat) (f : Power → Power) : State := { s with powers := Tab.put s.powers gd (f (s.power gd)) }
/-- Credits that a die has sent and that nobody has received: its grants and repayments in flight. -/
def sentCredits (s : State) (gd : Nat) : Nat :=
  8 * (s.msgs.filter fun m => match m.2.msg with
    | .grant src _ => src == gd
    | .repay src _ => src == gd
    | _ => false).length
/-- The budget that a die may use: what it has sent is no longer its own to use (R331). -/
def usable (s : State) (gd : Nat) : Nat := (s.power gd).budget - sentCredits s gd
/-- Credits lent and not repaid, over every link. -/
def lentTotal (x : Power) : Nat := (x.lent.map Prod.snd).sum

/-! ### Throttle (R28, R330) -/

/-- The least throttle level under which an estimate fits a budget. -/
def throttle (est budget : Nat) : Nat :=
  if est * 4 ≤ 4 * budget then 0 else if est * 3 ≤ 4 * budget then 1 else if est * 2 ≤ 4 * budget then 2 else 3
def windowDue (s : State) (gd : Nat) : Bool := decide (1024 * ((s.power gd).window + 1) ≤ s.cycle)
/-- POWER_WINDOW (R330): `est` is the estimate from the activity counters of the window that has ended. -/
def execPowerWindow (gd est : Nat) (s : State) : Out :=
  if !windowDue s gd then .next s else
  .next (s.modPower gd fun x => { x with window := x.window + 1, estimate := est, theta := throttle est (usable s gd) })

/-! ### Credits (R27, R331, R384) -/

/-- The neighbours with which a die may exchange credits: their link joins dies of one partition, or of none. -/
def creditPeers (s : State) (gd : Nat) : List Nat :=
  ((List.range 64).map fun d => pkgOf gd * 64 + d).filter fun n =>
    ((List.range 4).any fun q => neighbour (dieOf gd) q == some (dieOf n) && !(s.die gd).linksDown.contains q) && partOf s n == partOf s gd
/-- The neighbour after the one last asked, in ascending die id, cyclically; `asked` is that one's id plus one. -/
def nextPeer (s : State) (gd : Nat) : Option Nat :=
  let ps := creditPeers s gd
  (ps.find? fun n => decide ((s.power gd).asked ≤ n)).orElse fun _ => ps.head?
/-- The link with the largest net borrowing, ties to the lowest die. -/
def repayTo (s : State) (gd : Nat) : Option Nat :=
  let x := s.power gd
  let net (n : Nat) : Nat := Tab.get x.borrowed n 0 - Tab.get x.lent n 0
  let best := (creditPeers s gd).foldl (fun (b : Option Nat) n => match b with
    | none => some n
    | some m => if net m < net n then some n else b) none
  best.filter fun n => decide (8 ≤ net n)
/-- What a die asks or gives back at an exchange (R29, R331). -/
def wantsRepay (s : State) (gd : Nat) : Bool :=
  let x := s.power gd
  decide (600 < usable s gd) && (x.hot || decide (x.estimate + 16 ≤ usable s gd))
def wantsBorrow (s : State) (gd : Nat) : Bool :=
  let x := s.power gd
  decide (usable s gd < x.estimate) && decide (x.budget + lentTotal x + 8 ≤ 720) && x.outstanding.isNone && !x.hot
def exchangeDue (s : State) (gd : Nat) : Bool := decide (8192 * ((s.power gd).exchange + 1) ≤ s.cycle)
/-- SIDEBAND_EXCHANGE (R331). -/
def execSidebandExchange (gd : Nat) (s : State) : Out :=
  if !exchangeDue s gd then .next s else
  let s := s.modPower gd fun x => { x with exchange := x.exchange + 1 }
  if wantsRepay s gd then
    (match repayTo s gd with
     | some n => .next (sendMsg s (.repay gd n))
     | none => .next s)
  else if wantsBorrow s gd then
    (match nextPeer s gd with
     | some n => .next (sendMsg (s.modPower gd fun x => { x with asked := n + 1, outstanding := some s.cycle }) (.borrow gd n))
     | none => .next s)
  else .next s
/-- Eight credits change hands. -/
def moveCredits (s : State) (src dst : Nat) : State :=
  (s.modPower src fun x => { x with budget := x.budget - 8 }).modPower dst fun x => { x with budget := x.budget + 8 }
def addAt (t : Tab Nat) (k : Nat) : Tab Nat := Tab.set t 0 k (Tab.get t k 0 + 8)
def subAt (t : Tab Nat) (k : Nat) : Tab Nat := Tab.set t 0 k (Tab.get t k 0 - 8)
/-- Whether a die grants a borrow (R331). -/
def grants8 (s : State) (gd : Nat) : Bool :=
  decide ((s.power gd).estimate + 16 ≤ usable s gd) && decide (480 + 8 ≤ usable s gd)
/-- What a sideband message does where it is received. -/
def creditEffect (s : State) (m : Msg) : State :=
  match m with
  | .borrow src dst => sendMsg s (if grants8 s dst then .grant dst src else .refuse dst src)
  | .grant src dst =>
    let s := moveCredits s src dst
    let s := s.modPower src fun x => { x with lent := addAt x.lent dst }
    s.modPower dst fun x => { x with borrowed := addAt x.borrowed src, outstanding := none }
  | .refuse _ dst => s.modPower dst fun x => { x with outstanding := none }
  | .repay src dst =>
    let s := moveCredits s src dst
    let s := s.modPower src fun x => { x with borrowed := subAt x.borrowed dst }
    s.modPower dst fun x => { x with lent := subAt x.lent src }
  | _ => s
def isCredit (m : Msg) : Bool :=
  match m with
  | .borrow _ _ => true | .grant _ _ => true | .refuse _ _ => true | .repay _ _ => true | _ => false
/-- CREDIT_MESSAGE (R331): a message that was not delivered within 16,384 cycles of its sending is lost. -/
def execCreditMessage (msg : Nat) (s : State) : Out :=
  match Tab.find? s.msgs msg with
  | none => .next s
  | some m =>
    if !isCredit m.msg then .next s
    else if m.sentAt + 16384 < s.cycle then
      (match m.msg with
       | .grant _ _ => .next s
       | _ => .next (takeMsg s msg))
    else .next (creditEffect (takeMsg s msg) m.msg)
/-- LOST_GRANT_RETURN (R331): the credits of a lost grant are the lender's again. -/
def execLostGrantReturn (msg : Nat) (s : State) : Out :=
  match Tab.find? s.msgs msg with
  | none => .next s
  | some m =>
    match m.msg with
    | .grant _ _ => if m.sentAt + 16384 ≤ s.cycle then .next (takeMsg s msg) else .next s
    | _ => .next s
def borrowStale (s : State) (gd : Nat) : Bool :=
  match (s.power gd).outstanding with
  | some t => decide (t + 49152 ≤ s.cycle)
  | none => false
/-- BORROW_TIMEOUT (R331). -/
def execBorrowTimeout (gd : Nat) (s : State) : Out :=
  if borrowStale s gd then .next (s.modPower gd fun x => { x with outstanding := none }) else .next s

/-! ### Temperature and alarms (R29, R398, R399) -/

/-- THERMAL_HIGH (R29): above 105 °C the die borrows nothing and gives back what it holds above 600. -/
def execThermalHigh (gd : Nat) (s : State) : Out := .next (s.modPower gd fun x => { x with hot := true })
/-- THERMAL_RECOVER (R29): the sensor is below 100 °C. -/
def execThermalRecover (gd : Nat) (s : State) : Out := .next (s.modPower gd fun x => { x with hot := false })
/-- THERMAL_TAMPER (R29, R398): above 115 °C. -/
def execThermalTamper (gd : Nat) (s : State) : Out := .next (raiseAlarm s (pkgOf gd) 1)
/-- GLITCH_ALARM (R398). -/
def execGlitchAlarm (pkg : Nat) (s : State) : Out := .next (raiseAlarm s pkg 0)
/-- DEBUG_AUTH_FAIL (R398): the third failure since power-on raises DBGX; a locked port takes no authentication. -/
def execDebugAuthFail (pkg : Nat) (s : State) : Out :=
  if (s.pkg pkg).debugLocked then .next s else
  let s := s.modPkg pkg fun p => { p with failedAuth := p.failedAuth + 1 }
  .next (if (s.pkg pkg).failedAuth = 3 then raiseAlarm s pkg 3 else s)

end Sys2Proof.Machine
end

