-- ==== Sys2Proof/Machine/Boot.lean ====
section
/-! DEFINITION. Boot and attestation, the reset of dies, and the writes of steward registers as rows of their own (01:
R9, R30; 12: R302; 16: R378, R381, R386, R395 to R399, R408). A row whose condition does not hold changes nothing. -/
namespace Sys2Proof.Machine

/-! ### Reset of dies (R9, R454) -/

/-- Drop the entries whose keys satisfy a test. -/
def Tab.drop {α : Type} (t : Tab α) (p : Nat → Bool) : Tab α := t.filter fun e => !p e.1
/-- Reset every register, memory array, cache, Tray, record store and Proof table of a set of dies. Retirements, links
and reports to the steward outlast it, and DRAM with its remap table keeps its contents; dirty lines of the caches are lost
(log 31). The power budgets start again at 600 (R27). -/
def resetDies (s0 : State) (p : Nat → Bool) : State :=
  let s := l2Lose s0 p
  let onCk (ck : Nat) : Bool := p (gdOfCk ck)
  let onG (g : Nat) : Bool := p (gdOf g)
  let onT (t : Nat) : Bool := p (s.team t).gd
  let onQ (qk : Nat) : Bool := p (qk / 5)
  let s1 : State := { s with
    lanes := Tab.drop s.lanes fun k => onG (k / 64), vregs := Tab.drop s.vregs fun k => onG (k / 16384), sregs := Tab.drop s.sregs fun k => onG (k / 32),
    dirtyBanks := Tab.drop s.dirtyBanks fun k => onG (k / 16), groups := Tab.drop s.groups onG,
    dirtyLines := Tab.drop s.dirtyLines fun k => onT (k / 2 ^ 12), wins := Tab.drop s.wins fun k => onT (k / 2 ^ 20),
    stash := Tab.drop s.stash fun k => onT (k / 2 ^ 14), teams := Tab.drop s.teams onT }
  let s2 : State := { s1 with
    sems := Tab.drop s.sems fun k => onCk (k / 256), grants := Tab.drop s.grants fun k => onCk (k / 16), l1 := Tab.drop s.l1 fun k => onCk (l1Core k),
    wbFails := s.wbFails.filter (fun f => !onCk f.1), store := Tab.drop s.store fun k => onCk (k / 2048), credits := Tab.drop s.credits onCk,
    lastSlot := Tab.drop s.lastSlot fun k => onCk (k / 2 ^ 64), pmcs := Tab.drop s.pmcs onCk,
    l1sets := Tab.drop s.l1sets fun k => onCk (k / 1024), l1pred := Tab.drop s.l1pred fun k => onCk (k / 1024), rights := Tab.drop s.rights onCk,
    bankQs := Tab.drop s.bankQs fun k => p (k / 1024), aborts := s.aborts.filter (fun a => !p (a.1 / 16384)), powers := Tab.drop s.powers p,
    msgs := s.msgs.filter fun m => !p m.2.msg.ends.1 && !p m.2.msg.ends.2 }
  let s3 : State := { s2 with
    chans := Tab.drop s.chans fun k => onQ (k / 16), opmem := Tab.drop s.opmem fun k => onQ (k / 2 ^ 16 / 512), heads := Tab.drop s.heads fun k => onQ (k / 4 / 512),
    handles := s.handles.filter (fun h => !onQ h.qk), arrays := Tab.drop s.arrays onQ, banks := Tab.drop s.banks fun k => onQ (k / 4),
    rings := Tab.drop s.rings fun k => onQ (k / 4) }
  let s4 : State := { s3 with
    entries := Tab.drop s.entries fun k => p (k / 16384), recs := Tab.drop s.recs fun k => p (k / 65536), trays := Tab.drop s.trays fun k => p (k / 64),
    opers := Tab.drop s.opers fun k => p (k / 2 ^ 16), hlb := Tab.drop s.hlb fun k => p (k / 2 ^ 51), ctc := Tab.drop s.ctc fun k => p (k / 2 ^ 56),
    faultRecs := Tab.drop s.faultRecs fun k => p (k / 256), lbars := Tab.drop s.lbars fun k => k / 2 ^ 16 / 32 == 1 && p (k % 2 ^ 16),
    census := Tab.drop s.census fun k => p (k / 4 / 1024), counts := Tab.drop s.counts fun k => p (k / 2 ^ 21), repls := Tab.drop s.repls fun k => p (k / 2 ^ 35),
    slices := Tab.drop s.slices fun k => p (k / 8 / 16), slovf := Tab.drop s.slovf fun k => p (k / 16), traces := Tab.drop s.traces fun k => p (k / 16),
    tests := Tab.drop s.tests fun k => p (k / 2 ^ 32) }
  let tiers' : Tab Tier := s.tiers.map fun t => if p (t.1 / 2 ^ 19) then (t.1, { t.2 with swapping := none, asked := none, queue := [] }) else t
  let dies' : Tab Die := s.dies.map fun d => if p d.1 then
      (d.1, { d.2 with fres := 0, partcfg := 0, partten := 0, lslots := [], gtblLo := 0, gtblHi := 0, retries := [] }) else d
  { s4 with tiers := tiers', dies := dies', accs := (s.accs.filter fun a => !onG a.2.g), cmds := (s.cmds.filter fun c => !p c.2.gd),
            sigs := (s.sigs.filter fun x => !onCk x.2.ck) }

/-! ### Boot (R30, R395, R396) -/

/-- Power-on reset of a package: fuses and retirements last, DRAM has no contents. -/
def powerReset (s : State) (p : Nat) : State :=
  let on (gd : Nat) : Bool := pkgOf gd == p
  let s := resetDies s on
  let x := s.pkg p
  let dies' : Tab Die := s.dies.map fun d => if on d.1 then (d.1, { retired := d.2.retired, spares := d.2.spares }) else d
  let mem' : List Host.Cell := (s.mem.filter fun c => !on (c.1 / 2 ^ 37))
  { s with dies := dies', mem := mem', stamps := Tab.drop s.stamps fun k => on (k / 2 ^ 31), bad := Tab.drop s.bad fun k => on (k / 2 ^ 31),
           dead := Tab.drop s.dead fun k => on (k / 2 ^ 21), tiers := Tab.drop s.tiers fun k => on (k / 2 ^ 19), powers := Tab.drop s.powers on,
           descs := Tab.drop s.descs fun k => on (k / 2 ^ 16), pkgs := Tab.put s.pkgs p { svn := x.svn, floorSvn := x.floorSvn } }
/-- POWER_ON (R30, R396): die 0 verifies the image; `ecdsaOk` and `lmsOk` say that a key has its fused hash and its
signature verifies. A failure raises the firmware-verification alarm, and nothing further runs. -/
def execPowerOn (pkg : Nat) (ecdsaOk lmsOk : Bool) (s : State) : Out :=
  let s := powerReset s pkg
  if ecdsaOk && lmsOk && decide ((s.pkg pkg).floorSvn ≤ (s.pkg pkg).svn) then
    .next ((s.modPkg pkg fun x => { x with booted := true, chaingen := 0 }).modDie (pkg * 64) fun d => { d with up := true })
  else .next (raiseAlarm s pkg 2)
/-- Every die of a package has been judged: it runs the body or is lost. -/
def bootDone (s : State) (p : Nat) : Bool := (List.range 64).all fun d => (s.die (p * 64 + d)).up || (s.pkg p).lostDies.contains (p * 64 + d)
/-- DIE_BODY_CHECK (R396): a die runs the body if its digest is the header's, and is lost if it is not. Once every die
has been judged, the fused floor rises to the image's SVN (log 31). -/
def execDieBodyCheck (gd : Nat) (digestOk : Bool) (s : State) : Out :=
  let p := pkgOf gd
  let x := s.pkg p
  if !x.booted || (s.die gd).up || x.lostDies.contains gd then .next s else
  let s := if digestOk then s.modDie gd fun d => { d with up := true } else loseDie s gd
  .next (if bootDone s p then s.modPkg p fun y => { y with floorSvn := max y.floorSvn y.svn } else s)
/-- SPDM_REQUEST (R397): die 0 answers for measurements 1 to 5. -/
def execSpdmRequest (pkg index : Nat) (s : State) : Out :=
  if (s.pkg pkg).booted && decide (1 ≤ index) && decide (index ≤ 5) then .next (s.modPkg pkg fun x => { x with measured := x.measured ++ [index] })
  else .next s

/-! ### Writes of steward registers -/

/-- CONTEXT_KILL (R378). -/
def execContextKill (ctx : Nat) (s : State) : Out := .next (killContext s ctx)
/-- KEY_GENERATE (R386): KEYCMD with OP 1. -/
def execKeyGenerate (pkg slot : Nat) (s : State) : Out :=
  .next (keyFill (s.modPkg pkg fun x => { x with keycmd := w32 (2 ^ 30 + slot % 256) }) pkg slot)
/-- KEY_ERASE (R386): KEYCMD with OP 2. -/
def execKeyErase (pkg slot : Nat) (s : State) : Out :=
  .next (keyZero (s.modPkg pkg fun x => { x with keycmd := w32 (2 ^ 31 + slot % 256) }) pkg slot)
/-- Whether a number is that of an LBAR register (R302). -/
def isLbar (n : Nat) : Bool := decide (0x440 ≤ n) && decide (n ≤ 0x4FF) && n % 2 == 0
/-- LBAR_ALLOCATE (R302): a write with EN 1. -/
def execLbarAllocate (gd num : Nat) (w : BitVec 32) (s : State) : Out :=
  if isLbar num && bitOf w.toNat 31 then .next (lbarWrite s (lbarOf gd num) w) else .next s
/-- LBAR_FREE (R302): a write with EN 0. -/
def execLbarFree (gd num : Nat) (w : BitVec 32) (s : State) : Out :=
  if isLbar num && !bitOf w.toNat 31 then .next (lbarWrite s (lbarOf gd num) w) else .next s
/-- HCTL_KILL (R408): a handler asks for the kill of its task. -/
def execHctlKill (g : Nat) (s : State) : Out :=
  if (s.grp g).inHandler then .next (hctlEffect (s.modGrp g fun x => { x with hctl := 1 }) g) else .next s
/-- ALARMPOL_WRITE (R398). -/
def execAlarmpolWrite (pkg : Nat) (w : BitVec 32) (s : State) : Out := .next (alarmpolEffect s pkg w)
/-- REGISTER_WRITE (R9, R302, R381, R386, R398): a register that has no row of its own. -/
def execRegisterWrite (gd num : Nat) (w : BitVec 32) (s : State) : Out :=
  if 0x440 ≤ num ∧ num ≤ 0x4FF then (if num % 2 = 1 then .next (lbctxWrite s (lbarOf gd num) w) else .next s)
  else if num = 0xB0 then
    (if bitsOf w.toNat 31 30 = 0 then .next (s.modPkg (pkgOf gd) fun x => { x with keycmd := w &&& 0xC00000FF#32 }) else .next s)
  else .next (dieRegWrite s gd num w)

end Sys2Proof.Machine
end

