-- ==== Sys2Proof/Machine/Scan.lean ====
section
/-! DEFINITION. Debug rights and scan sessions (16: R393, R394; 19: R452 to R454). A row whose condition does not hold
changes nothing. -/
namespace Sys2Proof.Machine

/-! ### The debug agent (R393) -/

def grpDbg (s : State) (g : Nat) : Bool := Tab.has s.groups g && (s.ctxOf (s.grp g).ctx).dbg
/-- DEBUG_AGENT_HALT (R393). -/
def execDebugAgentHalt (g : Nat) (s : State) : Out := if grpDbg s g then .next (s.modGrp g fun x => { x with halted := true }) else .next s
/-- DEBUG_EDIT_STAGE (R393): an edit of one register of one lane joins the overlay; it replaces an edit of the same one. -/
def execDebugEditStage (g lane reg : Nat) (w : BitVec 32) (s : State) : Out :=
  if grpDbg s g && (s.grp g).halted && decide (lane < 64) then
    .next (s.modGrp g fun x => { x with overlay := (x.overlay.filter fun o => !(o.1 == lane && o.2.1 == reg)) ++ [(lane, reg, w)] })
  else .next s
/-- Commit an overlay in one step; the saves of an edited team carry EDITED (R392). -/
def commitEdits (s : State) (g : Nat) : State :=
  let x := s.grp g
  if x.overlay.isEmpty then s else
  let s := x.overlay.foldl (fun s o => wr s g o.1 o.2.1 o.2.2.toNat) s
  let s := s.modGrp g fun y => { y with overlay := [] }
  { s with teams := Tab.put s.teams x.team { s.team x.team with edited := true } }
/-- DEBUG_RESUME (R393). -/
def execDebugResume (g : Nat) (s : State) : Out :=
  if Tab.has s.groups g && (s.grp g).halted then .next ((commitEdits s g).modGrp g fun x => { x with halted := false }) else .next s

/-! ### Scan sessions (R452 to R454) -/

/-- The contexts of a partition of a package. -/
def partCtxs (s : State) (p tag : Nat) : List Nat :=
  (s.ctxs.filter fun c => !c.2.words.isEmpty && !c.2.dead && c.2.part == tag && ctxOnPkg s p c.1).map Prod.fst
/-- SCAN_SESSION_OPEN (R452): `stopcyc` and `stopen` are the instruments' values. -/
def execScanSessionOpen (pkg tag : Nat) (stopcyc stopen : Nat) (s : State) : Out :=
  let p := s.pkg pkg
  if p.debugLocked || p.scanTag.isSome then .next s
  else if !((partCtxs s pkg tag).all fun c => (s.ctxOf c).dbg) then .next (raiseAlarm s pkg 3)
  else .next (s.modPkg pkg fun x => { x with scanTag := some tag, stopcyc := stopcyc, stopen := stopen, stopAt := none, gatedAt := none })
def stopDue (s : State) (pkg : Nat) : Bool :=
  let p := s.pkg pkg
  p.scanTag.isSome && p.stopAt.isNone && bitOf p.stopen 0 && decide (p.stopcyc ≤ s.cycle)
/-- SCAN_STOP_EVENT (R452): the package cycle count reaches STOPCYC. Sources 1 to 3 stop the run where they occur. -/
def execScanStopEvent (pkg source : Nat) (s : State) : Out :=
  if source = 0 ∧ stopDue s pkg then .next (s.modPkg pkg fun x => { x with stopAt := some s.cycle }) else .next s
def gatingDue (s : State) (pkg : Nat) : Option Nat :=
  match (s.pkg pkg).stopAt, (s.pkg pkg).gatedAt with
  | some e, none => if e + 32 ≤ s.cycle then some e else none
  | _, _ => none
/-- SCAN_GATING (R453): the partition's dies stand still from cycle E + 32, and its contexts count as killed towards
others: level barriers with ranks in it break. -/
def execScanGating (pkg : Nat) (s : State) : Out :=
  match gatingDue s pkg with
  | none => .next s
  | some e =>
    let s := s.modPkg pkg fun x => { x with gatedAt := some (e + 32) }
    .next (breakBars s fun id => gatedDie s (gdOf (id % 2 ^ 32)))
/-- Take the submission entries of a context that have not completed back, to be run again (R454). -/
def reclaimJobs (s : State) (c : Nat) : State :=
  let js := s.jobs.filter fun j => j.2.ctx == c && j.2.doneAt.isNone
  { s with jobs := (s.jobs.filter fun j => !(j.2.ctx == c && j.2.doneAt.isNone)),
           ctxs := Tab.put s.ctxs c { s.ctxOf c with again := (s.ctxOf c).again ++ js.map fun j => j.2.words } }
/-- Kill a context except for its submission entries. -/
def killButJobs (s : State) (c : Nat) : State :=
  let t := killContext (reclaimJobs s c) c
  { t with ctxs := Tab.put t.ctxs c { t.ctxOf c with dead := false } }
/-- A session ends; a gated partition is reset and its entries are taken again. -/
def scanEnd (s : State) (p : Nat) : State :=
  match (s.pkg p).scanTag with
  | none => s
  | some tag =>
    let close (s : State) : State :=
      s.modPkg p fun x => { x with scanTag := none, stopcyc := 0xFFFFFFFFFFFFFFFF, stopen := 0, stopAt := none, gatedAt := none }
    if (s.pkg p).gatedAt.isNone then close s else
    let cs := partCtxs s p tag
    let s1 := cs.foldl reclaimJobs s
    let s2 := resetDies s1 fun gd => pkgOf gd == p && partOf s gd == some tag
    close (cs.foldl killButJobs s2)
/-- SCAN_SESSION_END (R454). -/
def execScanSessionEnd (pkg : Nat) (s : State) : Out := .next (scanEnd s pkg)

/-- DBG_REVOCATION (R394): DBG is cleared; overlays are discarded, halted groups go on unedited, scans end. -/
def execDbgRevocation (ctx : Nat) (s : State) : Out :=
  if !Tab.has s.ctxs ctx then .next s else
  let c := s.ctxOf ctx
  let pkgs := (s.pkgs.filter fun p => p.2.scanTag == some c.part && ctxOnPkg s p.1 ctx).map Prod.fst
  let groups' : Tab Group := s.groups.map fun g => if g.2.ctx = ctx then (g.1, { g.2 with halted := false, overlay := [] }) else g
  let s := { s with ctxs := Tab.put s.ctxs ctx { c with words := c.words.set 2 (c.words.getD 2 0 &&& ~~~(1#32 <<< 19)) }, groups := groups' }
  .next (pkgs.foldl scanEnd s)

end Sys2Proof.Machine
end

