-- ==== Sys2Proof/Machine/Auto.lean ====
section
/-! DEFINITION. What the machine may do next by itself: the issue of an instruction, and every step of the device whose
condition holds. Steps that an outside party takes (the host, the steward, a sensor, a debugger) come from the state's
inputs. The order among several is open (R10, R62, R217; log 1). -/
namespace Sys2Proof.Machine

def doIf (p : Bool) (o : Out) : List Choice := if p then [.done o] else []
/-- Whether a group may take steps of its own: its die is not gated (R453). -/
def grpRuns (s : State) (g : Nat) : Bool := !gatedDie s (gdOf g) || isDcc g

/-! ### Groups (R286, R292 to R294, R327, R329, R345 to R347) -/

def serviceChoices (s : State) (g : Nat) (x : Group) : List Choice :=
  match x.service with
  | some (.dep _ _) => [.done (execTaskDepAnswer g s)]
  | some (.pull _ _ _ until_ _) => doIf (decide (until_ ≤ s.cycle) || (s.teamOf g).draining) (execPullTimeout g s)
  | some (.launch id) => [.done (execLaunchRootAnswer id s)]
  | some _ => (match settleFence s g with
    | some t => [.done (.next t)]
    | none => [])
  | none => []
def backoffChoices (s : State) (g : Nat) : List Choice :=
  (pathsOf s g).flatMap fun p =>
    doIf (pathWaits s g p && (lanesIn p.lanes).all fun l => decide ((s.lane g l).waitUntil ≤ s.cycle)) (execTrapBackoffExpiry g (lowest p.lanes) s)
def groupChoices (s : State) (g : Nat) (x : Group) : List Choice :=
  if !grpRuns s g then [] else
  backoffChoices s g ++ doIf (boundaryReady s g).isSome (execBoundaryTaken g s) ++
    doIf (stalled s g) (execConvergenceFault g s) ++ serviceChoices s g x

/-! ### Accesses (R288, R362, R365, R204, R215, R234, R272, R276) -/

/-- The walks and answers that an access waits for, the failures it meets, and its return. -/
def accChoices (s : State) (id : Nat) (a : Acc) : List Choice :=
  let gd := gdOf a.g
  match a.stage with
  | .issued =>
    (match accHome s a with
     | none => doIf (!raiseHolds s a.asid) (execHlbWalkComplete gd a.asid a.va a.g s)
     | some (h, key, _) =>
       doIf (!raiseHolds s a.asid && !noWay s a.asid gd h && (ctcHit s h a.asid key).isNone) (execCtcWalkComplete h a.asid key a.g s))
  | .missed _ => []
  | .going =>
    let l := a.loc
    if canPerform s id a || arrives s id a then [.done (execRemoteRequest id s)]
    else if !(a.leaf == 0) && !l.host && isDead s l.gd l.page && writeWaits s l.gd l.page && !swapHeld s l.gd l.page then [.done (execDeadPageZeroFill l.gd l.page s)]
    else if homeLost s gd a.home || hostLost s a then [.done (execAccessFailureReturn id (lossCause s a) (Config.freeBool s.tick) s)]
    else if guardOpen s a.asid gd a.home then []
    else match firstDrop s gd a.home with
      | some d => [.done (execGuardDrop id d.2.1 s)]
      | none => []
  | .done =>
    if answerLate s a then [.done (execLateAnswer id s)]
    else if answerDropped s a then (match firstDrop s a.home gd with
      | some d => [.done (execGuardDrop id d.2.1 s)]
      | none => [])
    else if a.ret then doIf ((dstChan a).isNone || rowReady s a) (execLoadReturn id s) else [.done (execWriteAcknowledgement id s)]
  | .failed c => [.done (execAccessFailureReturn id c false s)]
/-- The issues whose translation answer is there. -/
def answerChoices (s : State) : List Choice :=
  (((s.accs.filter fun e => match e.2.stage with
      | .issued => true
      | .missed _ => true
      | _ => false).map fun e => (e.2.g, e.2.hold)).eraseDups).flatMap fun h =>
    doIf ((holdAccs s h.1 h.2).all fun e => accAns s e.2 != .wait) (execTranslationAnswer h.1 h.2 s)

/-! ### Commands and signals -/

/-- The pieces of a bank command that stand first in their banks' queues (R208). -/
def bankChoices (s : State) (id : Nat) : List Choice :=
  s.bankQs.flatMap fun q => match q.2 with
    | [] => []
    | p :: _ => doIf (p.1 == id) (execBankPiece (id * 1024 + q.1 % 1024) s)
/-- The completion of a live command. -/
def endChoice (s : State) (id : Nat) (c : Cmd) : List Choice :=
  match c.op with
  | .mtileLd => [.done (execMtileComplete id s)]
  | .mtileSt => [.done (execMtileComplete id s)]
  | .mwload => [.done (execMwloadComplete id s)]
  | .mwswap => [.done (execMwswapDone id s)]
  | .mma => [.done (execMmaComplete id s)]
  | .mmaSp => [.done (execMmaComplete id s)]
  | .maccZero => [.done (execMaccZeroComplete id s)]
  | .maccRd => [.done (execMaccRdComplete id s)]
  | .mcfg => []
  | .movCpy => [.done (execMoverComplete id s)]
  | .movGth => [.done (execMoverComplete id s)]
  | .movSct => [.done (execMoverComplete id s)]
  | .put => if c.trailing then [.done (execTrailingPutAck id s), .done (execTrailingPutFail id s)] else [.done (execPutGetComplete id s)]
  | .get => [.done (execPutGetComplete id s)]
  | .ratom => [.done (execRatomComplete id s)]
  | .bopAdd => bankChoices s id
  | .bopAxpy => bankChoices s id
  | .bopMax => bankChoices s id
  | .bopCvt => bankChoices s id
  | .bopFill => bankChoices s id
  | .taskPost => [.done (execTaskPostComplete id s)]
  | .launch => [.done (execTaskPostComplete id s)]
  | .tokSend => if c.pos = 0 then [.done (execTokenArrival id s)] else [.done (execTokSendOutcome id s)]
  | .ctxSave => [.done (execCtxSaveComplete id s)]
  | .ctxLoad => [.done (execCtxLoadComplete id s)]
  | _ => []
def cmdChoices (s : State) (id : Nat) (c : Cmd) : List Choice :=
  if c.loading then doIf (!raiseHolds s (c.asid s) && !cmdGated s c) (execStreamLoaderAnswer id s)
  else if c.op == .mcfg then doIf (queueTurn s id c && !cmdGated s c) (execMcfgEffect id s)
  else if !c.started then []
  else if cmdLive s id c then endChoice s id c else []
/-- A flit of a collective arrives at a member: which one is open (R10, R228). -/
def flitChoice (s : State) (p : Nat) (m : Nat × Cmd) : Choice :=
  let r (i : Nat) : Nat := (Config.freeWord (s.tick * 2 ^ 41 + 2 * m.1 + i)).toNat
  .done (execCollectiveFlitArrival m.1 (r 0 % max p 1) (r 1 % max (recvCount m.2 p) 1) s)
/-- Collectives complete or abort by communicator. -/
def collChoices (s : State) : List Choice :=
  (((s.cmds.filter fun c => c.2.op.isColl).map fun c => commKey c.2).eraseDups).flatMap fun k =>
    let ms := members s k
    if !(aborting s k).isEmpty then [.done (execCollectiveAbort k s)]
    else if collLive s ms (ranksOf s k ms) then .done (execCollectiveComplete k s) :: ms.map (flitChoice s ms.length) else []
def sigChoices (s : State) (id : Nat) (x : Sig) : List Choice :=
  doIf (sigReady s x) (if x.task.isSome then execTaskSigDecrement id s else execSemaAddApply id s)
/-- Messages of MGT are never overtaken on their route (R268). -/
def msgChoices (s : State) (id : Nat) (m : MsgRec) : List Choice :=
  if s.msgs.any fun e => decide (e.1 < id) && e.2.msg.ends == m.msg.ends then [] else
  match m.msg with
  | .depDec _ _ _ => [.done (execDependantDecrement id s)]
  | .arrival _ _ _ => [.done (execBarrierArrivalMessage id s)]
  | .grant _ _ => if m.sentAt + 16384 ≤ s.cycle then [.done (execLostGrantReturn id s)] else [.done (execCreditMessage id s)]
  | _ => [.done (execCreditMessage id s)]

/-! ### Dies: dispatch, ranges, Trays, tiers, power -/

def entryChoices (s : State) (e : Nat) (x : Entry) : List Choice :=
  doIf (x.st == .faulted) (execFaultedEntryRelease e s) ++
  doIf (x.st == .ready && x.root && !argsWait s e) (execRangeDistribution e s) ++
  doIf (needsDecision s e) (execTaskDispatch e 0 0 [] s) ++
  doIf (x.drained.any fun t => decide (t ≤ s.cycle)) (execDrainRetake e s)
/-- Steals of a range child's quads, and of its die (R321). -/
def stealChoices (s : State) (e : Nat) (x : Entry) : List Choice :=
  if dType x.words != 0 || x.root || x.parts.length != 4 || !(x.st == .ready || x.st == .running) then [] else
  let gd := e / 16384
  if partsLeft x then
    (List.range 4).flatMap fun q => let p := x.parts.getD q (0, 0)
      doIf (decide (p.2 ≤ p.1) && (baseFor s e x.words (gd * 5 + q)).isSome) (execQuadSteal e (gd * 5 + q) s)
  else doIf (x.parent.toNat != 0xFFFFFFFF) (execDieStealRequest (entryOf x.parent.toNat) gd s)
/-- The next dispatch of a die takes its lowest free slots. -/
def dispatchChoices (s : State) (gd : Nat) : List Choice :=
  match nextPull s gd with
  | some (_, g, e) => doIf (dieRuns s gd) (execPullServed g e s)
  | none => match nextDispatch s gd with
    | none => []
    | some (e, qk, base) =>
      let x := s.entry e
      let slots := lowSlots (readyState s x) qk base (dCores x.words) (dGroups x.words)
      [.done (if dType x.words = 0 ∧ x.saves.isEmpty then execChunkDispatch e qk base slots s else execTaskDispatch e qk base slots s)]
def gatherChoices (s : State) (k : Nat) (r : Rec) : List Choice :=
  doIf (ungathered r && ((Tab.find? s.trays r.tray).bind bufForRow).isSome) (execGatherComplete (k / 65536) (k % 65536) s)
def ringChoices (s : State) (k : Nat) : List Choice :=
  let q := k / 4
  let r := k % 2
  match ringNow s q r with
  | none => []
  | some (j, g) =>
    if j ≠ k ∨ g.slots.isEmpty ∨ gatedDie s (q / 5) then [] else
    doIf (readyRider g).isSome (execReadoutComplete q r s) ++ doIf (!g.preloaded) (execPreloadComplete q r s) ++
      doIf g.preloaded (execBeltSlotActive q r s)
/-- Owned stash lines of teams that have ended, which could not be written back then (R198). -/
def stashChoices (s : State) (k : Nat) : List Choice := doIf (!Tab.has s.teams (k / 2 ^ 14)) (execStashRecall (k / 2 ^ 14) (k % 2 ^ 14) true s)
def tierChoices (s : State) (k : Nat) (t : Tier) : List Choice := doIf t.swapping.isSome (execSwapRemap (k / 2 ^ 19) (k % 2 ^ 19) s)

/-! ### Packages and contexts -/

/-- Whether the next submission entry of a context is a request or reserved: a launch needs the steward's choices, and
comes as an input. -/
def subChoices (s : State) (c : Nat) : List Choice :=
  match nextSub s c with
  | none => []
  | some ws =>
    if (subBad ws).isSome then [.done (execSubmissionReserved c s)]
    else doIf (bitsOf (wordAt ws 0) 31 24 == 2) (execSubmissionRequest c s)
def pkgChoices (s : State) (p : Nat) : List Choice :=
  (s.pkgs.flatMap fun q => doIf (q.1 != p && !(s.pkg p).lostPkgs.contains q.1 && noticed s p q.1) (execLossNotice p q.1 s)) ++
  (s.pkgs.flatMap fun q => doIf (q.1 != p && unanswered s p q.1) (execPeerLossTimeout p q.1 s))

/-! ### What comes before anything else -/

/-- The run limit of a path, starvation, and a continuation in the first cycle in which it can be dispatched (R287, R294,
R327). -/
def groupUrgent (s : State) (g : Nat) (x : Group) : Option Out :=
  if 64 ≤ x.runCount then some (execPathRunLimit g s)
  else if 256 ≤ x.waited ∧ !x.starved then some (execGroupStarved g s)
  else if x.susp.isSome ∧ grpRuns s g ∧ (contReady s g).isSome then some (execContinuationDispatch g s) else none
/-- A command starts in the first cycle in which its wait is met (R39). -/
def cmdUrgent (s : State) (id : Nat) (c : Cmd) : Option Out :=
  if startable s id c ∧ (waitMet s c.ck c.sync).isSome then some (execCommandStart id s) else none
/-- What LSEM brings a waiting entry, the placement of a held part, and the aging of a ready entry (R315, R317, R319). -/
def entryUrgent (s : State) (e : Nat) (x : Entry) : Option Out :=
  let child := dType x.words = 0 ∧ !x.root ∧ x.parent.toNat ≠ 0xFFFFFFFF
  if (x.st = .waiting ∨ x.st = .ready) ∧ x.len ∧ ¬child ∧ launchFlag s e x then some (.next (markFaulted s e))
  else if x.st = .running ∧ (heldReady s x).isSome then some (execHeldPartPlaced e ((heldReady s x).getD 0) s)
  else if x.st = .waiting ∧ x.len ∧ x.dep = 0 ∧ launchOk s e x then some (.next (tryReady s e))
  else if x.st = .ready ∧ !x.root ∧ x.level < 3 ∧ x.since + 65536 ≤ s.cycle then some (execReadyAging e s) else none
/-- A swap that an access has asked for starts; one whose time is over ends (R200, R201). -/
def tierUrgent (s : State) (k : Nat) (t : Tier) : Option Out :=
  if t.asked.isSome then some (execSwapStart (k / 2 ^ 19) (k % 2 ^ 19 * 5 + t.asked.getD 0) s)
  else match t.swapping with
    | some (i, start) => if swapBy t i start ≤ s.cycle then some (execSwapRemap (k / 2 ^ 19) (k % 2 ^ 19) s) else none
    | none => none
/-- The request that a swap held first goes on first (R200). -/
def headUrgent (s : State) : Option Out :=
  match queueHead s with
  | none => none
  | some id => match Tab.find? s.accs id, Tab.find? s.cmds id with
    | some a, _ => if canPerform s id a then some (execRemoteRequest id s) else none
    | none, some c => if cmdLive s id c then (endChoice s id c).findSome? fun x => match x with
        | .done o => some o
        | _ => none else none
    | none, none => none
/-- A task that met an uncorrectable datum is aborted, with the detection (R434). -/
def abortUrgent (s : State) : Option Out :=
  match s.aborts with
  | [] => none
  | x :: _ => let p := abortPlace s x; some (execErrorDetected p.1 p.2.1 p.2.2.1 p.2.2.2 true s)
/-- A tile fires in the cycle of its timer, or in the first in which it may (R323, R324). -/
def trayUrgent (s : State) (k : Nat) (t : Tray) : Option Out :=
  match buildingOf t with
  | none => none
  | some b =>
    if timedOut s k b then some (execTrayTimeout (k / 64) (k % 64) s)
    else if (t.bufs.getD b {}).due ∧ mayFire s k then some (execDeferredTileFire (k / 64) (k % 64) s) else none
/-- What the passing of time brings on a die (R193, R201, R330, R331). -/
def dieUrgent (s : State) (gd : Nat) : Option Out :=
  if epochDue s gd then some (execReplicationEpoch gd s)
  else if decayDue s gd then some (execPageCountDecay gd s)
  else if windowDue s gd then some (execPowerWindow gd (Config.freeWord s.tick).toNat s)
  else if exchangeDue s gd then some (execSidebandExchange gd s)
  else if borrowStale s gd then some (execBorrowTimeout gd s) else none
/-- The stop event of a scan, and its gating (R452, R453). -/
def scanUrgent (s : State) (p : Nat) : Option Out :=
  if stopDue s p then some (execScanStopEvent p 0 s) else if (gatingDue s p).isSome then some (execScanGating p s) else none
def urgent (s : State) : Option Out :=
  (abortUrgent s).orElse fun _ => (s.groups.findSome? fun e => groupUrgent s e.1 e.2).orElse fun _ =>
    (s.cmds.findSome? fun e => cmdUrgent s e.1 e.2).orElse fun _ => (s.entries.findSome? fun e => entryUrgent s e.1 e.2).orElse fun _ =>
      (s.tiers.findSome? fun e => tierUrgent s e.1 e.2).orElse fun _ => (s.trays.findSome? fun e => trayUrgent s e.1 e.2).orElse fun _ =>
        (s.dies.findSome? fun e => dieUrgent s e.1).orElse fun _ => (s.pkgs.findSome? fun e => scanUrgent s e.1).orElse fun _ => headUrgent s

/-- Everything that may come next, beside what an outside party does. -/
def choices (s : State) : List Choice :=
  match urgent s with
  | some o => [.done o]
  | none =>
    issueChoices s ++ (s.groups.flatMap fun e => groupChoices s e.1 e.2) ++ answerChoices s ++ (s.accs.flatMap fun e => accChoices s e.1 e.2) ++
    (s.cmds.flatMap fun e => cmdChoices s e.1 e.2) ++ collChoices s ++ (s.sigs.flatMap fun e => sigChoices s e.1 e.2) ++
    (s.msgs.flatMap fun e => msgChoices s e.1 e.2) ++ (s.entries.flatMap fun e => entryChoices s e.1 e.2 ++ stealChoices s e.1 e.2) ++
    (s.dies.flatMap fun e => dispatchChoices s e.1) ++
    (s.recs.flatMap fun e => gatherChoices s e.1 e.2) ++ (s.rings.flatMap fun e => ringChoices s e.1) ++ (s.stash.flatMap fun e => stashChoices s e.1) ++
    (s.tiers.flatMap fun e => tierChoices s e.1 e.2) ++ (s.raises.flatMap fun e => doIf true (execGenRaisePhaseEnd e.1 s)) ++
    (s.ctxs.flatMap fun e => subChoices s e.1) ++ (s.jobs.flatMap fun e => doIf (e.2.doneAt.isSome && complRoom s e.2.ctx) (execSubmissionComplete e.2.ctx e.1 s)) ++
    (s.queues.flatMap fun e => doIf (queueRuns s e.1 && workWaits s e.1 false != 0) (execEthCompletion e.1 s)) ++ (s.pkgs.flatMap fun e => pkgChoices s e.1)
/-- The one that comes next. -/
def nextChoice (s : State) : Option Choice :=
  match choices s with
  | [] => none
  | [c] => some c
  | c :: cs => some ((c :: cs).getD (Config.pick s.tick % (cs.length + 1)) c)

end Sys2Proof.Machine
end

