-- ==== Sys2Proof/Machine/Count.lean ====
section
/-! DEFINITION. The passing of time: after each step one cycle and an open number more go by; the counters of cycles and
of slots that did not issue advance, and so do the waits of eligible groups (R28, R327, R441, R442; log 1). -/
namespace Sys2Proof.Machine

/-! ### The charged group (R441, R442) -/

/-- The resident groups of a core that are neither suspended nor halted, in the order of R327. -/
def insertOpen (s : State) (g : Nat) : List Nat → List Nat
  | [] => [g]
  | h :: hs => if groupLt s g h then g :: h :: hs else h :: insertOpen s g hs
def openGroups (s : State) (ck : Nat) : List Nat :=
  (s.groups.filter fun e => ckOf e.1 == ck && e.2.susp.isNone && !e.2.halted).foldr (fun e hs => insertOpen s e.1 hs) []
def lowestPath (s : State) (g : Nat) : Option Path :=
  (pathsOf s g).foldl (fun (b : Option Path) p => match b with
    | none => some p
    | some q => if placeLt p q then some p else some q) none
/-- Why a group's path does not issue. Where only a latency holds it, which of B_DEP, B_MEM and B_CLASS counts is open
(log 12). -/
def blockedBy (s : State) (g : Nat) : Nat :=
  let x := s.grp g
  let stands (p : Stand → Bool) : Bool := (lanesIn x.active).any fun l => p (s.lane g l).stand
  match x.service with
  | some (.accesses _ _) => 26
  | some (.commands _ _) => 26
  | some _ => 27
  | none =>
    match lowestPath s g with
    | none => if stands fun d => d == .held || d == .full then 28 else if x.parked.isEmpty then 31 else 30
    | some p =>
      if pathWaits s g p then 29 else
      match instrAt s g p.pc p.mac with
      | none => 21 + Config.pick s.tick % 3
      | some i =>
        if instrBusy s g p.lanes i then 22
        else if !chansReady s g p.lanes i then 24
        else match i with
          | .tokNext _ => 25
          | .mtileHdr d _ => if hdrWaits s g d.toNat then 27 else 21 + Config.pick s.tick % 3
          | _ => if raiseWait s g i then 28 else 21 + Config.pick s.tick % 3
/-- The counters that one slot adds to, with the group slot charged (32 for none). `skip` is the group that the other
slot selected. -/
def slotCharge (s : State) (ck : Nat) (skip : Option Nat) : List (Nat × Nat) :=
  match openGroups s ck with
  | [] => [(3, 32)]
  | gs => match gs.filter fun g => some g != skip with
    | [] => [(4, 32), (32, 32)]
    | g :: _ => [(4, slotOf g), (blockedBy s g, slotOf g)]

/-! ### Counting -/

/-- Add to a counter and to the programmable counters that follow it under given selections. -/
def Pmc.count (p : Pmc) (sel : Tab Word) (ev slot n : Nat) : Pmc :=
  if n = 0 then p else
  (List.range 7).foldl (fun (p : Pmc) j => if selCounts (Tab.get sel j 0) ev slot then p.bump (56 + j) n else p) (p.bump ev n)
/-- Count cycles: a selection filtered by a group slot counts while that slot holds a group (R443). -/
def Pmc.countCycles (p : Pmc) (s : State) (ck : Nat) (sel : Tab Word) (n : Nat) : Pmc :=
  if n = 0 then p else
  (List.range 7).foldl (fun (p : Pmc) j =>
    let w : Word := Tab.get sel j 0
    if bitOf w.toNat 31 && bitsOf w.toNat 5 0 == 0 && (!bitOf w.toNat 21 || Tab.has s.groups (ck * 32 + bitsOf w.toNat 20 16)) then p.bump (56 + j) n else p)
    (p.bump 0 n)
/-- A counter that software wrote in a cycle keeps the written value; a wrap that the cycle's events would have caused
still sets its overflow bit (R445). -/
def keepWritten (before counted after : Pmc) : Pmc :=
  after.written.foldl (fun (p : Pmc) i =>
    let inc := (Tab.get counted.cnt i 0 + two48 - Tab.get before.cnt i 0) % two48
    let v := Tab.get after.cnt i 0
    let p : Pmc := { p with cnt := Tab.set p.cnt 0 i v }
    if two48 ≤ Tab.get before.cnt i 0 + inc then { p with ovf := p.ovf ||| 2 ^ i } else p) { after with written := [] }
/-- The cycles of a range that a throttle level withholds. -/
def withheldIn (theta a b : Nat) : Nat :=
  let f (x : Nat) : Nat := x / 4 * theta + min (x % 4) theta
  f b - f a
/-- The first cycle of a step on a core: s is the state before the step, t the one after it. -/
def firstCycle (s t : State) (ck : Nat) : Pmc :=
  let p := t.pmc ck
  let sel := (s.pmc ck).sel
  let issued := Tab.get p.cnt 1 0 != Tab.get (s.pmc ck).cnt 1 0
  let charges := if issued then slotCharge s ck (some t.cur.g)
    else if withheld s ck then [(2, 32), (2, 32)] else slotCharge s ck none ++ slotCharge s ck none
  let q := charges.foldl (fun (p : Pmc) c => p.count sel c.1 c.2 1) (p.countCycles s ck sel 1)
  if p.written.isEmpty then q else keepWritten (s.pmc ck) ((charges.foldl (fun (p : Pmc) c => p.count sel c.1 c.2 1) ((s.pmc ck).countCycles s ck sel 1))) q
/-- n further cycles on a core, from cycle a. -/
def moreCycles (t : State) (ck a n : Nat) (p : Pmc) : Pmc :=
  let tested := t.tests.any fun x => x.1 / 2 ^ 32 == gdOfCk ck && x.2.unit == 0x0D && x.2.index == coreOfCk ck
  let w := if tested then n else if coreOfCk ck = 16 then 0 else withheldIn (Tab.get t.powers (gdOfCk ck) {}).theta a (a + n)
  let p := (p.countCycles t ck p.sel n).count p.sel 2 32 (2 * w)
  (slotCharge t ck none).foldl (fun (p : Pmc) c => p.count p.sel c.1 c.2 (2 * (n - w))) p
/-- The counters of every core of the dies that run. -/
def countCores (s t : State) (n : Nat) : State :=
  (t.dies.filter fun d => d.2.up && !gatedDie t d.1).foldl (fun u d =>
    (List.range 17).foldl (fun u c =>
      let ck := d.1 * 17 + c
      { u with pmcs := Tab.set u.pmcs {} ck (moreCycles t ck (s.cycle + 1) (n - 1) (firstCycle s t ck)) }) u) t
/-- Open cycles of a group's core in a range. -/
def openCycles (t : State) (g a n : Nat) : Nat :=
  if isDcc g then n else n - withheldIn (Tab.get t.powers (gdOf g) {}).theta a (a + n)
/-- The waits of groups that were eligible and did not issue (R327). -/
def addWaits (s t : State) (n : Nat) : State :=
  let groups' : Tab Group := t.groups.map fun e =>
    let x := s.grp e.1
    if Tab.has s.groups e.1 && x.issues == e.2.issues && e.2.susp.isNone && !(eligible s e.1).isEmpty then
      (e.1, { e.2 with waited := e.2.waited + openCycles t e.1 s.cycle n }) else e
  { t with groups := groups' }
/-- Time passes between a step's start state and its end. The operation of a macro entry issues with its entry (R58). -/
def passTime (s t : State) : State :=
  if !t.agenda.isEmpty then { t with cycle := s.cycle, tick := s.tick + 1 } else
  let n := 1 + Config.elapsed s.tick
  let u := countCores s (addWaits s t n) n
  { u with cycle := s.cycle + n, tick := s.tick + 1 }
/-- What a step's outcome becomes once time has passed. -/
def timed (s : State) (o : Out) : Out :=
  match o with
  | .next t => .next (passTime s t)
  | .fault f => .fault f
  | .refused r => .refused r
/-- An outside step that is due: its row, and the state without it. -/
def dueInput (s : State) : Option (Instr × State) :=
  match s.inputs with
  | [] => none
  | x :: xs => if x.1 ≤ s.cycle then some (x.2, { s with inputs := xs }) else none

/-! ### A program from outside (log 32) -/

/-- The bytes of a small address space of die 0: a home map and a frame map in which the first 64 KiB page of ASID 1 is
page 6, readable and executable, under generation 1; and two words of code at byte 0x1000 of it. -/
def programBytes (w : Nat) : List (Nat × List Nat) :=
  [(0x4000, leBytes (2 * 2 ^ 35 + 1) 8), (0x8000, leBytes (3 * 2 ^ 35 + 1) 8), (0xC000, leBytes 2 8),
   (0x10000, leBytes (2 ^ 43 + 0x20000) 8), (0x20000, leBytes (2 ^ 43 + 0x30000) 8), (0x30000, leBytes (2 ^ 43 + 0x40000) 8),
   (0x40000, leBytes (2 ^ 43 + 0x50000) 8), (0x50000, leBytes (2 ^ 52 + 2 ^ 50 + 11 * 2 ^ 43 + 6) 8), (0x61000, leBytes w 8)]
def programDesc : Desc := { curgen := 1, hmroot := 0x0000000800000001#64, fmroot := 0x0000080000010000#64 }
/-- Context 1: ASID 1, key slot 2, a handler at 0x8000, every block of semaphores. -/
def programCtx : Ctx :=
  { words := [0, 0x00010000#32, 0x0000FFFF#32, 2, 0x00008000#32, 0, 0, 0, 0, 0, 0, 0, 0, 0, 0, 0], codes := [(0x1000, 0x1000)] }
/-- A RANGE task of one iteration, in one group of four banks. -/
def programEntry : Entry :=
  { words := [0x02020100#32, 0x00010000#32, 0x00001000#32, 0, 0, 0, 0, 0, 0, 1, 0, 0, 0, 0, 0, 0], ctx := 1, st := .running, running := 1 }
def programTeam : Team := { task := 0, ctx := 1, gd := 0, quad := 0, base := 0, cores := 1, win := 16384, groups := [0] }
/-- A machine that runs one lane of one group on core 0 of die 0, with two words of code at its program counter; what
else a step could do first is taken away. -/
def placeProgram (s : State) (w : Nat) : State :=
  let mem' := (programBytes w).foldl (fun m b => setBytes m b.1 b.2) s.mem
  { s with agenda := [], inputs := [], cycle := 0, lanes := [(0, { pc := 0x1000#56 })],
           groups := [(0, { task := 0, ctx := 1, team := 1, banks := 4, active := 1#64 })], teams := [(1, programTeam)],
           entries := [(0, programEntry)], ctxs := [(1, programCtx)], descs := [(1, programDesc)], dies := [(0, { up := true })],
           pkgs := [(0, { booted := true })], grants := [(0, { task := 0 })], mem := mem', dead := [], bad := [], stamps := [],
           accs := [], cmds := [], sigs := [], msgs := [], trays := [], recs := [], rings := [], counts := [], tiers := [], tests := [],
           powers := [], raises := [], jobs := [], queues := [], l1 := [], l1sets := [], l1pred := [], rights := [], l2 := [], bankQs := [], hlb := [], ctc := [],
           aborts := [], wbFails := [], stash := [], nextId := 2 }

end Sys2Proof.Machine
end

