-- ==== Sys2Proof/Machine/Dispatch.lean ====
section
/-! DEFINITION. What each row of spec/opcode_table.json does: one call of its meaning. -/
namespace Sys2Proof.Machine

def exec (i : Instr) (s : State) : Host.Outcome State Fault Refusal :=
  match i with
  | .nop => Sys2Proof.Machine.execNop s
  | .mov d a => Sys2Proof.Machine.execMov d a s
  | .sel d a b => Sys2Proof.Machine.execSel d a b s
  | .add d a b => Sys2Proof.Machine.execAdd d a b s
  | .sub d a b => Sys2Proof.Machine.execSub d a b s
  | .mul d a b => Sys2Proof.Machine.execMul d a b s
  | .mulh d a b => Sys2Proof.Machine.execMulh d a b s
  | .mulw d a b => Sys2Proof.Machine.execMulw d a b s
  | .mad d a b => Sys2Proof.Machine.execMad d a b s
  | .div d a b => Sys2Proof.Machine.execDiv d a b s
  | .rem d a b => Sys2Proof.Machine.execRem d a b s
  | .imin d a b => Sys2Proof.Machine.execImin d a b s
  | .imax d a b => Sys2Proof.Machine.execImax d a b s
  | .abs d a => Sys2Proof.Machine.execAbs d a s
  | .neg d a => Sys2Proof.Machine.execNeg d a s
  | .add64 d a b => Sys2Proof.Machine.execAdd64 d a b s
  | .sub64 d a b => Sys2Proof.Machine.execSub64 d a b s
  | .bAnd d a b => Sys2Proof.Machine.execBAnd d a b s
  | .bOr d a b => Sys2Proof.Machine.execBOr d a b s
  | .bXor d a b => Sys2Proof.Machine.execBXor d a b s
  | .bNot d a => Sys2Proof.Machine.execBNot d a s
  | .andn d a b => Sys2Proof.Machine.execAndn d a b s
  | .shl d a b => Sys2Proof.Machine.execShl d a b s
  | .shr d a b => Sys2Proof.Machine.execShr d a b s
  | .sar d a b => Sys2Proof.Machine.execSar d a b s
  | .rot d a b => Sys2Proof.Machine.execRot d a b s
  | .popc d a => Sys2Proof.Machine.execPopc d a s
  | .clz d a => Sys2Proof.Machine.execClz d a s
  | .ctz d a => Sys2Proof.Machine.execCtz d a s
  | .brev d a => Sys2Proof.Machine.execBrev d a s
  | .bfx d a b => Sys2Proof.Machine.execBfx d a b s
  | .bfi d a b => Sys2Proof.Machine.execBfi d a b s
  | .bmix d a b => Sys2Proof.Machine.execBmix d a b s
  | .lea d a b => Sys2Proof.Machine.execLea d a b s
  | .lea64 d a b => Sys2Proof.Machine.execLea64 d a b s
  | .cmpEq d a b => Sys2Proof.Machine.execCmpEq d a b s
  | .cmpNe d a b => Sys2Proof.Machine.execCmpNe d a b s
  | .cmpLt d a b => Sys2Proof.Machine.execCmpLt d a b s
  | .cmpLe d a b => Sys2Proof.Machine.execCmpLe d a b s
  | .cmpGt d a b => Sys2Proof.Machine.execCmpGt d a b s
  | .cmpGe d a b => Sys2Proof.Machine.execCmpGe d a b s
  | .pand d a b => Sys2Proof.Machine.execPand d a b s
  | .por d a b => Sys2Proof.Machine.execPor d a b s
  | .pxor d a b => Sys2Proof.Machine.execPxor d a b s
  | .pnot d a => Sys2Proof.Machine.execPnot d a s
  | .p2v d => Sys2Proof.Machine.execP2v d s
  | .v2p a => Sys2Proof.Machine.execV2p a s
  | .xchIdx d a b => Sys2Proof.Machine.execXchIdx d a b s
  | .xchXor d a b => Sys2Proof.Machine.execXchXor d a b s
  | .xchUp d a b => Sys2Proof.Machine.execXchUp d a b s
  | .xchDn d a b => Sys2Proof.Machine.execXchDn d a b s
  | .lnany d a => Sys2Proof.Machine.execLnany d a s
  | .lnall d a => Sys2Proof.Machine.execLnall d a s
  | .lnmask d a => Sys2Proof.Machine.execLnmask d a s
  | .rdlane d a b => Sys2Proof.Machine.execRdlane d a b s
  | .wrlane d a b => Sys2Proof.Machine.execWrlane d a b s
  | .iredAdd d a => Sys2Proof.Machine.execIredAdd d a s
  | .iredMin d a => Sys2Proof.Machine.execIredMin d a s
  | .iredMax d a => Sys2Proof.Machine.execIredMax d a s
  | .iscanAdd d a => Sys2Proof.Machine.execIscanAdd d a s
  | .lneq d a => Sys2Proof.Machine.execLneq d a s
  | .fadd d a b => Sys2Proof.Machine.execFadd d a b s
  | .fsub d a b => Sys2Proof.Machine.execFsub d a b s
  | .fmul d a b => Sys2Proof.Machine.execFmul d a b s
  | .fma d a b => Sys2Proof.Machine.execFma d a b s
  | .fms d a b => Sys2Proof.Machine.execFms d a b s
  | .fnma d a b => Sys2Proof.Machine.execFnma d a b s
  | .fmin d a b => Sys2Proof.Machine.execFmin d a b s
  | .fmax d a b => Sys2Proof.Machine.execFmax d a b s
  | .fabs d a => Sys2Proof.Machine.execFabs d a s
  | .fneg d a => Sys2Proof.Machine.execFneg d a s
  | .fcmpEq d a b => Sys2Proof.Machine.execFcmpEq d a b s
  | .fcmpNe d a b => Sys2Proof.Machine.execFcmpNe d a b s
  | .fcmpLt d a b => Sys2Proof.Machine.execFcmpLt d a b s
  | .fcmpLe d a b => Sys2Proof.Machine.execFcmpLe d a b s
  | .fcmpUn d a b => Sys2Proof.Machine.execFcmpUn d a b s
  | .fclass d a => Sys2Proof.Machine.execFclass d a s
  | .frcp d a => Sys2Proof.Machine.execFrcp d a s
  | .frsq d a => Sys2Proof.Machine.execFrsq d a s
  | .fsqrt d a => Sys2Proof.Machine.execFsqrt d a s
  | .fdiv d a b => Sys2Proof.Machine.execFdiv d a b s
  | .fexp2 d a => Sys2Proof.Machine.execFexp2 d a s
  | .flog2 d a => Sys2Proof.Machine.execFlog2 d a s
  | .fsin d a => Sys2Proof.Machine.execFsin d a s
  | .fcos d a => Sys2Proof.Machine.execFcos d a s
  | .ftanh d a => Sys2Proof.Machine.execFtanh d a s
  | .fsigm d a => Sys2Proof.Machine.execFsigm d a s
  | .frnd d a => Sys2Proof.Machine.execFrnd d a s
  | .fdot2 d a b => Sys2Proof.Machine.execFdot2 d a b s
  | .fdot4 d a b => Sys2Proof.Machine.execFdot4 d a b s
  | .idot4 d a b => Sys2Proof.Machine.execIdot4 d a b s
  | .cvtF2i d a => Sys2Proof.Machine.execCvtF2i d a s
  | .cvtI2f d a => Sys2Proof.Machine.execCvtI2f d a s
  | .cvtUpLo d a => Sys2Proof.Machine.execCvtUpLo d a s
  | .cvtUpHi d a => Sys2Proof.Machine.execCvtUpHi d a s
  | .cvtDn d a b => Sys2Proof.Machine.execCvtDn d a b s
  | .cvtDn4 d a b => Sys2Proof.Machine.execCvtDn4 d a b s
  | .qblk d a => Sys2Proof.Machine.execQblk d a s
  | .dqblk d a b => Sys2Proof.Machine.execDqblk d a b s
  | .nibpk d a b => Sys2Proof.Machine.execNibpk d a b s
  | .fredAdd d a => Sys2Proof.Machine.execFredAdd d a s
  | .fredMax d a => Sys2Proof.Machine.execFredMax d a s
  | .fscanAdd d a => Sys2Proof.Machine.execFscanAdd d a s
  | .argmax d a b => Sys2Proof.Machine.execArgmax d a b s
  | .rand d => Sys2Proof.Machine.execRand d s
  | .randf d => Sys2Proof.Machine.execRandf d s
  | .smxup d a => Sys2Proof.Machine.execSmxup d a s
  | .mcolAlloc d a b => Sys2Proof.Machine.execMcolAlloc d a b s
  | .mcolFree d => Sys2Proof.Machine.execMcolFree d s
  | .mtileLd d a b sync => Sys2Proof.Machine.execMtileLd d a b sync s
  | .mtileSt d a b sync => Sys2Proof.Machine.execMtileSt d a b sync s
  | .mtileHdr d a => Sys2Proof.Machine.execMtileHdr d a s
  | .mwload d a sync => Sys2Proof.Machine.execMwload d a sync s
  | .mwswap d sync => Sys2Proof.Machine.execMwswap d sync s
  | .mma d a b sync => Sys2Proof.Machine.execMma d a b sync s
  | .mmaSp d a b sync => Sys2Proof.Machine.execMmaSp d a b sync s
  | .maccZero d a sync => Sys2Proof.Machine.execMaccZero d a sync s
  | .maccRd d a b sync => Sys2Proof.Machine.execMaccRd d a b sync s
  | .mcfg a => Sys2Proof.Machine.execMcfg a s
  | .ld d a b => Sys2Proof.Machine.execLd d a b s
  | .ldX2 d a b => Sys2Proof.Machine.execLdX2 d a b s
  | .ldX4 d a b => Sys2Proof.Machine.execLdX4 d a b s
  | .st d a b => Sys2Proof.Machine.execSt d a b s
  | .stX2 d a b => Sys2Proof.Machine.execStX2 d a b s
  | .stX4 d a b => Sys2Proof.Machine.execStX4 d a b s
  | .lds d a b => Sys2Proof.Machine.execLds d a b s
  | .ldsX4 d a b => Sys2Proof.Machine.execLdsX4 d a b s
  | .sts d a b => Sys2Proof.Machine.execSts d a b s
  | .stsX4 d a b => Sys2Proof.Machine.execStsX4 d a b s
  | .ldAcq d a b => Sys2Proof.Machine.execLdAcq d a b s
  | .stRel d a b => Sys2Proof.Machine.execStRel d a b s
  | .atomAdd d a b => Sys2Proof.Machine.execAtomAdd d a b s
  | .atomMin d a b => Sys2Proof.Machine.execAtomMin d a b s
  | .atomMax d a b => Sys2Proof.Machine.execAtomMax d a b s
  | .atomAnd d a b => Sys2Proof.Machine.execAtomAnd d a b s
  | .atomOr d a b => Sys2Proof.Machine.execAtomOr d a b s
  | .atomXor d a b => Sys2Proof.Machine.execAtomXor d a b s
  | .atomXchg d a b => Sys2Proof.Machine.execAtomXchg d a b s
  | .atomCas d a b => Sys2Proof.Machine.execAtomCas d a b s
  | .atomFadd d a b => Sys2Proof.Machine.execAtomFadd d a b s
  | .redAdd a b => Sys2Proof.Machine.execRedAdd a b s
  | .atomsAdd d a b => Sys2Proof.Machine.execAtomsAdd d a b s
  | .atomsCas d a b => Sys2Proof.Machine.execAtomsCas d a b s
  | .fence => Sys2Proof.Machine.execFence s
  | .fenceBank => Sys2Proof.Machine.execFenceBank s
  | .stashMap d a b => Sys2Proof.Machine.execStashMap d a b s
  | .stashWb a b => Sys2Proof.Machine.execStashWb a b s
  | .stashInv a b => Sys2Proof.Machine.execStashInv a b s
  | .mdead a => Sys2Proof.Machine.execMdead a s
  | .pref a b => Sys2Proof.Machine.execPref a b s
  | .movCpy d a b sync => Sys2Proof.Machine.execMovCpy d a b sync s
  | .movGth d a b sync => Sys2Proof.Machine.execMovGth d a b sync s
  | .movSct d a b sync => Sys2Proof.Machine.execMovSct d a b sync s
  | .putCmd d a b sync => Sys2Proof.Machine.execPutCmd d a b sync s
  | .getCmd d a b sync => Sys2Proof.Machine.execGetCmd d a b sync s
  | .ratom d a b sync => Sys2Proof.Machine.execRatom d a b sync s
  | .bopAdd d a b sync => Sys2Proof.Machine.execBopAdd d a b sync s
  | .bopAxpy d a b sync => Sys2Proof.Machine.execBopAxpy d a b sync s
  | .bopMax d a b sync => Sys2Proof.Machine.execBopMax d a b sync s
  | .bopCvt d a b sync => Sys2Proof.Machine.execBopCvt d a b sync s
  | .bopFill d b sync => Sys2Proof.Machine.execBopFill d b sync s
  | .collAr d a b sync => Sys2Proof.Machine.execCollAr d a b sync s
  | .collAg d a b sync => Sys2Proof.Machine.execCollAg d a b sync s
  | .collRs d a b sync => Sys2Proof.Machine.execCollRs d a b sync s
  | .collA2a d a b sync => Sys2Proof.Machine.execCollA2a d a b sync s
  | .collBc d a b sync => Sys2Proof.Machine.execCollBc d a b sync s
  | .mode l => Sys2Proof.Machine.execMode l s
  | .lit l => Sys2Proof.Machine.execLit l s
  | .lith l => Sys2Proof.Machine.execLith l s
  | .bra l => Sys2Proof.Machine.execBra l s
  | .call l => Sys2Proof.Machine.execCall l s
  | .ret => Sys2Proof.Machine.execRet s
  | .jmp a => Sys2Proof.Machine.execJmp a s
  | .cbarSet d => Sys2Proof.Machine.execCbarSet d s
  | .cbarWait d => Sys2Proof.Machine.execCbarWait d s
  | .callm d a b => Sys2Proof.Machine.execCallm d a b s
  | .mstore a b => Sys2Proof.Machine.execMstore a b s
  | .suspGroup l sync => Sys2Proof.Machine.execSuspGroup l sync s
  | .syncGroup l sync => Sys2Proof.Machine.execSyncGroup l sync s
  | .arrive d => Sys2Proof.Machine.execArrive d s
  | .endGroup sync => Sys2Proof.Machine.execEndGroup sync s
  | .yieldGroup => Sys2Proof.Machine.execYieldGroup s
  | .chOpen d a => Sys2Proof.Machine.execChOpen d a s
  | .chClose d a => Sys2Proof.Machine.execChClose d a s
  | .semaAdd d a => Sys2Proof.Machine.execSemaAdd d a s
  | .semaRd d a => Sys2Proof.Machine.execSemaRd d a s
  | .taskPost d a b sync => Sys2Proof.Machine.execTaskPost d a b sync s
  | .taskDep a b => Sys2Proof.Machine.execTaskDep a b s
  | .taskSig a b => Sys2Proof.Machine.execTaskSig a b s
  | .taskPull d a b => Sys2Proof.Machine.execTaskPull d a b s
  | .launch d a b sync => Sys2Proof.Machine.execLaunch d a b sync s
  | .tokNew d a => Sys2Proof.Machine.execTokNew d a s
  | .tokRd d a b => Sys2Proof.Machine.execTokRd d a b s
  | .tokWr d a b => Sys2Proof.Machine.execTokWr d a b s
  | .tokNext a => Sys2Proof.Machine.execTokNext a s
  | .tokSend a b sync => Sys2Proof.Machine.execTokSend a b sync s
  | .tokRet a => Sys2Proof.Machine.execTokRet a s
  | .trap l => Sys2Proof.Machine.execTrap l s
  | .rte => Sys2Proof.Machine.execRte s
  | .sregRd d a => Sys2Proof.Machine.execSregRd d a s
  | .sregWr a b => Sys2Proof.Machine.execSregWr a b s
  | .opreg d a => Sys2Proof.Machine.execOpreg d a s
  | .beltSet d a => Sys2Proof.Machine.execBeltSet d a s
  | .traySet d a => Sys2Proof.Machine.execTraySet d a s
  | .genRaise d a => Sys2Proof.Machine.execGenRaise d a s
  | .ctxSave d a b sync => Sys2Proof.Machine.execCtxSave d a b sync s
  | .ctxLoad d a b sync => Sys2Proof.Machine.execCtxLoad d a b sync s
  | .halt => Sys2Proof.Machine.execHalt s
  | .census d a b => Sys2Proof.Machine.execCensus d a b s
  | .pmcSnap d => Sys2Proof.Machine.execPmcSnap d s
  | .illegalOpcode w => Sys2Proof.Machine.execIllegalOpcode w s
  | .storeEntryExec => Sys2Proof.Machine.execStoreEntryExec s
  | .trapBackoffExpiry g lane => Sys2Proof.Machine.execTrapBackoffExpiry g lane s
  | .pathRunLimit g => Sys2Proof.Machine.execPathRunLimit g s
  | .groupStarved g => Sys2Proof.Machine.execGroupStarved g s
  | .translationAnswer g h => Sys2Proof.Machine.execTranslationAnswer g h s
  | .loadReturn acc => Sys2Proof.Machine.execLoadReturn acc s
  | .accessFailureReturn acc cause performed => Sys2Proof.Machine.execAccessFailureReturn acc cause performed s
  | .boundaryTaken g => Sys2Proof.Machine.execBoundaryTaken g s
  | .continuationDispatch g => Sys2Proof.Machine.execContinuationDispatch g s
  | .convergenceFault g => Sys2Proof.Machine.execConvergenceFault g s
  | .commandStart cmd => Sys2Proof.Machine.execCommandStart cmd s
  | .semaAddApply sig => Sys2Proof.Machine.execSemaAddApply sig s
  | .mtileComplete cmd => Sys2Proof.Machine.execMtileComplete cmd s
  | .mwloadComplete cmd => Sys2Proof.Machine.execMwloadComplete cmd s
  | .mwswapDone cmd => Sys2Proof.Machine.execMwswapDone cmd s
  | .mmaComplete cmd => Sys2Proof.Machine.execMmaComplete cmd s
  | .maccZeroComplete cmd => Sys2Proof.Machine.execMaccZeroComplete cmd s
  | .maccRdComplete cmd => Sys2Proof.Machine.execMaccRdComplete cmd s
  | .mcfgEffect cmd => Sys2Proof.Machine.execMcfgEffect cmd s
  | .moverComplete cmd => Sys2Proof.Machine.execMoverComplete cmd s
  | .putGetComplete cmd => Sys2Proof.Machine.execPutGetComplete cmd s
  | .ratomComplete cmd => Sys2Proof.Machine.execRatomComplete cmd s
  | .bankPiece cmd => Sys2Proof.Machine.execBankPiece cmd s
  | .collectiveComplete comm => Sys2Proof.Machine.execCollectiveComplete comm s
  | .collectiveAbort comm => Sys2Proof.Machine.execCollectiveAbort comm s
  | .taskPostComplete cmd => Sys2Proof.Machine.execTaskPostComplete cmd s
  | .launchRootAnswer cmd => Sys2Proof.Machine.execLaunchRootAnswer cmd s
  | .tokenArrival cmd => Sys2Proof.Machine.execTokenArrival cmd s
  | .tokSendOutcome cmd => Sys2Proof.Machine.execTokSendOutcome cmd s
  | .ctxSaveComplete cmd => Sys2Proof.Machine.execCtxSaveComplete cmd s
  | .ctxLoadComplete cmd => Sys2Proof.Machine.execCtxLoadComplete cmd s
  | .dependantDecrement msg => Sys2Proof.Machine.execDependantDecrement msg s
  | .trailingPutAck cmd => Sys2Proof.Machine.execTrailingPutAck cmd s
  | .trailingPutFail cmd => Sys2Proof.Machine.execTrailingPutFail cmd s
  | .faultedEntryRelease e => Sys2Proof.Machine.execFaultedEntryRelease e s
  | .readyAging e => Sys2Proof.Machine.execReadyAging e s
  | .taskDispatch e quad base slots => Sys2Proof.Machine.execTaskDispatch e quad base slots s
  | .drainRetake e => Sys2Proof.Machine.execDrainRetake e s
  | .taskKill e => Sys2Proof.Machine.execTaskKill e s
  | .pullServed g e => Sys2Proof.Machine.execPullServed g e s
  | .pullTimeout g => Sys2Proof.Machine.execPullTimeout g s
  | .rangeDistribution e => Sys2Proof.Machine.execRangeDistribution e s
  | .heldPartPlaced root part => Sys2Proof.Machine.execHeldPartPlaced root part s
  | .chunkDispatch e quad base slots => Sys2Proof.Machine.execChunkDispatch e quad base slots s
  | .quadSteal e quad => Sys2Proof.Machine.execQuadSteal e quad s
  | .dieStealRequest root gd => Sys2Proof.Machine.execDieStealRequest root gd s
  | .gatherComplete gd slot => Sys2Proof.Machine.execGatherComplete gd slot s
  | .trayTimeout gd tray => Sys2Proof.Machine.execTrayTimeout gd tray s
  | .deferredTileFire gd tray => Sys2Proof.Machine.execDeferredTileFire gd tray s
  | .beltSlotActive q r => Sys2Proof.Machine.execBeltSlotActive q r s
  | .preloadComplete q r => Sys2Proof.Machine.execPreloadComplete q r s
  | .readoutComplete q r => Sys2Proof.Machine.execReadoutComplete q r s
  | .submissionLaunch ctx frames => Sys2Proof.Machine.execSubmissionLaunch ctx frames s
  | .submissionRequest ctx => Sys2Proof.Machine.execSubmissionRequest ctx s
  | .submissionReserved ctx => Sys2Proof.Machine.execSubmissionReserved ctx s
  | .submissionComplete ctx job => Sys2Proof.Machine.execSubmissionComplete ctx job s
  | .doorbellWrite ctx n w => Sys2Proof.Machine.execDoorbellWrite ctx n w s
  | .cxlMemRead ctx va => Sys2Proof.Machine.execCxlMemRead ctx va s
  | .cxlMemWrite ctx va bytes => Sys2Proof.Machine.execCxlMemWrite ctx va bytes s
  | .hostSnoop hpa => Sys2Proof.Machine.execHostSnoop hpa s
  | .cxlLinkDown pkg => Sys2Proof.Machine.execCxlLinkDown pkg s
  | .remoteRequest acc => Sys2Proof.Machine.execRemoteRequest acc s
  | .stashRecall team line write => Sys2Proof.Machine.execStashRecall team line write s
  | .flitCrcError gd port => Sys2Proof.Machine.execFlitCrcError gd port s
  | .guardDrop acc port => Sys2Proof.Machine.execGuardDrop acc port s
  | .ualinkBadTransaction station kind => Sys2Proof.Machine.execUalinkBadTransaction station kind s
  | .ualinkPortDown seer pkg => Sys2Proof.Machine.execUalinkPortDown seer pkg s
  | .peerLossTimeout seer pkg => Sys2Proof.Machine.execPeerLossTimeout seer pkg s
  | .dieSilenceLoss gd => Sys2Proof.Machine.execDieSilenceLoss gd s
  | .lossNotice seer pkg => Sys2Proof.Machine.execLossNotice seer pkg s
  | .lateAnswer acc => Sys2Proof.Machine.execLateAnswer acc s
  | .ethCompletion qp => Sys2Proof.Machine.execEthCompletion qp s
  | .ethRetryExhausted qp => Sys2Proof.Machine.execEthRetryExhausted qp s
  | .hlbWalkComplete gd asid va req => Sys2Proof.Machine.execHlbWalkComplete gd asid va req s
  | .ctcWalkComplete gd asid key req => Sys2Proof.Machine.execCtcWalkComplete gd asid key req s
  | .fresWrite gd w => Sys2Proof.Machine.execFresWrite gd w s
  | .streamLoaderAnswer cmd => Sys2Proof.Machine.execStreamLoaderAnswer cmd s
  | .genRaisePhaseEnd asid => Sys2Proof.Machine.execGenRaisePhaseEnd asid s
  | .replicationEpoch gd => Sys2Proof.Machine.execReplicationEpoch gd s
  | .pageCountDecay gd => Sys2Proof.Machine.execPageCountDecay gd s
  | .swapStart gd page => Sys2Proof.Machine.execSwapStart gd page s
  | .swapRemap gd group => Sys2Proof.Machine.execSwapRemap gd group s
  | .deadPageZeroFill gd page => Sys2Proof.Machine.execDeadPageZeroFill gd page s
  | .powerWindow gd est => Sys2Proof.Machine.execPowerWindow gd est s
  | .sidebandExchange gd => Sys2Proof.Machine.execSidebandExchange gd s
  | .creditMessage msg => Sys2Proof.Machine.execCreditMessage msg s
  | .lostGrantReturn msg => Sys2Proof.Machine.execLostGrantReturn msg s
  | .borrowTimeout gd => Sys2Proof.Machine.execBorrowTimeout gd s
  | .thermalHigh gd => Sys2Proof.Machine.execThermalHigh gd s
  | .thermalRecover gd => Sys2Proof.Machine.execThermalRecover gd s
  | .thermalTamper gd => Sys2Proof.Machine.execThermalTamper gd s
  | .glitchAlarm pkg => Sys2Proof.Machine.execGlitchAlarm pkg s
  | .debugAuthFail pkg => Sys2Proof.Machine.execDebugAuthFail pkg s
  | .regulationFail gd => Sys2Proof.Machine.execRegulationFail gd s
  | .powerOn pkg ecdsaOk lmsOk => Sys2Proof.Machine.execPowerOn pkg ecdsaOk lmsOk s
  | .dieBodyCheck gd digestOk => Sys2Proof.Machine.execDieBodyCheck gd digestOk s
  | .spdmRequest pkg index => Sys2Proof.Machine.execSpdmRequest pkg index s
  | .errorDetected gd unit idx loc uncorrectable => Sys2Proof.Machine.execErrorDetected gd unit idx loc uncorrectable s
  | .residueMismatch gd core second => Sys2Proof.Machine.execResidueMismatch gd core second s
  | .selfTestComplete gd test reproduced => Sys2Proof.Machine.execSelfTestComplete gd test reproduced s
  | .scrubPass gd line => Sys2Proof.Machine.execScrubPass gd line s
  | .contextKill ctx => Sys2Proof.Machine.execContextKill ctx s
  | .keyGenerate pkg slot => Sys2Proof.Machine.execKeyGenerate pkg slot s
  | .keyErase pkg slot => Sys2Proof.Machine.execKeyErase pkg slot s
  | .lbarAllocate gd num w => Sys2Proof.Machine.execLbarAllocate gd num w s
  | .lbarFree gd num w => Sys2Proof.Machine.execLbarFree gd num w s
  | .hctlKill g => Sys2Proof.Machine.execHctlKill g s
  | .alarmpolWrite pkg w => Sys2Proof.Machine.execAlarmpolWrite pkg w s
  | .registerWrite gd num w => Sys2Proof.Machine.execRegisterWrite gd num w s
  | .dbgRevocation ctx => Sys2Proof.Machine.execDbgRevocation ctx s
  | .debugResume g => Sys2Proof.Machine.execDebugResume g s
  | .scanSessionOpen pkg tag stopcyc stopen => Sys2Proof.Machine.execScanSessionOpen pkg tag stopcyc stopen s
  | .scanStopEvent pkg source => Sys2Proof.Machine.execScanStopEvent pkg source s
  | .scanGating pkg => Sys2Proof.Machine.execScanGating pkg s
  | .scanSessionEnd pkg => Sys2Proof.Machine.execScanSessionEnd pkg s
  | .writeAcknowledgement acc => Sys2Proof.Machine.execWriteAcknowledgement acc s
  | .taskSigDecrement sig => Sys2Proof.Machine.execTaskSigDecrement sig s
  | .taskDepAnswer g => Sys2Proof.Machine.execTaskDepAnswer g s
  | .collectiveFlitArrival cmd src elem => Sys2Proof.Machine.execCollectiveFlitArrival cmd src elem s
  | .ethFrameReceived qp bytes => Sys2Proof.Machine.execEthFrameReceived qp bytes s
  | .stewardReclaim gd slot => Sys2Proof.Machine.execStewardReclaim gd slot s
  | .barrierArrivalMessage msg => Sys2Proof.Machine.execBarrierArrivalMessage msg s
  | .debugAgentHalt g => Sys2Proof.Machine.execDebugAgentHalt g s
  | .debugEditStage g lane reg w => Sys2Proof.Machine.execDebugEditStage g lane reg w s

end Sys2Proof.Machine
end

