-- ==== Sys2Proof/Machine/Step.lean ====
section
/-! DEFINITION. One step of the machine, and the placing of an instruction where the next step fetches it. -/
namespace Sys2Proof.Machine

/-- One step: a row left over from the step before, else an outside step that is due, else one of the things that the
machine may do by itself (Auto.lean). Where there is none, only time passes. -/
def step (s : State) : Host.Outcome State Fault Refusal :=
  match s.agenda with
  | i :: is => timed s (exec i { s with agenda := is })
  | [] =>
    match dueInput s with
    | some (i, t) => timed s (exec i t)
    | none =>
      match nextChoice s with
      | none => timed s (.next s)
      | some (.run t i) => timed s (exec i t)
      | some (.done o) => timed s o

/-- The state with an instruction in memory at the program counter of the one lane that runs, in a task of a context
whose code page is mapped (log 4, log 32). -/
def State.withFetchWord (s : State) (nbits w : Nat) : State := placeProgram s (w % 2 ^ nbits)

end Sys2Proof.Machine
end

