-- ==== Sys2Proof/WellFormed.lean ====
section
/-! DEFINITION. Which instructions may stand in code without RESERVED_FIELD: their fields name registers of the right
class (R45, R91, R109, R154, R237), and their sync words are well formed (R37, R40). -/
namespace Sys2Proof
open Sys2Proof.Machine

/-- Whether a row is an instruction word, and not a step of the device. -/
def Instr.isWord (i : Instr) : Bool := !(encode i).isEmpty
/-- The rules of an instruction's sync word (R37, R40). -/
def Instr.syncKind : Instr → SyncKind
  | .syncGroup _ _ => .sync
  | .endGroup _ => .endOf
  | _ => .command
def Instr.syncFine (i : Instr) : Bool :=
  match encode i with
  | [_, w] => syncOk i.syncKind w
  | _ => true
/-- A row ILLEGAL_OPCODE stands for a reserved opcode or 0xFF (R53). -/
def Instr.opcodeFine (i : Instr) : Bool :=
  match i with
  | .illegalOpcode w => decodeWords w 0 == .ok (.illegalOpcode w) && !twoWords (opOf w)
  | _ => true
/-- Well formed for lanes of TYPE other than 6 and 7 (`wide` false), or for those (`wide` true). -/
def Instr.wf (i : Instr) (wide : Bool) : Bool := i.isWord && opndsOk i wide && i.syncFine && i.opcodeFine

end Sys2Proof
end

