-- ==== Sys2Proof/Safety.lean ====
section
/-! DEFINITION. What claims mean by a safe machine: its memories are in canonical form, and a run meets no fault and no
refusal; and the words in which the statements are written. -/
namespace Sys2Proof.Machine

/-- Both memories are in canonical form (R199; log 9). -/
def State.memOk (s : State) : Bool := Memory.wf s.mem && Memory.wf s.hostMem
/-- The step from a state has a next state. -/
def State.goesOn (s : State) : Prop := ∃ t, step s = .next t
/-- A state from which k steps meet no fault and no refusal. -/
def State.safeFor : Nat → State → Prop
  | 0, _ => True
  | k + 1, s => ∃ t, step s = .next t ∧ State.safeFor k t

end Sys2Proof.Machine

/-! ### The words of the statements in Certificates -/

namespace Sys2Proof.Claims
open Sys2Proof Sys2Proof.Machine

/-- The issuing lanes of the path at hand, in ascending order (R13). -/
def lanes (s : State) : List Nat := lanesIn (issuing s)
/-- An instruction of the path at hand that meets no cause of its fields: some lane issues; its fields name registers of
the right class within the group's banks (R44, R45); its channels are bound and hold what it pops (R46). -/
def fits (i : Instr) (s : State) : Bool :=
  issuing s != 0 && opndsOk i (anyWide s (issuing s)) && opndsInRange i (anyWide s (issuing s)) (s.grp s.cur.g).banks && (chanCause s i).isNone
/-- An instruction that executes normally: it fits, and the TYPE of each lane is listed (R92; an empty list stands for
any TYPE). -/
def ready (i : Instr) (types : List Nat) (s : State) : Bool :=
  fits i s && (types.isEmpty || (lanes s).all fun l => types.contains (laneType s l))
/-- The state in which the effect of an instruction of n words starts: it has been counted, and the lanes of the path
whose guard is false are past it (R287, R441). Registers, and what issuing lanes hold, are as before. -/
def begun (s : State) (n : Nat) : State := counted s n (issuing s)
/-- The issuing lanes of s go on to the instruction n words further (R34, R287). -/
def past (n : Nat) (s t : State) : State := advance t s.cur.g n (issuing s)
/-- The state after a per-lane instruction of one word: what the lanes write is committed in ascending lane order, and
they go on to the next instruction (R13, R14, R287). -/
def after (i : Instr) (s : State) (f : Nat → LaneOut) : State := past 1 s (commit (begun s 1) i ((lanes s).map fun l => (l, f l)))
/-- The state in which accesses of an instruction of n words leave the core: its lanes keep the elements it pops (R288, R291). -/
def sending (i : Instr) (s : State) (n : Nat) : State := keepRows (begun s n) (popAll (begun s n) i) (issuing s) i
/-- The state after a scratchpad instruction of one word that fills no line: its bank conflicts are counted, the lanes' results
are committed to t, and they go on and keep nothing of the instruction (R62, R184, R217, R287). -/
def winAfter (i : Instr) (s : State) (t : State → State) (rs : List WinReq) (outs : List (Nat × LaneOut)) : State :=
  let u := (begun s 1).event (ckOf s.cur.g) (slotOf s.cur.g) 41 (bankExtra rs)
  dropKept (past 1 s (commit (t u) i outs)) s.cur.g (issuing s)
/-- Each of some instructions answers a next state in which its lanes have written what is given for them. -/
def results (s : State) (types : List Nat) (ps : List (Instr × (Nat → LaneOut))) : Prop :=
  ∀ p ∈ ps, ready p.1 types s = true → exec p.1 s = .next (after p.1 s p.2)
/-- An outcome that is a next state with a property. -/
def leads (i : Instr) (s : State) (p : State → Prop) : Prop := ∃ t, exec i s = .next t ∧ p t
/-- R36 to R40: the sync word of an instruction is legal, names semaphores granted to the group's task, and leaves room
for n increments. -/
def syncFine (s : State) (k : SyncKind) (w : BitVec 32) (n : Nat) : Bool :=
  syncOk k w && !(k == .command && wEn w && !semGranted s s.cur.g (wSem w)) && !(sEn w && !semGranted s s.cur.g (sSem w)) &&
    (!sEn w || decide ((s.sem (ckOf s.cur.g) (sSem w)).count + (s.sem (ckOf s.cur.g) (sSem w)).pending + n * sInc w ≤ 1023))
/-- Increments a boundary adds when it issues: none if the group has met it in this firing (R336). -/
def firstMeet (s : State) : Nat := if (s.grp s.cur.g).bounds.any (fun b => b.1 == s.cur.pc) then 0 else 1

end Sys2Proof.Claims
end

