-- ==== Sys2Proof/Certificates/Slice0/Obligations.lean ====
section
/-! DEFINITION. What is to be proved of the model: statements from the numbered rules of spec/. The helpers they share
(lanes, ready, begun, past, after, results, leads, syncFine) stand in Sys2Proof/Safety.lean. -/
open Sys2Proof Sys2Proof.Machine Sys2Proof.Claims

/-! ### Per-lane instructions (04, 05) -/

/-- R96, R99 (LEA), R100, R101, R102, R128: every issuing lane has D with the given function of its operands; nothing else of what
a lane writes. R99: 64-bit results into the pair at D. -/
def Obligations.BitStringAndPairResults : Prop :=
  (∀ (s : State) (d a b : Code), results s [] [
      (.mov d a, fun l => out1 d (rdA s l a)),
      (.sel d a b, fun l => out1 d ((rdA s l a &&& rdA s l d) ||| (rdA s l b &&& (rdA s l d ^^^ (2 ^ 32 - 1))))),
      (.bAnd d a b, fun l => out1 d (rdA s l a &&& rdA s l b)), (.bOr d a b, fun l => out1 d (rdA s l a ||| rdA s l b)),
      (.bXor d a b, fun l => out1 d (rdA s l a ^^^ rdA s l b)), (.bNot d a, fun l => out1 d (rdA s l a ^^^ (2 ^ 32 - 1))),
      (.andn d a b, fun l => out1 d (rdA s l a &&& (rdA s l b ^^^ (2 ^ 32 - 1)))),
      (.shl d a b, fun l => out1 d (if 32 ≤ rdA s l b % 256 then 0 else rdA s l a * 2 ^ (rdA s l b % 256) % 2 ^ 32)),
      (.shr d a b, fun l => out1 d (rdA s l a / 2 ^ (rdA s l b % 256))),
      (.sar d a b, fun l => out1 d (wrapI (sextI (rdA s l a) 32 / (2 ^ (rdA s l b % 256) : Nat)) 32)),
      (.rot d a b, fun l => out1 d ((rdA s l a * 2 ^ (rdA s l b % 32) + rdA s l a / 2 ^ (32 - rdA s l b % 32)) % 2 ^ 32)),
      (.popc d a, fun l => out1 d ((List.range 32).foldl (fun n i => n + rdA s l a / 2 ^ i % 2) 0)),
      (.clz d a, fun l => out1 d (32 - bitLen (rdA s l a % 2 ^ 32))),
      (.ctz d a, fun l => out1 d (((List.range 32).find? fun i => bitOf (rdA s l a) i).getD 32)),
      (.brev d a, fun l => out1 d ((List.range 32).foldl (fun n i => n + rdA s l a / 2 ^ (31 - i) % 2 * 2 ^ i) 0)),
      (.bfx d a b, fun l => out1 d (bfxW (rdA s l a) (rdA s l b))),
      (.bfi d a b, fun l => out1 d (bfiW (rdA s l d) (rdA s l a) (rdA s l b))),
      (.bmix d a b, fun l => out1 d (bmixW (laneK s l) (rdA s l a) (rdA s l b))),
      (.lea d a b, fun l => out1 d ((rdA s l a + rdA s l b * 2 ^ (laneK s l % 8)) % 2 ^ 32)),
      (.nibpk d a b, fun l => out1 d (packElems 4 (((List.range 4).map fun i => rdA s l a / 2 ^ (8 * i) % 16) ++
        (List.range 4).map fun i => rdA s l b / 2 ^ (8 * i) % 16)))]) ∧
  (∀ (s : State) (d a b : Code),
      results s [] [
        (.add64 d a b, fun l => out64 d ((rdP s l a + rdP s l b) % 2 ^ 64)),
        (.sub64 d a b, fun l => out64 d ((rdP s l a + 2 ^ 64 - rdP s l b) % 2 ^ 64)),
        (.lea64 d a b, fun l => out64 d (wrapI ((rdP s l a : Int) + sextI (rdA s l b) 32 * (2 ^ (laneK s l % 8) : Nat)) 64))] ∧
      results s [0, 1] [
        (.mulw d a b, fun l => out64 d (wrapI (elemI (laneType s l) (rdA s l a) 0 * elemI (laneType s l) (rdA s l b) 0) 64))])

/-- R97, R98: the exact result of each element, wrapped or, under SAT, clamped with the flag SA; a zero divisor gives the values
of R98 with the flag IZ. -/
def Obligations.ElementResults : Prop :=
  ∀ (s : State) (d a b : Code),
    let e (l : Nat) (f : Int → Int → Int → Int × Nat) : LaneOut := elemOut s l d (rdA s l a) (rdA s l b) 0 f
    results s [0, 1, 2, 3, 4, 5] [
      (.add d a b, fun l => e l fun x y _ => (x + y, 0)), (.sub d a b, fun l => e l fun x y _ => (x - y, 0)),
      (.mul d a b, fun l => e l fun x y _ => (x * y, 0)),
      (.mulh d a b, fun l => e l fun x y _ => (x * y / (2 ^ (elemsOf (laneType s l)).2 : Nat), 0)),
      (.mad d a b, fun l => elemOut s l d (rdA s l a) (rdA s l b) (rdA s l d) fun x y z => (x * y + z, 0)),
      (.div d a b, fun l => e l fun x y _ =>
        if y = 0 then (if signedTy (laneType s l) then -1 else ((2 ^ (elemsOf (laneType s l)).2 : Nat) : Int) - 1, flagIZ) else (x.tdiv y, 0)),
      (.rem d a b, fun l => e l fun x y _ => if y = 0 then (x, flagIZ) else (x.tmod y, 0)),
      (.imin d a b, fun l => e l fun x y _ => (min x y, 0)), (.imax d a b, fun l => e l fun x y _ => (max x y, 0)),
      (.abs d a, fun l => elemOut s l d (rdA s l a) 0 0 fun x _ _ => ((x.natAbs : Int), 0)),
      (.neg d a, fun l => elemOut s l d (rdA s l a) 0 0 fun x _ _ => (-x, 0))]

/-- R103, R104: compares of exact integers into a predicate, and what instructions do with predicates. -/
def Obligations.CompareResults : Prop :=
  ∀ (s : State) (d a b : Code),
    let c (l : Nat) (f : Int → Int → Bool) : LaneOut := out1 d (b2n (f (cmpVal s l a) (cmpVal s l b)))
    let p (l : Nat) (f : Bool → Bool → Bool) : LaneOut := out1 d (b2n (f (rdA s l a == 1) (rdA s l b == 1)))
    results s [0, 1, 6, 7] [
      (.cmpEq d a b, fun l => c l fun x y => decide (x = y)), (.cmpNe d a b, fun l => c l fun x y => decide (x ≠ y)),
      (.cmpLt d a b, fun l => c l fun x y => decide (x < y)), (.cmpLe d a b, fun l => c l fun x y => decide (x ≤ y)),
      (.cmpGt d a b, fun l => c l fun x y => decide (y < x)), (.cmpGe d a b, fun l => c l fun x y => decide (y ≤ x))] ∧
    results s [] [
      (.pand d a b, fun l => p l fun x y => x && y), (.por d a b, fun l => p l fun x y => x || y),
      (.pxor d a b, fun l => p l fun x y => x != y), (.pnot d a, fun l => out1 d (1 - rdA s l a)),
      (.p2v d, fun l => out1 d ((s.lane s.cur.g l).preds.toNat + 128)),
      (.v2p a, fun l => { writes := (List.range 7).map fun j => (0xF0 + j, rdA s l a / 2 ^ j) })]

/-- R105, R106, R107: lane exchange, votes, and the lanes that RDLANE and WRLANE name, which must issue. R108: integer reductions
and the inclusive scan over the issuing lanes, which hold one TYPE. -/
def Obligations.ExchangeAndReductionResults : Prop :=
  (∀ (s : State) (d a b : Code),
      let m := issuing s
      let x (kind l : Nat) : LaneOut := out1 d (match xchSrc kind l (rdA s l b) with
        | some t => if m.getLsbD t then rdA s t a else 0
        | none => 0)
      let hit : Nat := (maskOf fun l => m.getLsbD l && rdA s l a != 0).toNat
      let t := rdA s (lowest m) b % 64
      results s [] [
        (.xchIdx d a b, x 0), (.xchXor d a b, x 1), (.xchUp d a b, x 2), (.xchDn d a b, x 3),
        (.lnany d a, fun _ => out1 d (b2n (hit != 0))), (.lnall d a, fun _ => out1 d (b2n (hit == m.toNat))), (.lnmask d a, fun _ => out64 d hit),
        (.lneq d a, fun l => out64 d (maskOf fun j => m.getLsbD j && ((rdA s j a ^^^ rdA s l a) &&& laneK s l) == 0).toNat)] ∧
      (m.getLsbD t = true → results s [] [
        (.rdlane d a b, fun _ => out1 d (rdA s t a)),
        (.wrlane d a b, fun l => if l = t then out1 d (rdA s (lowest m) a) else {})])) ∧
  (∀ (s : State) (d a : Code), mixedTypes s (issuing s) = false →
      results s [0, 1, 2, 3, 4, 5] [
        (.iredAdd d a, fun l => reduceOut s l d a (lanes s) sumI), (.iredMin d a, fun l => reduceOut s l d a (lanes s) leastI),
        (.iredMax d a, fun l => reduceOut s l d a (lanes s) greatestI),
        (.iscanAdd d a, fun l => reduceOut s l d a ((lanes s).filter (· ≤ l)) sumI)])

/-- R111, R115, R116: floating-point arithmetic, each element rounded once. R119, R120, R121: quotients, roots, exponentials,
logarithms, and rounding to a whole value, each element rounded once by the lane's mode. How the value of a function is found
to 704 bits is the model's own (log 13). -/
def Obligations.FloatResults : Prop :=
  (∀ (s : State) (d a b : Code),
      let f2 (l : Nat) (f : Nat → FVal → FVal → XRes) : LaneOut := fltOut s l d (rdA s l a) (rdA s l b) 0 fun rm x y _ => f rm x y
      let f3 (l : Nat) (f : Nat → FVal → FVal → FVal → XRes) : LaneOut := fltOut s l d (rdA s l a) (rdA s l b) (rdA s l d) f
      results s [8, 9, 10] [
        (.fadd d a b, fun l => f2 l fun rm x y => fAdd rm x y), (.fsub d a b, fun l => f2 l fun rm x y => fAdd rm x y.negate),
        (.fmul d a b, fun l => f2 l fun _ x y => fMul x y),
        (.fma d a b, fun l => f3 l fun rm x y z => fFma rm false false x y z), (.fms d a b, fun l => f3 l fun rm x y z => fFma rm false true x y z),
        (.fnma d a b, fun l => f3 l fun rm x y z => fFma rm true false x y z),
        (.fmin d a b, fun l => exactOut s l d (rdA s l a) (rdA s l b) (fmm false)), (.fmax d a b, fun l => exactOut s l d (rdA s l a) (rdA s l b) (fmm true)),
        (.fabs d a, fun l => exactOut s l d (rdA s l a) 0 fun x _ => { val := x.absV, flags := if x.isSnan then flagNV else 0 }),
        (.fneg d a, fun l => exactOut s l d (rdA s l a) 0 fun x _ => { val := x.negate, flags := if x.isSnan then flagNV else 0 })]) ∧
  (∀ (s : State) (d a b : Code),
      let f1 (l : Nat) (f : FVal → XRes) : LaneOut := fltOut s l d (rdA s l a) 0 0 fun _ x _ _ => f x
      results s [8, 9, 10] [
        (.frcp d a, fun l => f1 l fRcp), (.frsq d a, fun l => f1 l fRsq), (.fsqrt d a, fun l => f1 l fSqrt), (.fexp2 d a, fun l => f1 l fExp2),
        (.flog2 d a, fun l => f1 l fLog2), (.fsin d a, fun l => f1 l (fSinCos false)), (.fcos d a, fun l => f1 l (fSinCos true)),
        (.ftanh d a, fun l => f1 l fTanh), (.fsigm d a, fun l => f1 l fSigm),
        (.fdiv d a b, fun l => fltOut s l d (rdA s l a) (rdA s l b) 0 fun _ x y _ => fDiv x y),
        (.frnd d a, fun l => packRes (elemsOf (laneType s l)).2 d ((List.range (elemsOf (laneType s l)).1).map fun i =>
          fRound (fmtOf (laneType s l)) (laneRnd s l) (drawBits s l i) (elemF s l (rdA s l a) i)) (stoDraws s l (elemsOf (laneType s l)).1))])

/-- R117, R118, R122: compares into a predicate, classes, and dot products into a 32-bit accumulator. -/
def Obligations.FloatCompares : Prop :=
  ∀ (s : State) (d a b : Code),
    let c (l : Nat) (anyNv : Bool) (f : FVal → FVal → Bool) : LaneOut :=
      let x := f32Val s l (rdA s l a)
      let y := f32Val s l (rdA s l b)
      { writes := [(d.toNat, b2n (f x y))], flags := if (if anyNv then anyNan [x, y] else anySnan [x, y]) then flagNV else 0 }
    let dot (l : Nat) : LaneOut := packRes 32 d [finish .f32 (laneRnd s l) (drawBits s l 0) (fDot (laneRnd s l).rm (f32Val s l (rdA s l d))
      ((List.range (elemsOf (laneType s l)).1).map fun i => (elemF s l (rdA s l a) i, elemF s l (rdA s l b) i)))] (stoDraws s l 1)
    results s [8] [
      (.fcmpEq d a b, fun l => c l false fun x y => ordered x y && !numLt x y && !numLt y x),
      (.fcmpNe d a b, fun l => c l false fun x y => !ordered x y || numLt x y || numLt y x),
      (.fcmpLt d a b, fun l => c l true fun x y => ordered x y && numLt x y), (.fcmpLe d a b, fun l => c l true fun x y => ordered x y && !numLt y x),
      (.fcmpUn d a b, fun l => c l false fun x y => !ordered x y)] ∧
    results s [8, 9, 10] [
      (.fclass d a, fun l => { writes := [(d.toNat, packElems 16 ((List.range (elemsOf (laneType s l)).1).map fun i =>
        classBits (fmtOf (laneType s l)) (elemF s l (rdA s l a) i)))] })] ∧
    results s [9, 10] [(.fdot2 d a b, dot)] ∧ results s [11, 12] [(.fdot4 d a b, dot)] ∧
    results s [4, 5] [
      (.idot4 d a b, fun l => packRes 32 d [narrowI (laneType s l) 32 (laneSat s l) ((List.range 4).foldl
        (fun t i => t + elemI (laneType s l) (rdA s l a) i * elemI (laneType s l) (rdA s l b) i)
        (if laneType s l = 4 then sextI (rdA s l d) 32 else (rdA s l d : Int)))] 0)]

/-- R123 to R127: conversions between formats, and blocks of PXF4. CVT.F2I does not take the rounding mode STO. -/
def Obligations.ConversionResults : Prop :=
  ∀ (s : State) (d a b : Code),
    ((lanes s).all (fun l => !isSto (laneMode s l)) = true → results s [0, 1, 6, 7] [
      (.cvtF2i d a, fun l =>
        let r := toInt (laneType s l) (intBits (laneType s l)) (laneRnd s l).rm (f32Val s l (rdA s l a))
        { outTyped (laneType s l) d r.code with flags := r.flags })]) ∧
    results s [0, 1, 6, 7] [
      (.cvtI2f d a, fun l =>
        let raw := if laneType s l = 6 ∨ laneType s l = 7 then rdP s l a else rdA s l a
        let x : Int := if signedTy (laneType s l) then sextI raw (intBits (laneType s l)) else (raw : Int)
        packRes 32 d [finish .f32 (laneRnd s l) (drawBits s l 0) (xval (.fin (decide (x < 0)) x.natAbs 0))] (stoDraws s l 1))] ∧
    results s [2, 3, 4, 5, 9, 10, 11, 12] [
      (.cvtUpLo d a, fun l => cvtUp s l d (rdA s l a) 0), (.cvtUpHi d a, fun l => cvtUp s l d (rdA s l a) 1)] ∧
    results s [2, 3, 9, 10] [(.cvtDn d a b, fun l => cvtDown s l d [rdA s l a, rdA s l b])] ∧
    results s [4, 5, 11, 12] [
      (.cvtDn4 d a b, fun l => cvtDown s l d [rdP s l a % 2 ^ 32, rdP s l a / 2 ^ 32, rdP s l b % 2 ^ 32, rdP s l b / 2 ^ 32])] ∧
    results s [] [
      (.qblk d a, fun l =>
        let q := quantBlock ((List.range 32).map fun j => f32Val s l (rd s s.cur.g l (a.toNat + j)))
        { writes := ((List.range 4).map fun j => (d.toNat + j, packElems 4 ((q.codes.drop (8 * j)).take 8))) ++ [(d.toNat + 4, q.scale + 256 * q.spare)],
          flags := q.flags }),
      (.dqblk d a b, fun l =>
        let i := rdA s l b % 32
        let t := rd s s.cur.g l (a.toNat + 4)
        let v := pxDecode (rd s s.cur.g l (a.toNat + i / 8) / 2 ^ (4 * (i % 8)) % 16) (t % 256) (t / 256 % 256)
        packRes 32 d [if v.isNan then ⟨Fmt.f32.nanCode, flagNB⟩ else finish .f32 (laneRnd s l) (drawBits s l 0) (xval v)] (stoDraws s l 1))]

/-- R82, R96, R132: RAND gives the lane's next draw and takes it; RANDF gives its top 24 bits over 2^24; NOP does nothing but go
on. R129, R130, R131: floating-point reductions over the issuing lanes, the lane of the greatest key, and a step of the
running maximum and sum. That FRED.MAX passes over a NaN is the model's reading (log 17). -/
def Obligations.RandomAndFloatReductionResults : Prop :=
  (∀ (s : State) (d : Code),
      results s [] [
        (.rand d, fun l => { out1 d (laneDraw s l 0) with draws := 1 }),
        (.randf d, fun l => { out1 d (finish .f32 rneKeep 0 (xval (.fin false (bitsOf (laneDraw s l 0) 31 8) (-24)))).code with draws := 1 })] ∧
      (ready .nop [] s = true → exec .nop s = .next (past 1 s (begun s 1)))) ∧
  (∀ (s : State) (d a b : Code), mixedTypes s (issuing s) = false →
      results s [8, 9, 10] [
        (.fredAdd d a, fun l => fredOut s l d a (lanes s) (lanes s)), (.fscanAdd d a, fun l => fredOut s l d a ((lanes s).filter (· ≤ l)) (lanes s)),
        (.fredMax d a, fun l => packRes (elemsOf (laneType s l)).2 d ((List.range (elemsOf (laneType s l)).1).map fun i =>
          let xs := memberF s l a (lanes s) i
          finish (fmtOf (laneType s l)) rneKeep 0 { val := greatestF xs, flags := if anySnan xs then flagNV else 0 }) 0)] ∧
      results s [8] [
        (.argmax d a b, fun _ =>
          let ks := (lanes s).map fun m => (m, f32Val s m (rdA s m a))
          let w := (argBest ks none).map Prod.fst
          let key := match w with
            | some w => rdA s w a
            | none => 0x7FC00000
          { out64 d (key + 2 ^ 32 * rdA s (w.getD (lowest (issuing s))) b) with flags := if anySnan (ks.map Prod.snd) then flagNV else 0 }),
        (.smxup d a, fun l =>
          let p := rdP s l d
          let r := smxStep (laneRnd s l) (drawBits s l 0) (p % 2 ^ 32) (p / 2 ^ 32) (f32Val s l (p % 2 ^ 32)) (f32Val s l (p / 2 ^ 32))
            ((lanes s).map fun k => f32Val s k (rdA s k a))
          { out64 d (r.1 + 2 ^ 32 * r.2.1) with flags := r.2.2, draws := stoDraws s l 1 })])

/-! ### Mode, literals, transfers, barriers, macros (02, 12, 14) -/

/-- R48, R50, R51: MODE writes the selected fields of the mode register of every lane of the path, whatever its guard; LIT loads k
with the sign-extended literal, LITH its top byte. -/
def Obligations.ModeAndLiteralResults : Prop :=
  ∀ (s : State) (w : BitVec 24) (x : BitVec 8),
    (s.cur.lanes ≠ 0 → modeReserved w = false → modeInvalid w = false → exec (.mode w) s = .next (advance
      ((counted s 1 s.cur.lanes).onLanes s.cur.g (lanesIn s.cur.lanes) fun _ y => { y with mode := (y.mode &&& ~~~(modeMask w)) ||| (w.zeroExtend 32 &&& modeMask w) })
      s.cur.g 1 s.cur.lanes)) ∧
    (ready (.lit w) [] s = true → exec (.lit w) s = .next (past 1 s ((begun s 1).onLanes s.cur.g (lanes s) fun _ y => { y with k := w.signExtend 32 }))) ∧
    (ready (.lith x) [] s = true → exec (.lith x) s =
      .next (past 1 s ((begun s 1).onLanes s.cur.g (lanes s) fun _ y => { y with k := x ++ y.k.extractLsb' 0 24 })))

/-- R59, R333, R334: where each issuing lane goes. A branch inside a macro counts entries. R289, R335: CBAR.SET makes the issuing
lanes the expected ones of a barrier at which nobody has arrived; at CBAR.WAIT the expected lanes wait, the others go on,
lanes of the path with a false guard are withdrawn, and the barrier releases its lanes once all have arrived. -/
def Obligations.TransferAndConvergenceResults : Prop :=
  (∀ (s : State) (w : BitVec 24) (a : Code),
      let b := begun s 1
      let go (i : Instr) (f : Nat → Lane → Lane) : State :=
        ((lanes s).map fun l => (l, f l (b.lane s.cur.g l))).foldl (fun t p => t.setLane s.cur.g p.1 p.2)
          ((popCodes i).foldl (fun t c => popChan t s.cur.g c) b)
      (ready (.bra w) [] s = true → s.cur.mac = none → (∀ l ∈ lanes s, (b.lane s.cur.g l).mac = none) →
        exec (.bra w) s = .next (go (.bra w) fun _ y => { y with pc := y.pc + w.signExtend 56 * 4 })) ∧
      (∀ m : MacPos, ready (.bra w) [] s = true → s.cur.mac = some m → (∀ l ∈ lanes s, (b.lane s.cur.g l).mac = some m) → 0 ≤ (m.entry : Int) + w.toInt →
        (m.entry : Int) + w.toInt ≤ (macLast s (ckOf s.cur.g) m.index).getD 31 →
        exec (.bra w) s = .next (go (.bra w) fun _ y => { y with mac := some { m with entry := ((m.entry : Int) + w.toInt).toNat } })) ∧
      (ready (.call w) [] s = true → (∀ l ∈ lanes s, (s.lane s.cur.g l).ret.length < 16) →
        exec (.call w) s = .next (go (.call w) fun _ y => { y with ret := (y.pc + 4) :: y.ret, pc := y.pc + w.signExtend 56 * 4 })) ∧
      (ready .ret [] s = true → (∀ l ∈ lanes s, let y := s.lane s.cur.g l; y.ret ≠ [] ∧ (y.inHandler = true → y.savedDepth < y.ret.length)) →
        exec .ret s = .next (go .ret fun _ y => { y with pc := y.ret.headD 0, ret := y.ret.tail })) ∧
      (ready (.jmp a) [] s = true → (∀ l ∈ lanes s, rdP s l a < 2 ^ 56 ∧ rdP s l a % 4 = 0) →
        exec (.jmp a) s = .next (go (.jmp a) fun l y => { y with pc := BitVec.ofNat 56 (rdP s l a) }))) ∧
  (∀ (s : State) (d : Code),
      let g := s.cur.g
      let m := issuing s
      let b := begun s 1
      let join := m &&& ((b.grp g).cb d.toNat).expected
      let held := ((advance b g 1 (m &&& ~~~join)).modGrp g fun x =>
        x.setCb d.toNat { x.cb d.toNat with arrived := (x.cb d.toNat).arrived ||| join }).onLanes g (lanesIn join) fun _ y => { y with stand := .cbar d.toNat }
      (ready (.cbarSet d) [] s = true → ((s.grp g).cb d.toNat).arrived = 0 →
        exec (.cbarSet d) s = .next (past 1 s (b.modGrp g fun x => x.setCb d.toNat { expected := m, arrived := 0 }))) ∧
      (ready (.cbarWait d) [] s = true → Tab.has s.groups g = true →
        exec (.cbarWait d) s = .next (releaseCbar (withdraw held g d.toNat (s.cur.lanes &&& ~~~m)) g d.toNat)))

/-- R56 to R60: CALLM enters the macro that the lowest issuing lane's k names; a step inside a macro substitutes the call's fields
into the entry and issues what it decodes to; MSTORE, by the steward alone, writes one entry. -/
def Obligations.MacroResults : Prop :=
  ∀ (s : State) (d a b : Code),
    let k := laneK s (lowest (issuing s)) % 64
    let op := rdA s (lowest (issuing s)) a
    let w := rdA s (lowest (issuing s)) b
    let entry : BitVec 39 := BitVec.ofNat 39
      (op + 2 ^ 32 * bitsOf w 24 24 + 2 ^ 33 * bitsOf w 17 16 + 2 ^ 35 * bitsOf w 19 18 + 2 ^ 37 * bitsOf w 21 20)
    (ready (.callm d a b) [] s = true → anyHandler s = false → (∀ l ∈ lanes s, laneK s l % 64 = k) → (macLast s (ckOf s.cur.g) k).isSome = true →
      exec (.callm d a b) s = .next ((begun s 1).onLanes s.cur.g (lanes s) fun _ y => { y with mac := some { index := k, entry := 0, call := s.cur.word } })) ∧
    (ready (.mstore a b) [] s = true → isDcc s.cur.g = true → bitsOf w 7 6 = 0 → bitsOf w 15 13 = 0 → bitsOf w 23 22 = 0 → bitsOf w 31 25 = 0 →
      reservedOp (op / 2 ^ 24) = false → (l24Op (op / 2 ^ 24) = true → bitsOf w 21 16 = 0) → macBanned (op / 2 ^ 24) = false →
      leads (.mstore a b) s fun t => Tab.get t.store (ckOf s.cur.g * 2048 + bitsOf w 5 0 * 32 + bitsOf w 12 8) 0#39 = entry ∧ t.mem = s.mem ∧ t.vregs = s.vregs) ∧
    (∀ (m : MacPos) (i : Instr), s.cur.mac = some m → decodeWords (substWord (storeEntry s (ckOf s.cur.g) m.index m.entry) m.call) 0 = .ok i →
      exec .storeEntryExec s = .next { s with cur := { s.cur with word := substWord (storeEntry s (ckOf s.cur.g) m.index m.entry) m.call }, agenda := i :: s.agenda })

/-- R293, R336, R337, R339, R340: lanes that issue SUSP, SYNC, END or YIELD stop at the boundary, whose increment becomes pending
with its first issue; ARRIVE, by all live lanes, arrives at its barrier and goes on. -/
def Obligations.BoundaryResults : Prop :=
  ∀ (s : State) (l : BitVec 24) (w : BitVec 32) (d : Code), anyHandler s = false →
    (ready (.suspGroup l w) [] s = true → syncFine s .command w (firstMeet s) = true →
      exec (.suspGroup l w) s = .next (standAt (.suspGroup l w) w (begun s 2) (issuing s))) ∧
    (ready (.syncGroup l w) [] s = true → syncFine s .sync w (firstMeet s) = true → barDenied s s.cur.g (wSem w) = false →
      exec (.syncGroup l w) s = .next (standAt (.syncGroup l w) w (begun s 2) (issuing s))) ∧
    (ready (.endGroup w) [] s = true → syncFine s .endOf w (firstMeet s) = true →
      exec (.endGroup w) s = .next (standAt (.endGroup w) w (begun s 2) (issuing s))) ∧
    (ready .yieldGroup [] s = true → exec .yieldGroup s = .next (standAt .yieldGroup 0 (begun s 1) (issuing s))) ∧
    (ready (.arrive d) [] s = true → d.toNat < 128 → issuing s = liveLanes s s.cur.g → barDenied s s.cur.g d.toNat = false →
      (d.toNat / 32 ≠ 0 → (s.lbar (lbarKey (d.toNat / 32) (d.toNat % 32) (lbarPlace (d.toNat / 32) (gdOf s.cur.g)))).brk = false) →
      exec (.arrive d) s = .next (past 1 s (arriveAt (writeBackCore (begun s 1) (ckOf s.cur.g)) s.cur.g d.toNat false)))

/-! ### Traps and system registers (16, 17) -/

/-- R53, R405, R410: an opcode with no meaning raises ILLEGAL_OP in every issuing lane, TRAP raises SOFTWARE with its literal as
TINFO: the lanes enter the context's handler, which a credit allows. -/
def Obligations.TrapsEnterTheHandler : Prop :=
  ∀ (s : State) (l : BitVec 24) (w : BitVec 32), anyHandler s = false → (s.ctxOf (s.grp s.cur.g).ctx).trapent ≠ 0 →
    (s.grp s.cur.g).inHandler = false → creditsFree s (ckOf s.cur.g) = true →
    (ready (.trap l) [] s = true →
      exec (.trap l) s = .next (enterHandler (begun s 1) s.cur.g (issuing s) cSOFTWARE (fun _ => l.toNat) s.cur.pc s.cur.mac)) ∧
    (ready (.illegalOpcode w) [] s = true →
      leads (.illegalOpcode w) s fun t =>
        (t.grp s.cur.g).inHandler = true ∧ (t.grp s.cur.g).tcause.toNat % 256 = cILLEGAL_OP ∧ (t.grp s.cur.g).tmask = issuing s ∧
        (t.grp s.cur.g).taddr = s.cur.pc.zeroExtend 64 ∧ ∀ j ∈ lanes s, (t.lane s.cur.g j).inHandler = true ∧
          (t.lane s.cur.g j).tinfo = BitVec.ofNat 64 s.cur.word.toNat)

/-- R54, R91, R155, R238, R239, R405: a global access all of whose lanes are misaligned takes ALIGN with the lane's address in
TINFO, a field of the wrong class RESERVED_FIELD, and a matrix instruction without all 64 lanes in one mode
ILLEGAL_CONVERGENCE: every issuing lane enters the handler, and no register and no memory changes. -/
def Obligations.InstructionsTrapByCause : Prop :=
  ∀ (s : State) (d a b : Code) (w : BitVec 32),
    let g := s.cur.g
    let traps (i : Instr) (cause : Nat) (info : Nat → Nat) : Prop := leads i s fun t =>
      (t.grp g).inHandler = true ∧ (t.grp g).tcause.toNat % 256 = cause ∧ (t.grp g).tmask = issuing s ∧ (t.grp g).taddr = s.cur.pc.zeroExtend 64 ∧
      t.vregs = s.vregs ∧ t.sregs = s.sregs ∧ t.mem = s.mem ∧ t.accs = s.accs ∧ t.cmds = s.cmds ∧
      ∀ l ∈ lanes s, (t.lane g l).tinfo = BitVec.ofNat 64 (info l)
    anyHandler s = false → (s.ctxOf (s.grp g).ctx).trapent ≠ 0 → (s.grp g).inHandler = false → creditsFree s (ckOf g) = true →
    (∀ i ∈ ([.add64 d a b, .sub64 d a b, .lea64 d a b, .ld d a b, .st d a b, .jmp a, .cmpEq d a b, .pand d a b, .tokNew d a] : List Instr),
      issuing s ≠ 0 → opndsOk i (anyWide s (issuing s)) = false → traps i cRESERVED_FIELD fun _ => s.cur.word.toNat) ∧
    (∀ p ∈ ([(.ld d a b, fun l => globalVa s l a (offOf s l b), 4), (.st d a b, fun l => globalVa s l d (offOf s l b), 4),
        (.ldX2 d a b, fun l => globalVa s l a (offOf s l b), 8), (.stX4 d a b, fun l => globalVa s l d (offOf s l b), 16),
        (.mdead a, fun l => globalVa s l a 0, 65536)] : List (Instr × (Nat → Nat) × Nat)),
      fits p.1 s = true → (∀ l ∈ lanes s, p.2.1 l % p.2.2 ≠ 0) → traps p.1 cALIGN p.2.1) ∧
    (∀ i ∈ ([.mwload d a w, .mma d a b w, .maccRd d a b w, .mtileHdr d a, .mcolFree d] : List Instr),
      fits i s = true → matrixTogether s (issuing s) = false → syncFine s .command w 1 = true → traps i cCONVERGENCE fun _ => s.cur.word.toNat)

/-- R405: what entry into the handler saves and sets, for the lanes that met the cause and for their group. -/
def Obligations.HandlerEntrySavesState : Prop :=
  ∀ (s : State) (g : Nat) (who : Mask) (cause : Nat) (info : Nat → Nat) (pc : BitVec 56),
    let t := enterHandler s g who cause info pc none
    ((t.grp g).tcause = w32 cause ∧ (t.grp g).taddr = pc.zeroExtend 64 ∧ (t.grp g).tmask = who ∧ (t.grp g).amask = (s.grp g).active ∧
      (t.grp g).addpc = 0 ∧ (t.grp g).hctl = 0 ∧ (t.grp g).inHandler = true ∧ (t.grp g).parked = (s.grp g).parked ∧ (t.grp g).cbars = (s.grp g).cbars) ∧
    (∀ l < 64, who.getLsbD l = true →
      let x := s.lane g l
      let y := t.lane g l
      y.pc = BitVec.ofNat 56 (s.ctxOf (s.grp g).ctx).trapent ∧ y.mac = none ∧ y.inHandler = true ∧ y.savedMode = x.mode ∧ y.savedK = x.k ∧
        y.savedDepth = x.ret.length ∧ y.ret = x.ret ∧ y.resumePc = pc.zeroExtend 64 ∧ y.tinfo = BitVec.ofNat 64 (info l) ∧ y.mode = 0x00070000#32 ∧ y.k = 0 ∧
        y.preds = x.preds ∧ y.astat = x.astat ∧ y.streamid = x.streamid ∧ y.drawctr = x.drawctr) ∧
    (∀ l < 64, who.getLsbD l = false → t.lane g l = s.lane g l) ∧
    t.vregs = s.vregs ∧ t.sregs = s.sregs ∧ t.mem = s.mem ∧ t.accs = s.accs ∧ t.cmds = s.cmds ∧ Tab.get t.credits (ckOf g) 0 = Tab.get s.credits (ckOf g) 0 + 1

/-- R409, R411: RTE by all handler lanes of a group, whose RESUMEPC is a multiple of 4, leaves handler mode: where the handler
edited no mask and no barrier waits (a group on the DCC has one lane, R17), each of its lanes goes on at its RESUMEPC with the mode, k and return stack it had, and
registers and memory are as the handler left them. -/
def Obligations.RteRestores : Prop :=
  ∀ (s : State), ready .rte [] s = true → allHandler s (issuing s) = true → issuing s = handlerLanes s s.cur.g →
    ((lanes s).all fun l => (s.lane s.cur.g l).resumePc.toNat % 4 == 0) = true →
    exec .rte s = .next (returnTrap (begun s 1) s.cur.g) ∧
    ((s.grp s.cur.g).cbars = [] → (s.grp s.cur.g).amask = (s.grp s.cur.g).active → (isDcc s.cur.g = true → (s.grp s.cur.g).active = 1) → leads .rte s fun t =>
      (t.grp s.cur.g).inHandler = false ∧ (t.grp s.cur.g).active = (s.grp s.cur.g).active ∧ t.vregs = s.vregs ∧ t.sregs = s.sregs ∧ t.mem = s.mem ∧
      ∀ l ∈ lanes s,
        let x := s.lane s.cur.g l
        let y := t.lane s.cur.g l
        y.pc = x.resumePc.truncate 56 ∧ y.mode = x.savedMode ∧ y.k = x.savedK ∧ y.ret = x.ret.drop (x.ret.length - x.savedDepth) ∧
          y.inHandler = false ∧ y.stand = .run ∧ y.preds = x.preds ∧ y.astat = x.astat)

/-- R408: SREG.RD gives each issuing lane the value of the register that the lowest issuing lane names: a register of a lane its
own value, any other the group's. It executes where the register's access rules allow. R371, R404, R408: SREG.WR of a register
that its issuing lanes may write. -/
def Obligations.SystemRegisterResults : Prop :=
  (∀ (s : State) (d a : Code),
      let n := rdA s (lowest (issuing s)) a
      ready (.sregRd d a) [] s = true → (sregSteward n || sregHandler n || sregContext n) = true →
      (sregSteward n = true → isDcc s.cur.g = true) → (sregHandler n = true → allHandler s (issuing s) = true) →
      exec (.sregRd d a) s = .next (after (.sregRd d a) s fun l => out1 d (sregRead (begun s 1) s.cur.g (if sregLane n then l else lowest (issuing s)) n))) ∧
  (∀ (s : State) (a b : Code),
      let n := rdA s (lowest (issuing s)) a
      let t := if n = 0x40 then writeBackCore (begun s 1) (ckOf s.cur.g) else begun s 1
      ready (.sregWr a b) [] s = true → (sregSteward n || sregHandler n || sregContext n) = true →
      (sregSteward n = true → isDcc s.cur.g = true) → (sregHandler n = true → allHandler s (issuing s) = true) →
      (n = 0x2E → rdA s (lowest (issuing s)) b < 2) →
      exec (.sregWr a b) s = .next (past 1 s (sregWrite (popAll t (.sregWr a b)) s.cur.g n (issuing s) fun l =>
        (((lanes s).map fun l => (l, rdA s l b)).find? fun v => v.1 == l).elim 0 Prod.snd)))

/-- R403, R407, R408: outside the DCC an instruction of the steward, and any access to a register of the steward, takes PRIVILEGE:
no lane goes on, and the lanes that issued it enter the handler with TINFO the instruction's word. -/
def Obligations.StewardInstructionsArePrivileged : Prop :=
  ∀ (s : State) (i : Instr) (d a b : Code) (w : BitVec 32), i ∈ ([.mstore a b, .opreg d a, .beltSet d a, .traySet d a, .genRaise d a, .ctxSave d a b w,
      .ctxLoad d a b w, .census d a b] : List Instr) →
    issuing s ≠ 0 → isDcc s.cur.g = false → anyHandler s = false → (s.ctxOf (s.grp s.cur.g).ctx).trapent ≠ 0 → (s.grp s.cur.g).inHandler = false →
    creditsFree s (ckOf s.cur.g) = true →
    leads i s fun t => (t.grp s.cur.g).tcause.toNat % 256 = cPRIVILEGE ∧ (t.grp s.cur.g).tmask = issuing s ∧ t.vregs = s.vregs ∧ t.mem = s.mem ∧
      ∀ l ∈ lanes s, (t.lane s.cur.g l).resumePc = s.cur.pc.zeroExtend 64 ∧ (t.lane s.cur.g l).tinfo = BitVec.ofNat 64 s.cur.word.toNat

/-- R413 to R416: a registration whose record is aligned and readable answers the status that the checks of its record give; a
misaligned or unreadable record answers 1 and registers nothing. -/
def Obligations.RegistrationResults : Prop :=
  ∀ (s : State) (d a : Code), isDcc s.cur.g = true →
    let va := rdP s (lowest (issuing s)) a
    let t := writeBackCore (begun s 1) (ckOf s.cur.g)
    let words (n : Nat) : Option (List Word) := ctxWords t (gdOf s.cur.g) (issueAsid t) va n
    let answer (i : Instr) (r : Nat × State) : State := past 1 s (writeGroup r.2 i (issuing s) d r.1)
    (∀ ws, va % 64 = 0 → va < 2 ^ 56 → words 8 = some ws →
      (ready (.opreg d a) [] s = true → exec (.opreg d a) s = .next (answer (.opreg d a) (registerOper t (gdOf s.cur.g) ws))) ∧
      (ready (.traySet d a) [] s = true → exec (.traySet d a) s = .next (answer (.traySet d a) (registerTray t (gdOf s.cur.g) ws))) ∧
      (∀ xs, words (4 + 4 * min (bitsOf (wordAt ws 0) 31 16) 4096) = some xs → ready (.beltSet d a) [] s = true →
        exec (.beltSet d a) s = .next (answer (.beltSet d a) (registerBelt t (gdOf s.cur.g) xs)))) ∧
    ((va % 64 ≠ 0 ∨ 2 ^ 56 ≤ va ∨ words 8 = none) →
      ∀ i ∈ ([.opreg d a, .traySet d a, .beltSet d a] : List Instr), ready i [] s = true → exec i s = .next (answer i (1, t)))

/-- R417 to R423, R440, R451: the rest of the system instructions where they execute normally: a generation raise starts and its
group waits; a save or a load becomes a command; HALT stops a group whose context is under debug; CENSUS reads or clears an
entry; PMC.SNAP copies the counters as they were before it issued. -/
def Obligations.SystemResults : Prop :=
  ∀ (s : State) (d a b : Code) (w : BitVec 32),
    let lo := lowest (issuing s)
    let g := s.cur.g
    let image (i : Instr) (op : CmdOp) (f : State → Cmd → Cmd) : State :=
      past 2 s (postCmd (popAll (begun s 2) i) (f (begun s 2) (baseCmd (begun s 2) (issuing s) op w)))
    let imageOk : Prop := rdP s lo a < 2 ^ 56 ∧ rdP s lo a % 64 = 0 ∧ teamWordBad (rdA s lo b) = false ∧ syncFine s .command w 1 = true
    (ready (.genRaise d a) [] s = true → isDcc g = true → rdA s lo a < 65536 →
      ∀ x, descOf s (gdOf g) (rdA s lo a) = some x → nextGen x.curgen ≠ x.floor → raiseHolds s (rdA s lo a) = false →
      leads (.genRaise d a) s fun t => Tab.find? t.raises (rdA s lo a) = some { phase := 1, next := nextGen x.curgen } ∧
        (t.grp g).service = some (.raise (rdA s lo a) d.toNat (issuing s))) ∧
    (ready (.ctxSave d a b w) [] s = true → isDcc g = true → imageOk → exec (.ctxSave d a b w) s = .next (image (.ctxSave d a b w) .ctxSave fun t c =>
      { c with a := rdP t lo a, b := rdP t lo d, d := rdA t lo b })) ∧
    (ready (.ctxLoad d a b w) [] s = true → isDcc g = true → imageOk → exec (.ctxLoad d a b w) s = .next (image (.ctxLoad d a b w) .ctxLoad fun t c =>
      { c with a := rdP t lo a, d := rdA t lo b, dst := liveDst d, b := d.toNat })) ∧
    (ready .halt [] s = true → isDcc g = false → (s.ctxOf (s.grp g).ctx).dbg = true →
      exec .halt s = .next (past 1 s ((begun s 1).modGrp g fun x => { x with halted := true }))) ∧
    (ready .halt [] s = true → isDcc g = true → exec .halt s = .next (past 1 s (begun s 1))) ∧
    (ready (.census d a b) [] s = true → isDcc g = true →
      let e := rdA s lo a % 1024
      (∀ i < 4, rdA s lo b = 16 * i → exec (.census d a b) s = .next (past 1 s (writeGroup (begun s 1) (.census d a b) (issuing s) d (censusWord s (gdOf g) e i)))) ∧
      (rdA s lo b = 1 → leads (.census d a b) s fun t => ∀ i < 4, censusWord t (gdOf g) e i = 0) ∧
      (rdA s lo b = 2 → exec (.census d a b) s = .next (past 1 s (writeGroup (begun s 1) (.census d a b) (issuing s) d (censusDigest s (gdOf g) e))))) ∧
    (ready (.pmcSnap d) [] s = true →
      let p := (begun s 1).pmc (ckOf g)
      let q : Pmc := { p with snap := (List.range 63).foldl (fun (t : Tab Nat) i => Tab.set t 0 i ((s.pmc (ckOf g)).value i)) [],
                              snapSeq := p.snapSeq + 1, snapClk := w32 s.cycle }
      exec (.pmcSnap d) s = .next (past 1 s (writeGroup { begun s 1 with pmcs := Tab.put (begun s 1).pmcs (ckOf g) q } (.pmcSnap d) (issuing s) d q.snapSeq.toNat)))

/-! ### Memory accesses, scratchpad, stash and fences (08, 09, 10) -/

/-- R238 to R241, R249, R288: a lane's global access that is aligned and inside the address spaces leaves the core, with what it
carries; its lanes are held until its translation has been answered. R243, R244, R288: a lane's atomic carries its operation,
its operands, and the ORDER and SCOPE of the lane's mode. -/
def Obligations.AccessesLeaveTheCore : Prop :=
  (∀ (s : State) (d a b : Code),
      let t := begun s 1
      let enter (i : Instr) (f : Nat → Acc) : State := enterAccs (sending i s 1) (issuing s) 1 f
      let fine (va w : Nat → Nat) : Prop := ∀ l ∈ lanes s, va l % w l = 0 ∧ va l < 2 ^ 56
      let src (l : Nat) : Nat := globalVa s l a (offOf s l b)
      let dst (l : Nat) : Nat := globalVa s l d (offOf s l b)
      let load (l w : Nat) (acq : Bool) (cs : List Nat) : Acc := { baseAcc t l .load (src l) w with acq := acq, dst := liveCodes cs }
      let store (l w en x : Nat) (rel : Bool) : Acc := { baseAcc t l .store (dst l) w with rel := rel, enable := en, data := x, ret := false }
      let en (l : Nat) : Nat := if bitOf (laneK s l) 4 then laneK s l % 16 else 15
      (fine src (fun _ => 4) →
        (ready (.ld d a b) [] s = true → exec (.ld d a b) s = .next (enter (.ld d a b) fun l => load l 4 false [d.toNat])) ∧
        (ready (.ldAcq d a b) [] s = true → exec (.ldAcq d a b) s = .next (enter (.ldAcq d a b) fun l => load l 4 true [d.toNat]))) ∧
      (fine src (fun _ => 8) → ready (.ldX2 d a b) [] s = true →
        exec (.ldX2 d a b) s = .next (enter (.ldX2 d a b) fun l => load l 8 false (pairCodes d))) ∧
      (fine src (fun _ => 16) → ready (.ldX4 d a b) [] s = true →
        exec (.ldX4 d a b) s = .next (enter (.ldX4 d a b) fun l => load l 16 false (runCodes d 4))) ∧
      (fine dst (fun _ => 4) →
        (ready (.st d a b) [] s = true → exec (.st d a b) s = .next (enter (.st d a b) fun l => store l 4 (en l) (rdA s l a) false)) ∧
        (ready (.stRel d a b) [] s = true → exec (.stRel d a b) s = .next (enter (.stRel d a b) fun l => store l 4 (en l) (rdA s l a) true))) ∧
      (fine dst (fun _ => 8) → ready (.stX2 d a b) [] s = true → exec (.stX2 d a b) s = .next (enter (.stX2 d a b) fun l => store l 8 255 (rdP s l a) false)) ∧
      (fine dst (fun _ => 16) → ready (.stX4 d a b) [] s = true →
        exec (.stX4 d a b) s = .next (enter (.stX4 d a b) fun l => store l 16 65535 (runValue s l a 4) false)) ∧
      (fine (fun l => globalVa s l a 0) (fun _ => 65536) → ready (.mdead a) [] s = true →
        exec (.mdead a) s = .next (enter (.mdead a) fun l => { baseAcc t l .mdead (globalVa s l a 0) 1 with scope := 3, ret := false }))) ∧
  (∀ (s : State) (d a b : Code),
      let t := begun s 1
      let enter (i : Instr) (f : Nat → Acc) : State := enterAccs (sending i s 1) (issuing s) 1 f
      let va (l : Nat) : Nat := globalVa s l a 0
      let fine (w : Nat → Nat) : Prop := ∀ l ∈ lanes s, va l % w l = 0 ∧ va l < 2 ^ 56
      let w (l : Nat) : Nat := if isWide s l then 8 else 4
      let acc (op : AccOp) (l : Nat) : Acc := atomAcc t l op (va l) (w l) (typedVal s l b) 0 (typedCodes s l d)
      (fine w →
        (∀ p ∈ ([(.atomAdd d a b, .add), (.atomMin d a b, .imin), (.atomMax d a b, .imax), (.atomAnd d a b, .band), (.atomOr d a b, .bor),
            (.atomXor d a b, .bxor), (.atomXchg d a b, .xchg)] : List (Instr × AccOp)),
          ready p.1 [0, 1, 6, 7] s = true → exec p.1 s = .next (enter p.1 (acc p.2))) ∧
        (ready (.atomCas d a b) [0, 1, 6, 7] s = true → exec (.atomCas d a b) s = .next (enter (.atomCas d a b) fun l =>
          let v := if isWide s l then runValue s l b 4 else rdP s l b
          atomAcc t l .cas (va l) (w l) (v / 2 ^ (8 * w l)) (v % 2 ^ (8 * w l)) (typedCodes s l d))) ∧
        (ready (.redAdd a b) [0, 1, 6, 7, 8] s = true → exec (.redAdd a b) s = .next (enter (.redAdd a b) fun l =>
          { atomAcc t l (if laneType s l = 8 then .fadd else .add) (va l) (w l) (typedVal s l b) 0 [] with
            acq := false, ret := false, draws := if laneType s l = 8 then faddDraws t l else [] }))) ∧
      (fine (fun _ => 4) → ready (.atomFadd d a b) [8, 9, 10] s = true → exec (.atomFadd d a b) s = .next (enter (.atomFadd d a b) fun l =>
        { atomAcc t l .fadd (va l) 4 (rdA s l b) 0 [d.toNat] with draws := faddDraws t l })))

/-- R182, R217, R238, R240, R241, R243: scratchpad accesses inside the team's window, aligned, whose lines need no fill, are
performed lane by lane in ascending order. R243, R244: an atomic on the scratchpad by one lane: D has the old value, the
window the new one; the release and the acquire of its ORDER surround it. R194, R227, R246 to R248, R250: fences with nothing
outstanding, stash instructions on lines that need no fill, and a prefetch. STASH.MAP with ZERO as its address unmaps; else it
maps its range once every page of it is known. -/
def Obligations.ScratchpadAndFenceResults : Prop :=
  (∀ (s : State) (d a b : Code),
      let g := s.cur.g
      let tk := (s.grp g).team
      let off (x : Code) (l : Nat) : Nat := (rdA s l x + rdA s l b) % 2 ^ 32
      let fine (o : Nat → Nat) (w : Nat) (write : Nat → Bool) : Prop :=
        ∀ l ∈ lanes s, o l % w = 0 ∧ o l + w ≤ (s.team tk).win ∧
          (rangeAt (s.team tk) (o l) = none ∨ s.l1 = [] ∧ s.l1sets = [] ∧ needsFill s tk (o l) (write l) = false)
      let en (l : Nat) : Nat := if bitOf (laneK s l) 4 then laneK s l % 16 else 15
      let loads (i : Instr) (o : Nat → Nat) (w : Nat) (f : Nat → LaneOut) : State :=
        winAfter i s id ((lanes s).map fun l => { off := o l, width := w }) ((lanes s).map fun l => (l, f l))
      let stores (i : Instr) (o : Nat → Nat) (w : Nat) (en x : Nat → Nat) : State :=
        winAfter i s (fun t => (lanes s).foldl (fun t l => winWrite t tk (o l) w (en l) (x l)) t)
          ((lanes s).map fun l => { off := o l, width := w, enable := en l, data := x l, op := .store }) ((lanes s).map fun l => (l, {}))
      (fine (off a) 4 (fun _ => false) → ready (.lds d a b) [] s = true →
        exec (.lds d a b) s = .next (loads (.lds d a b) (off a) 4 fun l => { writes := [(d.toNat, winRead s tk (off a l) 4 % 2 ^ 32)] })) ∧
      (fine (off a) 16 (fun _ => false) → ready (.ldsX4 d a b) [] s = true →
        exec (.ldsX4 d a b) s = .next (loads (.ldsX4 d a b) (off a) 16 fun l =>
          { writes := (List.range 4).map fun i => (d.toNat + i, winRead s tk (off a l) 16 / 2 ^ (32 * i) % 2 ^ 32) })) ∧
      (fine (off d) 4 (fun l => en l != 0) → ready (.sts d a b) [] s = true →
        exec (.sts d a b) s = .next (stores (.sts d a b) (off d) 4 en fun l => rdA s l a)) ∧
      (fine (off d) 16 (fun _ => true) → ready (.stsX4 d a b) [] s = true →
        exec (.stsX4 d a b) s = .next (stores (.stsX4 d a b) (off d) 16 (fun _ => 65535) fun l => runValue s l a 4))) ∧
  (∀ (s : State) (d a b : Code) (l : Nat),
      let g := s.cur.g
      let tk := (s.grp g).team
      let o := rdA s l a
      let wide := wideScope (modeScope (laneMode s l))
      let t := if orderRel (laneMode s l) && wide then writeBackCore (begun s 1) (ckOf g) else begun s 1
      let old := winRead t tk o 4
      let run (i : Instr) (new : Nat) : State :=
        let u := commit (winWrite t tk o 4 15 new) i [(l, { writes := [(d.toNat, old % 2 ^ 32)] })]
        dropKept (past 1 s (if orderAcq (laneMode s l) && wide then dropClean u (ckOf g) else u)) g (issuing s)
      lanes s = [l] → o % 4 = 0 → o + 4 ≤ (s.team tk).win → rangeAt (s.team tk) o = none →
      (ready (.atomsAdd d a b) [0, 1] s = true → exec (.atomsAdd d a b) s = .next (run (.atomsAdd d a b) ((old + rdA s l b) % 2 ^ 32))) ∧
      (ready (.atomsCas d a b) [0, 1] s = true → exec (.atomsCas d a b) s =
        .next (run (.atomsCas d a b) (if old = rdP s l b % 2 ^ 32 then rdP s l b / 2 ^ 32 else old)))) ∧
  (∀ (s : State) (d a b : Code),
      let g := s.cur.g
      let tk := (s.grp g).team
      let lo := lowest (issuing s)
      let o := rdA s lo d
      let va := rdP s lo a
      let n := rdA s lo b
      let found := (stripesOf va n).map fun p => locate s (gdOf g) (issueAsid s) p
      let es := if n = 0 then [] else stashIn s tk (rdA s lo a / 64) ((rdA s lo a + n + 63) / 64)
      let settled (es : List (Nat × StashLine)) : Prop := stashStuck (begun s 1) es = none
      (ready .fence [] s = true → (lanes s).all (fun l => (fenceAccs s g l (laneMode s l)).isEmpty) = true →
        ((lanes s).any (fun l => modeScope (laneMode s l) == 6) = true → bankCmds s g = []) →
        exec .fence s = .next (past 1 s (fenceEffect (begun s 1) g ((lanes s).map fun l => laneMode s l)))) ∧
      (ready .fenceBank [] s = true → bankCmds s g = [] → exec .fenceBank s = .next (past 1 s (dropClean (begun s 1) (ckOf g)))) ∧
      (ready (.stashMap d a b) [] s = true → o % 64 = 0 → n % 64 = 0 → 64 ≤ n → o + n ≤ (s.team tk).win → a.toNat = 0xFE → settled (goneLines s tk o n) →
        exec (.stashMap d a b) s = .next (past 1 s (unmapRanges (popAll (begun s 1) (.stashMap d a b)) tk o n))) ∧
      (ready (.stashMap d a b) [] s = true → o % 64 = 0 → n % 64 = 0 → 64 ≤ n → o + n ≤ (s.team tk).win → a.toNat ≠ 0xFE → va % 64 = 0 → va + n ≤ 2 ^ 56 → settled (goneLines s tk o n) →
        ((s.team tk).stash.filter fun r => !overlap r.off r.len o n).length < 16 →
        (∀ f ∈ found, ∃ l : Loc, f = .at l ∧ fR l.leaf = true ∧ fHs l.leaf = false ∧ l.host = false ∧ l.obs = false ∧ pkgOf l.gd = pkgOf (gdOf g)) →
        leads (.stashMap d a b) s fun t => (t.team tk).stash = ((s.team tk).stash.filter fun r => !overlap r.off r.len o n) ++ [{ off := o, addr := va, len := n }]) ∧
      (ready (.stashWb a b) [] s = true → settled es → exec (.stashWb a b) s = .next (past 1 s (stashBacks (popAll (begun s 1) (.stashWb a b)) es))) ∧
      (ready (.stashInv a b) [] s = true → settled es → exec (.stashInv a b) s = .next (past 1 s (stashOuts (popAll (begun s 1) (.stashInv a b)) es))) ∧
      (ready (.pref a b) [] s = true → exec (.pref a b) s = .next (past 1 s
        (((lanes s).map fun l => (laneMode s l, globalVa s l a (offOf s l b))).foldl (fun t v => prefLane t g v.1 v.2) (popAll (begun s 1) (.pref a b))))))

/-! ### Commands (07, 08, 10) -/

/-- R155 to R180, R251: a matrix instruction by all 64 lanes with one mode, whose handles are bound and whose region is there, of
a task that holds the array: the command is entered with its operands as they stand. R161 to R170, R172, R173, R372: columns
are granted, zeroed and freed; a header is written; a tile command waits for the stream loader; a configuration that changes
something becomes a command. -/
def Obligations.MatrixInstructionResults : Prop :=
  (∀ (s : State) (d a b : Code) (w : BitVec 32),
      let t := begun s 2
      let handle (i : Code) : Bool := (boundRun s s.cur.g i.toNat).isSome
      let cmd (i : Instr) (op : CmdOp) (hs : List Code) (f : Cmd → Cmd) : State :=
        past 2 s (postCmd (popAll t i) (f { baseCmd t (issuing s) op w with handles := capture t hs, k := laneK s 0 }))
      matrixTogether s (issuing s) = true → hasArray s = true → syncFine s .command w 1 = true →
      (ready (.mwload d a w) [] s = true → handle a = true → badRegion s d = none →
        exec (.mwload d a w) s = .next (cmd (.mwload d a w) .mwload [a] fun c => { c with d := d.toNat, a := a.toNat })) ∧
      (ready (.mwswap d w) [] s = true → badRegion s d = none →
        exec (.mwswap d w) s = .next (cmd (.mwswap d w) .mwswap [] fun c => { c with d := d.toNat })) ∧
      (ready (.mma d a b w) [] s = true → handle d = true → handle b = true → badRegion s a = none → d ≠ b →
        exec (.mma d a b w) s = .next (cmd (.mma d a b w) .mma [d, b] fun c => { c with d := d.toNat, a := a.toNat, b := b.toNat })) ∧
      (ready (.mmaSp d a b w) [] s = true → handle d = true → handle b = true → badRegion s a = none → d ≠ b →
        exec (.mmaSp d a b w) s = .next (cmd (.mmaSp d a b w) .mmaSp [d, b] fun c => { c with d := d.toNat, a := a.toNat, b := b.toNat })) ∧
      (ready (.maccZero d a w) [] s = true → handle d = true → badRegion s a = none →
        exec (.maccZero d a w) s = .next (cmd (.maccZero d a w) .maccZero [d] fun c => { c with d := d.toNat, a := a.toNat })) ∧
      (ready (.maccRd d a b w) [] s = true → handle b = true → badRegion s a = none →
        exec (.maccRd d a b w) s = .next (cmd (.maccRd d a b w) .maccRd [b] fun c => { c with d := d.toNat, a := a.toNat, b := b.toNat, dst := [(d.toNat, 16)] }))) ∧
  (∀ (s : State) (d a b : Code) (w : BitVec 32),
      let g := s.cur.g
      let n := lane0 s a
      let held (i : Instr) (op : CmdOp) (h addr len : Code) : State :=
        let t := begun s 2
        let c := { baseCmd t (issuing s) op w with handles := capture t [h], d := h.toNat, a := rd64 s g 0 addr.toNat, b := lane0 s len, loading := true, popped := rowsOf t i }
        ((postCmd (popAll t i) c).modGrp g fun x => { x with service := some (.loader t.nextId) }).onLanes g (lanes s) fun _ y => { y with stand := .held }
      matrixTogether s (issuing s) = true →
      (ready (.mcolAlloc d a b) [] s = true → 1 ≤ n → n ≤ 64 → boundRun s g d.toNat = none →
        (∀ c, freeRun s (qkOf g) n = some c → leads (.mcolAlloc d a b) s fun t => boundRun t g d.toNat = some (c, n) ∧
          ∀ i < n, ∀ r < 64, ∀ o < 512, opByte t (qkOf g) (c + i) r o = 0) ∧
        (freeRun s (qkOf g) n = none → leads (.mcolAlloc d a b) s fun t => t.handles = s.handles ∧ t.opmem = s.opmem)) ∧
      (ready (.mcolFree d) [] s = true → (boundRun s g d.toNat).isSome = true → leads (.mcolFree d) s fun t => boundRun t g d.toNat = none) ∧
      (∀ c k, ready (.mtileHdr d a) [] s = true → boundRun s g d.toNat = some (c, k) →
        leads (.mtileHdr d a) s fun t => (∀ i < 4, headWord t (qkOf g) c i = rd s g 0 (a.toNat + i)) ∧ t.opmem = s.opmem) ∧
      (ready (.mtileLd d a b w) [] s = true → (boundRun s g d.toNat).isSome = true → rd64 s g 0 a.toNat < 2 ^ 56 → rd64 s g 0 a.toNat % 64 = 0 →
        loaderTrap s false (rd64 s g 0 a.toNat) (lane0 s b) = none →
        syncFine s .command w 1 = true → exec (.mtileLd d a b w) s = .next (held (.mtileLd d a b w) .mtileLd d a b)) ∧
      (ready (.mtileSt d a b w) [] s = true → (boundRun s g a.toNat).isSome = true → rd64 s g 0 d.toNat < 2 ^ 56 → rd64 s g 0 d.toNat % 64 = 0 →
        loaderTrap s true (rd64 s g 0 d.toNat) (lane0 s b) = none →
        syncFine s .command w 1 = true → exec (.mtileSt d a b w) s = .next (held (.mtileSt d a b w) .mtileSt a d b)) ∧
      (ready (.mcfg a) [] s = true → hasArray s = true → n < 8 → (bitOf n 2 = true → bitOf n 0 = true) →
        (∀ r < 2, bitOf n (1 + r) = true → ringReady s (qkOf g) r (bitOf n 0) = true) → changedRegions (cfgAhead s (qkOf g)) n ≠ 0 →
        leads (.mcfg a) s fun t => (t.array (qkOf g)).latest = n ∧ (t.array (qkOf g)).inForce = (s.array (qkOf g)).inForce ∧
          ∃ c, Tab.find? t.cmds s.nextId = some c ∧ c.op = .mcfg ∧ c.a = n))

/-- R252, R254 to R257: copies, gathers, scatters, PUT, GET and remote atomics whose ranges are aligned, inside the address
spaces, homed where they must be and do not overlap become commands. -/
def Obligations.MoverCommandsIssue : Prop :=
  ∀ (s : State) (d a b : Code) (w : BitVec 32),
    let t := begun s 2
    let lo := lowest (issuing s)
    let x := rdP s lo d
    let y := rdP s lo a
    let n := rdA s lo b
    let cmd (i : Instr) (op : CmdOp) (f : Cmd → Cmd) : State := past 2 s (postCmd (popAll t i) (f (baseCmd t (issuing s) op w)))
    let copy (c : Cmd) : Cmd := { c with d := x, a := y, b := n }
    let elems (base per : Code) : Prop :=
      n % 4 = 0 ∧ 4 ≤ n ∧ n ≤ 256 ∧ rdP s lo base % 4 = 0 ∧
      ∀ l ∈ lanes s, rdP s l per % 4 = 0 ∧ rdP s lo base + l * n + n ≤ 2 ^ 56 ∧ rdP s l per + n ≤ 2 ^ 56 ∧ issueHomed s (rdP s lo base + l * n) n = true ∧ issueHomed s (rdP s l per) n = true
    let each (per : Code) : List LaneVal := (lanes s).map fun l => { lane := l, x := rdP s l per }
    syncFine s .command w 1 = true →
    (n % 4 = 0 → 4 ≤ n → n ≤ 2 ^ 30 → x % 4 = 0 → y % 4 = 0 → x + n ≤ 2 ^ 56 → y + n ≤ 2 ^ 56 →
      (issueHomed s x n && issueHomed s y n && overlap x n y n) = false →
      (ready (.movCpy d a b w) [] s = true → issueHomed s x n = true → issueHomed s y n = true →
        exec (.movCpy d a b w) s = .next (cmd (.movCpy d a b w) .movCpy copy)) ∧
      (ready (.putCmd d a b w) [] s = true → issueHomed s y n = true → exec (.putCmd d a b w) s = .next (cmd (.putCmd d a b w) .put copy)) ∧
      (ready (.getCmd d a b w) [] s = true → issueHomed s x n = true → exec (.getCmd d a b w) s = .next (cmd (.getCmd d a b w) .get copy))) ∧
    (ready (.movGth d a b w) [] s = true → elems d a →
      exec (.movGth d a b w) s = .next (cmd (.movGth d a b w) .movGth fun c => { c with d := x, b := n, lanes := each a })) ∧
    (ready (.movSct d a b w) [] s = true → elems a d →
      exec (.movSct d a b w) s = .next (cmd (.movSct d a b w) .movSct fun c => { c with d := y, b := n, lanes := each d })) ∧
    (ready (.ratom d a b w) [] s = true → laneK s lo < 8 → (∀ l ∈ lanes s, rdP s l a % 4 = 0 ∧ rdP s l a < 2 ^ 56) →
      exec (.ratom d a b w) s = .next (cmd (.ratom d a b w) .ratom fun c =>
        { c with d := d.toNat, dst := [(d.toNat, 2)],
                 lanes := (lanes s).map fun l => { lane := l, x := rdP s l a, y := rdP s l b % 2 ^ 32, z := rdP s l b / 2 ^ 32 } }))

/-- R206, R207, R251, R258 to R260: a bank command whose operands lie in one bank, and R261 to R263: a collective of a task that
is a rank of the communicator it names, with buffers that are aligned and apart, becomes a command. -/
def Obligations.BankAndCollectiveCommandsIssue : Prop :=
  ∀ (s : State) (d a b : Code) (w : BitVec 32),
    let t := begun s 2
    let lo := lowest (issuing s)
    let x := rdP s lo d
    let y := rdP s lo a
    let n := laneK s lo
    let ty := laneType s lo
    let cmd (i : Instr) (op : CmdOp) (f : Cmd → Cmd) : State := past 2 s (postCmd (popAll t i) (f (baseCmd t (issuing s) op w)))
    let place : Nat × Nat := (bankRange s x n).elim (0, 0) fun l => (l.gd, pageColour l.page)
    let bank (tys : List Nat) (srcs : List Code) : Prop :=
      (tys = [] ∨ ty ∈ tys) ∧ bankTrap s (x :: srcs.map (rdP s lo)) n = none ∧ partAlias s x (srcs.map (rdP s lo)) n = none ∧
      ∀ v ∈ x :: srcs.map (rdP s lo), v < 2 ^ 56
    let desc := rdA s lo b
    let ranks := (commRanks s (gdOf s.cur.g) (s.grp s.cur.g).ctx (bitsOf desc 31 20)).getD []
    let coll (op : CmdOp) (r : Nat) : Prop :=
      n % 64 = 0 ∧ x % 64 = 0 ∧ y % 64 = 0 ∧ 64 ≤ n ∧ n ≤ 2 ^ 28 ∧ desc % 4096 < ranks.length ∧ bitsOf desc 19 18 ≠ 3 ∧ bitsOf desc 17 12 = 0 ∧
      (op = .collBc ∨ desc % 4096 = 0) ∧ x + recvLen op n ranks.length ≤ 2 ^ 56 ∧ y + sendLen op n ranks.length ≤ 2 ^ 56 ∧
      (overlap x (recvLen op n ranks.length) y (sendLen op n ranks.length) = false ∨ x = y ∧ (op = .collAr ∨ op = .collBc ∧ r = desc % 4096))
    syncFine s .command w 1 = true → isSto (laneMode s lo) = false →
    (bank [0, 1, 2, 3, 4, 5, 8, 9, 10] [a, b] →
      (ready (.bopAdd d a b w) [] s = true → exec (.bopAdd d a b w) s = .next (cmd (.bopAdd d a b w) .bopAdd fun c => { c with d := x, bank := place, a := y, b := rdP s lo b })) ∧
      (ready (.bopMax d a b w) [] s = true → exec (.bopMax d a b w) s = .next (cmd (.bopMax d a b w) .bopMax fun c => { c with d := x, bank := place, a := y, b := rdP s lo b }))) ∧
    (bank [8, 9, 10] [a] → ready (.bopAxpy d a b w) [] s = true →
      exec (.bopAxpy d a b w) s = .next (cmd (.bopAxpy d a b w) .bopAxpy fun c => { c with d := x, bank := place, a := y, b := desc })) ∧
    (bank [0, 1, 2, 3, 4, 5, 8, 9, 10, 11, 12] [a] → cvtControlBad desc ty = false → ready (.bopCvt d a b w) [] s = true →
      exec (.bopCvt d a b w) s = .next (cmd (.bopCvt d a b w) .bopCvt fun c => { c with d := x, bank := place, a := y, b := desc })) ∧
    (bank [] [] → ready (.bopFill d b w) [] s = true → exec (.bopFill d b w) s = .next (cmd (.bopFill d b w) .bopFill fun c => { c with d := x, bank := place, b := desc })) ∧
    (∀ r, collRank s (gdOf s.cur.g) (s.grp s.cur.g).ctx (bitsOf desc 31 20) (s.grp s.cur.g).task = some r →
      ∀ p ∈ ([(.collAr d a b w, .collAr, true), (.collAg d a b w, .collAg, false), (.collRs d a b w, .collRs, true), (.collA2a d a b w, .collA2a, false),
          (.collBc d a b w, .collBc, false)] : List (Instr × CmdOp × Bool)),
        ready p.1 [] s = true → (p.2.2 = true → ty ∈ [0, 1, 8, 9, 10]) → coll p.2.1 r →
        exec p.1 s = .next (cmd p.1 p.2.1 fun c => { c with d := x, a := y, b := desc, rank := r }))

/-! ### Channels, semaphores, tasks and tokens (12, 14) -/

/-- R299, R300, R341: CH.OPEN binds the group's task to a channel of its context in the roles asked for; CH.CLOSE takes roles
away, and with the last producer the channel closes. R316, R344 to R347: posts reserve an entry and become commands; an edge
makes its to entry wait for its from entry; TASK.SIG posts a release; TASK.PULL makes its group wait. -/
def Obligations.ChannelAndTaskResults : Prop :=
  (∀ (s : State) (d a : Code),
      let g := s.cur.g
      let e := (s.grp g).task
      let r := rdA s (lowest (issuing s)) a
      let k := chanKey g d.toNat
      isCh a.toNat = false → (r = 1 ∨ r = 2 ∨ r = 3) →
      (ready (.chOpen d a) [] s = true →
        (Tab.has s.chans k = true → (s.chan g d.toNat).ctx = (s.grp g).ctx ∧ (bitOf r 0 = true → (s.chan g d.toNat).closed = false) ∧
          (e ∈ bound (s.chan g d.toNat) ∨ (bound (s.chan g d.toNat)).length < 32)) →
        leads (.chOpen d a) s fun t => (bitOf r 0 = true → e ∈ (t.chan g d.toNat).prods) ∧ (bitOf r 1 = true → e ∈ (t.chan g d.toNat).cons) ∧
          (t.chan g d.toNat).rows = (s.chan g d.toNat).rows ∧ t.vregs = s.vregs ∧ t.mem = s.mem) ∧
      (∀ c, ready (.chClose d a) [] s = true → Tab.find? s.chans k = some c →
        leads (.chClose d a) s fun t => (bitOf r 0 = true → e ∉ (t.chan g d.toNat).prods) ∧ (bitOf r 1 = true → e ∉ (t.chan g d.toNat).cons) ∧
          (bitOf r 0 = true → c.prods = [e] → c.rows ≠ [] → (t.chan g d.toNat).closed = true ∧ (t.chan g d.toNat).rows = c.rows) ∧ t.vregs = s.vregs ∧ t.mem = s.mem)) ∧
  (∀ (s : State) (d a b : Code) (w : BitVec 32),
      let g := s.cur.g
      let gd := gdOf g
      let lo := lowest (issuing s)
      let f := rdA s lo a
      let u := rdA s lo b
      let post (i : Instr) (op : CmdOp) (root : Bool) (e : Nat) : State :=
        let t := begun s 2
        let c := { baseCmd t (issuing s) op w with d := d.toNat, a := rdP s lo a, b := u, pos := e, dst := liveDst d }
        let t := (postCmd (popAll t i) c).modEntry e fun x => { x with reserving := true }
        past 2 s (if root then t.modGrp g fun x => { x with service := some (.launch s.nextId) } else t)
      (∀ e, u < 65536 → rdP s lo a < 2 ^ 56 → syncFine s .command w 1 = true →
        (ready (.taskPost d a b w) [] s = true → freeEntryOf s gd = some e → exec (.taskPost d a b w) s = .next (post (.taskPost d a b w) .taskPost false e)) ∧
        (ready (.launch d a b w) [] s = true → freeEntryOf s (rootDie s gd) = some e → exec (.launch d a b w) s = .next (post (.launch d a b w) .launch true e))) ∧
      (ready (.taskDep a b) [] s = true → strayTask gd f = false → strayTask gd u = false → (s.entry (entryOf u)).ctx = (s.grp g).ctx →
        (s.entry (entryOf u)).st = .waiting → (s.entry (entryOf f)).ctx = (s.grp g).ctx → (s.entry (entryOf f)).st = .running →
        entryOf u ≠ entryOf f → (s.entry (entryOf u)).dep < 65535 →
        leads (.taskDep a b) s fun t => (t.entry (entryOf u)).dep = (s.entry (entryOf u)).dep + 1 ∧
          (t.entry (entryOf f)).deps = (s.entry (entryOf f)).deps ++ [w32 (taskIdOf (entryOf u))]) ∧
      (ready (.taskSig a b) [] s = true → u < 2 → strayTask gd f = false → (s.entry (entryOf f)).ctx = (s.grp g).ctx → (s.entry (entryOf f)).st = .waiting →
        (s.entry (entryOf f)).dep ≠ 0 → exec (.taskSig a b) s = .next (past 1 s (postSig (popAll (begun s 1) (.taskSig a b))
          { ck := ckOf g, sem := 0, delta := 0, fset := u == 1, g := g, accs := undone s g (issuing s), wide := true, task := some (entryOf f, u == 1) }))) ∧
      (ready (.taskPull d a b) [] s = true → anyHandler s = false → issuing s = liveLanes s g → f < 64 → dGroups (s.entry (s.grp g).task).words = 1 →
        leads (.taskPull d a b) s fun t => (t.grp g).service = some (.pull d.toNat f s.cycle (s.cycle + u) (issuing s))))

/-- R343: SEMA.RD gives every issuing lane the word of a semaphore: its count, its fault flag, what is pending; an acquire ORDER
of the lowest issuing lane acquires. -/
def Obligations.SemaphoreReads : Prop :=
  ∀ (s : State) (d a : Code),
    let g := s.cur.g
    let ck := ckOf g
    let y := s.sem ck a.toNat
    let t := writeGroup (begun s 1) (.semaRd d a) (issuing s) d (y.count % 1024 + (if y.fault then 1024 else 0) + 65536 * (y.pending % 1024))
    ready (.semaRd d a) [] s = true → semGranted s g a.toNat = true →
      exec (.semaRd d a) s = .next (past 1 s (if orderAcq (laneMode s (lowest (issuing s))) && y.wide then dropClean t ck else t))

/-- R38, R342: SEMA.ADD on a semaphore of a granted block: a negative DELTA subtracts at once, a positive one adds, and FSET sets
the fault flag, at once where nothing is to be released first. -/
def Obligations.SemaphoreResults : Prop :=
  ∀ (s : State) (d a : Code),
    let g := s.cur.g
    let ck := ckOf g
    let w := rdA s (lowest (issuing s)) a
    let x := s.sem ck d.toNat
    (ready (.semaAdd d a) [] s = true → semGranted s g d.toNat = true → bitsOf w 29 11 = 0 → bitOf w 31 = false →
      (semaDelta w ≤ 0 → 0 ≤ (x.count : Int) + semaDelta w → leads (.semaAdd d a) s fun t =>
        ((t.sem ck d.toNat).count : Int) = x.count + semaDelta w ∧ (t.sem ck d.toNat).pending = x.pending ∧ (t.sem ck d.toNat).fault = (x.fault && !bitOf w 30)) ∧
      (0 < semaDelta w → (x.count : Int) + x.pending + semaDelta w ≤ 1023 → modeScope (laneMode s (lowest (issuing s))) = 0 → undone s g (issuing s) = [] →
        leads (.semaAdd d a) s fun t => ((t.sem ck d.toNat).count : Int) = x.count + semaDelta w ∧ (t.sem ck d.toNat).pending = x.pending)) ∧
    (ready (.semaAdd d a) [] s = true → semGranted s g d.toNat = true → w = 2 ^ 31 → modeScope (laneMode s (lowest (issuing s))) = 0 → undone s g (issuing s) = [] →
      leads (.semaAdd d a) s fun t => (t.sem ck d.toNat).fault = true ∧ (t.sem ck d.toNat).count = x.count)

/-- R349 to R354: record instructions by one lane. A new record is Held by the task with the lane's words, but for those the
hardware sets; words are read and written through a valid handle; a record goes to its operator's Tray, to another die, or
back to the store, which changes no memory. -/
def Obligations.TokenInstructionResults : Prop :=
  ∀ (s : State) (d a b : Code) (w : BitVec 32) (l : Nat), lanes s = [l] →
    let g := s.cur.g
    let gd := gdOf g
    let e := (s.grp g).task
    let ws := (List.range 16).map fun i => rd s g l (a.toNat + i)
    (∀ n, ready (.tokNew d a) [] s = true → kindOf (ws.getD 3 0) ≠ 3 → freeSlot s gd = some n → d.toNat < 0xC0 →
      leads (.tokNew d a) s fun t => t.recAt (recKey gd n) = { st := .held e, words := newWords ws gd (s.ctxOf (s.grp g).ctx).tenant, born := s.cycle } ∧
        rd t g l d.toNat = n) ∧
    (∀ k, ready (.tokRd d a b) [] s = true → handleRec s g (rdA s l a) = some k → d.toNat < 0xC0 →
      leads (.tokRd d a b) s fun t => rd t g l d.toNat = recWord s (s.recAt k) (rdA s l b % 16) % 2 ^ 32 ∧ t.recs = s.recs) ∧
    (∀ k, ready (.tokWr d a b) [] s = true → handleRec s g (rdA s l d) = some k → (rdA s l b % 16 = 3 → kindOf (rdA s l a) ≠ 3) →
      leads (.tokWr d a b) s fun t => t.recAt k = recWrite (s.recAt k) (rdA s l b % 16) (rdA s l a)) ∧
    (∀ k, ready (.tokRet a) [] s = true → handleRec s g (rdA s l a) = some k → leads (.tokRet a) s fun t => Tab.find? t.recs k = none ∧ t.mem = s.mem ∧ t.opmem = s.opmem ∧ t.vregs = s.vregs) ∧
    (∀ k y, ready (.tokNext a) [] s = true → handleRec s g (rdA s l a) = some k → trayOf s gd (recOper (s.recAt k)) = some y →
      leads (.tokNext a) s fun t => t.recAt k = { s.recAt k with st := .waiting, tray := y, arrivedAt := s.cycle, words := (s.recAt k).words.set 14 0x00FFFFFF#32 }) ∧
    (∀ k, ready (.tokSend a b w) [] s = true → handleRec s g (rdA s l a) = some k → rdA s l b < 65536 → syncFine s .command w 1 = true →
      leads (.tokSend a b w) s fun t => ∃ c, Tab.find? t.cmds s.nextId = some c ∧ c.op = .tokSend ∧ c.a = k ∧ c.d = rdA s l b ∧ c.sync = w)

/-! ### Device events: groups, accesses, commands (08 to 10, 12, 13) -/

/-- R286, R293 to R295, R327, R329, R336: a back-off that has run out, the run limit, starvation, a boundary that a group takes, a
continuation whose condition holds. R292: a group whose live lanes all wait where they can never be released enters the
handler with ILLEGAL_CONVERGENCE. -/
def Obligations.GroupAndConvergenceEvents : Prop :=
  (∀ (s : State) (g l : Nat),
      ((∀ j ∈ lanesIn (pathWith s g l), (s.lane g j).waitUntil ≤ s.cycle) →
        exec (.trapBackoffExpiry g l) s = .next (s.onLanes g (lanesIn (pathWith s g l)) fun _ y => { y with waitUntil := 0 })) ∧
      (64 ≤ (s.grp g).runCount → exec (.pathRunLimit g) s = .next (s.modGrp g fun x => { x with pathDue := true, runCount := 0 })) ∧
      (256 ≤ (s.grp g).waited → exec (.groupStarved g) s = .next (s.modGrp g fun x => { x with starved := true })) ∧
      (∀ pc, boundaryReady s g = some (pc, .yieldGroup) → (∀ j ∈ lanesIn (liveLanes s g), (s.lane g j).failed = []) →
        leads (.boundaryTaken g) s fun t => (t.grp g).susp = some { cont := pc + 4 } ∧ (t.grp g).bounds = []) ∧
      (∀ pc x w, boundaryReady s g = some (pc, .suspGroup x w) → sEn w = false → (∀ j ∈ lanesIn (liveLanes s g), (s.lane g j).failed = []) →
        leads (.boundaryTaken g) s fun t => (t.grp g).bounds = [] ∧
          (t.grp g).susp = some { cont := litTarget pc x, wen := wEn w, wsem := wSem w, wthr := wThr w, sync := w }) ∧
      (∀ pc i, boundaryReady s g = some (pc, i) → (∃ w, i = .endGroup w) ∨ (∃ x w, i = .suspGroup x w) →
        (∀ j ∈ lanesIn (liveLanes s g), (s.lane g j).failed = []) → ((∃ w, i = .endGroup w) → wbFailOf s (ckOf g) (s.ctxOf (s.grp g).ctx).asid = none) →
        exec (.boundaryTaken g) s = .next (takeBoundary s g pc i)) ∧
      (∀ pc x w, boundaryReady s g = some (pc, .syncGroup x w) → (∀ j ∈ lanesIn (liveLanes s g), (s.lane g j).failed = []) →
        let t := writeBackCore s (ckOf g)
        coreClean t (ckOf g) = true → wbFailOf t (ckOf g) (s.ctxOf (s.grp g).ctx).asid = none →
        exec (.boundaryTaken g) s = .next (takeBoundary t g pc (.syncGroup x w))) ∧
      (∀ x, contReady s g = some x → (x.broken = false ∨ sEn x.sync = true) →
        exec (.continuationDispatch g) s =
          .next (startFiring (if x.acq then dropClean s (ckOf g) else if x.wen then acquireSem s (ckOf g) x.sync else s) g x.cont))) ∧
  (∀ (s : State) (g : Nat), stalled s g = true → (∀ l ∈ lanesIn (liveLanes s g), (s.lane g l).inHandler = false) →
      (s.ctxOf (s.grp g).ctx).trapent ≠ 0 → creditsFree s (ckOf g) = true →
      leads (.convergenceFault g) s fun t => (t.grp g).inHandler = true ∧ (t.grp g).tcause.toNat % 256 = cCONVERGENCE ∧ t.mem = s.mem ∧ t.vregs = s.vregs)

/-- R295: a firing starts from these values: the mode register and k at their start values, the barriers empty, the active mask
that held at the boundary, every lane at the continuation address with an empty return stack. Registers, predicates, ASTAT,
the stream word and the draw counter carry over; its age is its cycle of dispatch. -/
def Obligations.FiringStarts : Prop :=
  ∀ (s : State) (g : Nat) (c : BitVec 56),
    let t := startFiring s g c
    (∀ l < 64, (liveLanes s g).getLsbD l = true →
      let x := s.lane g l
      let y := t.lane g l
      y.pc = c ∧ y.mac = none ∧ y.mode = 0x00070000#32 ∧ y.k = 0 ∧ y.ret = [] ∧ y.stand = .run ∧
        y.preds = x.preds ∧ y.astat = x.astat ∧ y.streamid = x.streamid ∧ y.drawctr = x.drawctr) ∧
    (∀ b, (t.grp g).cb b = {}) ∧ (t.grp g).active = (s.grp g).active ∧ (t.grp g).age = s.cycle ∧ t.vregs = s.vregs ∧ t.sregs = s.sregs

/-- R288, R362, R365: a walk fills the cache it was made for; when every access of an issue is translated, allowed and present,
its lanes go on and each access is on its way to its home. -/
def Obligations.TranslationEvents : Prop :=
  ∀ (s : State) (g h gd asid va key req : Nat),
    (∀ leaf, raiseHolds s asid = false → walkHome s gd asid va = .ok leaf →
      leads (.hlbWalkComplete gd asid va req) s fun t =>
        Tab.find? t.hlb (hlbKey gd asid va) = some { gen := s.curgen gd asid, leaf := BitVec.ofNat 64 leaf, used := s.tick } ∧ t.mem = s.mem ∧
        t.accs = s.accs.map fun e => if e.2.stage = .issued ∧ gdOf e.2.g = gd ∧ e.2.asid = asid ∧ e.2.va / 2 ^ 21 = va / 2 ^ 21 then (e.1, { e.2 with via := some leaf }) else e) ∧
    (∀ e, raiseHolds s asid = false → (∀ il < 8, walkFrame s gd asid il key = .ok e) →
      leads (.ctcWalkComplete gd asid key req) s fun t =>
        Tab.find? t.ctc (ctcKey gd asid key) = some { gen := s.curgen gd asid, leaf := BitVec.ofNat 64 e, used := s.tick } ∧ t.mem = s.mem ∧ t.accs = s.accs) ∧
    (let es := holdAccs s g h
     let w := es.foldl answerOne { s := s }
     let ok := maskOf fun l => w.served.contains l
     let count (s : State) (p : Bool) (ev : Nat) : State := s.event (ckOf g) (slotOf g) ev (b2n p)
     es ≠ [] → accGated s g = false → (∀ e ∈ es, accAns s e.2 ≠ .wait) → movedAccs s es = [] → absentOf s es = none → w.missed = [] → w.trapped = [] →
      exec (.translationAnswer g h) s =
        .next ((dropKept (advance (count (count (count w.s w.hit 38) w.cold 39) w.unright 45) g 1 ok) g ok).onLanes g (lanesIn ok) fun _ y => { y with stand := .run })) ∧
    (∀ (w : Answer) id (a : Acc) home k leaf, accAns w.s a = .go home k leaf → leaf ≠ 0 → a.scope ≠ 0 →
      let b : Acc := { a with home := home, key := k, leaf := leaf, stage := .going, sent := true, sentAt := w.s.cycle, route := routeDies w.s (gdOf a.g) home }
      accTrap w.s b b.loc = none →
      Tab.find? (answerOne w (id, a)).s.accs id = some b ∧ (answerOne w (id, a)).served = w.served ++ [a.lane] ∧
        (answerOne w (id, a)).missed = w.missed ∧ (answerOne w (id, a)).trapped = w.trapped)

/-- R204, R215, R234, R240 to R244: a request is performed at its home, or in L1 where that serves it; a load's value reaches
its registers, or one row of the channel it names once the last lane's value is there; a write is acknowledged; a dead page
that a write waits for is filled with zeros. R196: the recall of an Owned stash line writes its dirty bytes back; a reader's
leaves it Clean, a writer's takes it away; a line whose bytes can not be written back yet stays Owned. -/
def Obligations.AccessAndStashEvents : Prop :=
  (∀ (s : State) (id : Nat),
      (∀ gd page, isDead s gd page = true → writeWaits s gd page = true →
        exec (.deadPageZeroFill gd page) s = .next { s with dead := Tab.set s.dead false (pageKey gd page) false }) ∧
      (∀ a, Tab.find? s.accs id = some a →
        (canPerform s id a = true → (isNear s a = false ∨ a.op = .load ∧ nearServe s a = none) → wholeRun s a = [] →
          ∀ t v f, performAcc s a (wasHeld s id) = some (t, v, f) →
          exec (.remoteRequest id) s = .next (leaveQueues { t with accs := Tab.put t.accs id { a with stage := .done, value := v, flags := f } } id)) ∧
        (canPerform s id a = true → isNear s a = true → ∀ t b, nearServe s a = some (t, b) →
          exec (.remoteRequest id) s = .next (leaveQueues { t with accs := Tab.put t.accs id b } id)) ∧
        (answerable s a = true → a.ret = true →
          (dstChan a = none → exec (.loadReturn id) s = .next (acquireAcc (dropAcc (writeBackReg s a) id) a)) ∧
          (∀ c < 0xC0, a.dst = [c] → a.mute = false → a.flags = 0 → leads (.loadReturn id) s fun t =>
            t.vregs = Tab.set s.vregs 0 (regKey a.g a.lane c) (w32 a.value) ∧ t.sregs = s.sregs ∧ t.mem = s.mem ∧ Tab.find? t.accs id = none) ∧
          (∀ c, dstChan a = some c → rowReady s a = true →
            let mine (e : Nat × Acc) : Bool := e.2.g == a.g && e.2.hold == a.hold && e.2.stage == .done
            exec (.loadReturn id) s = .next ((s.accs.filter mine).foldl (fun s e => acquireAcc (noteFlags s e.2) e.2)
              (pushChan { s with accs := s.accs.filter fun e => !mine e } a.g c (accRow s a))))) ∧
        (answerable s a = true → a.ret = false → exec (.writeAcknowledgement id) s = .next (dropAcc s id)))) ∧
  (∀ (s : State) (team line : Nat) (x : StashLine), Tab.find? s.stash (stashKey team line) = some x →
      let k := stashKey team line
      let clean (t : State) : State := { t with stash := Tab.put t.stash k { x with owned := false, dirty := 0 } }
      let u := s.event x.ck 0 43 1
      (x.owned = false → exec (.stashRecall team line false) s = .next s ∧
        exec (.stashRecall team line true) s = .next { s with stash := Tab.del s.stash k }) ∧
      (∀ t, x.owned = true → (if x.dirty = 0 then some u else
          backTo u x.ck (u.ctxOf x.ctx).asid x.ctx x.addr x.dirty.toNat (x.bytes.map BitVec.toNat) [x.task]) = some t →
        exec (.stashRecall team line false) s = .next (clean t) ∧
        exec (.stashRecall team line true) s = .next { clean t with stash := Tab.del (clean t).stash k }) ∧
      (x.owned = true → x.dirty ≠ 0 → backTo u x.ck (u.ctxOf x.ctx).asid x.ctx x.addr x.dirty.toNat (x.bytes.map BitVec.toNat) [x.task] = none →
        exec (.stashRecall team line false) s = .next u ∧ exec (.stashRecall team line true) s = .next u))

/-- R242, R245, R276, R277, R434, R481: a failure found at the home is kept with the lane and the registers it was to write, until
it is delivered; DATA_LOST aborts the task instead. The requests to a lost peer fail with PEER_LOST, an atomic that was sent
with REMOTE_INDETERMINATE; the late answer of a peer already declared lost is discarded and has the same outcome. R272: a
request that a guard drops fails with PROTECTION and is reported; an answer that a guard drops never comes. -/
def Obligations.AccessFailureEvents : Prop :=
  ∀ (s : State) (id port cause : Nat) (p : Bool) (a : Acc), Tab.find? s.accs id = some a →
    let kept (c : Nat) : Out := .next ((dropAcc s id).modLane a.g a.lane fun y => { y with failed := y.failed ++
      [{ acc := id, cause := c, va := a.va, regs := if a.ret then a.dst else [], read := a.op.isLoad || (a.op.isAtomic && a.ret) }] })
    (accGated s a.g = false → Tab.has s.groups a.g = true →
      (∀ c, a.stage = .failed c → c ≠ cDATA_LOST → exec (.accessFailureReturn id cause p) s = kept c) ∧
      (a.stage = .failed cDATA_LOST → exec (.accessFailureReturn id cause p) s = .next ((dropAcc s id).abort a.task a.va a.site)) ∧
      (a.stage = .going → a.op.isAtomic = false → exec (.accessFailureReturn id cPEER_LOST p) s = kept cPEER_LOST) ∧
      (a.stage = .going → a.op.isAtomic = true → a.sent = true → hostLost s a = false →
        exec (.accessFailureReturn id cINDETERMINATE false) s = kept cINDETERMINATE) ∧
      (answerLate s a = true →
        ((a.op.isAtomic = false ∨ a.sent = false ∨ hostLost s a = true) → exec (.lateAnswer id) s = kept cPEER_LOST) ∧
        (a.op.isAtomic = true → a.sent = true → hostLost s a = false → exec (.lateAnswer id) s = kept cINDETERMINATE))) ∧
    (a.stage = .going → stewardAsid s a.asid = false → (firstDrop s (gdOf a.g) a.home).map (fun d => d.2.1) = some port →
      exec (.guardDrop id port) s = .next { guardReport s (gdOf a.g) a.home .req a.ctx a.va a.site with
        accs := Tab.put s.accs id { a with stage := .failed cPROTECTION } }) ∧
    (answerDropped s a = true → (firstDrop s a.home (gdOf a.g)).map (fun d => d.2.1) = some port →
      exec (.guardDrop id port) s = .next { guardReport s a.home (gdOf a.g) .rsp a.ctx a.va a.site with
        accs := Tab.put s.accs id { a with stage := .going, leaf := 0 } })

/-- R39: a command starts when its queue allows and its wait is met; one whose wait meets a fault flag never starts. R302, R316,
R342, R345, R346: signals, edges and arrivals take effect once what they release has been performed. -/
def Obligations.CommandStartsAndSignals : Prop :=
  (∀ (s : State) (id : Nat) (c : Cmd), Tab.find? s.cmds id = some c → startable s id c = true →
      (waitMet s c.ck c.sync = some true →
        exec (.commandStart id) s = .next (startCmd s id c) ∧
        (c.op.kind ∈ [.mover, .coll, .table, .image] ∨ c.op = .put ∨ c.op = .get → wEn c.sync = false →
          leads (.commandStart id) s fun t => Tab.find? t.cmds id = some { c with started := true, startedAt := s.cycle })) ∧
      (waitMet s c.ck c.sync = some false → exec (.commandStart id) s = .next (noStart s id c))) ∧
  (∀ (s : State) (id g : Nat),
      (∀ x, Tab.find? s.sigs id = some x → sigReady s x = true →
        (x.task = none → exec (.semaAddApply id) s = .next (returnBlocks (applyInc (sigRelease s id x) x.ck x.sem x.delta x.fset x.wide))) ∧
        (∀ e f, x.task = some (e, f) → exec (.taskSigDecrement id) s = .next (applyDep (sigRelease s id x) e f none))) ∧
      (∀ a b, (s.grp g).service = some (.dep a b) → exec (.taskDepAnswer g) s = .next (s.modGrp g fun x => { x with service := none })) ∧
      (∀ m, Tab.find? s.msgs id = some m →
        (∀ a b f, m.msg = .depDec a b f → exec (.dependantDecrement id) s = .next (applyDep { s with msgs := Tab.del s.msgs id } b f (some a))) ∧
        (∀ k x y, m.msg = .arrival k x y → exec (.barrierArrivalMessage id) s = .next (arriveLevel { s with msgs := Tab.del s.msgs id } k x y))))

/-- R208 to R211, R254 to R257: a live command that nothing stops is done in one go and completes with its signal: a copy writes
its whole range, a gather or scatter its elements, RATOM every lane's atomic with old value and status, a bank command one
piece of 256 bytes. R231, R232: a trailing PUT that is performed lowers TRAIL of its task; one that fails faults the task's
entry and the dependants that wait for it. -/
def Obligations.MemoryCommandsAndTrailingPuts : Prop :=
  (∀ (s : State) (id : Nat) (c : Cmd), Tab.find? s.cmds id = some c → cmdLive s id c = true →
      (∀ t n, c.op = .movCpy → copyRun s c = (t, n, none) → exec (.moverComplete id) s = .next (completeCmd t id c false)) ∧
      (∀ bs t u n, c.op = .movGth ∨ c.op = .movSct → c.image = [] → c.pos = 0 →
        let place (v : LaneVal) : Nat := c.d + v.lane * c.b
        readMany c.gd c.ck (c.asid s) (c.lanes.map fun v => (if c.op = .movGth then v.x else place v, c.b)) s c.who = .ok (t, bs) →
        writeList c.gd c.ck (c.asid t) (c.kslot t) ((c.lanes.zip (List.range c.lanes.length)).flatMap fun v =>
          cutPieces (if c.op = .movGth then place v.1 else v.1.x) ((bs.flatten.drop (v.2 * c.b)).take c.b)) t c.who = (u, n, none) →
        exec (.moverComplete id) s = .next (completeCmd u id c false)) ∧
      (∀ t n, c.op = .put ∨ c.op = .get → c.trailing = false → (c.pos = 0 → firstDropped s c c.d c.b = none ∧ firstDropped s c c.a c.b = none) →
        copyRun s c = (t, n, none) → exec (.putGetComplete id) s = .next (completeCmd t id c false)) ∧
      (∀ t vs, c.op = .ratom → ratomRun id c [] c.lanes s = (t, vs, none) → grpLive t c = true → c.d ≠ 0xFE →
        exec (.ratomComplete id) s = .next (completeCmd (vs.foldl (fun u v => wr (wr u c.g v.lane c.d v.old) c.g v.lane (c.d + 1) (v.status.getD 0)) t) id c
          (vs.any fun v => v.status != some 0))) ∧
      (∀ bank off ps t u bs, c.op.kind = .bank → bank < 1024 → Tab.get s.bankQs (c.bank.1 * 1024 + bank) [] = (id, off) :: ps →
        bankReads c.gd c.ck (c.asid s) ((bankSources c).flatMap fun a => pieces (a + off) 256) s = .ok (t, bs) →
        let r := bankPiece c (bs.take 256) (bs.drop 256)
        bankWrites c.gd c.ck (c.asid s) (c.kslot t) c.site (pieces (c.d + off) 256) r.1 t = .ok u →
        let v := addCensus u (writeDie u c (c.d + off)) (censusIndex c.site) c.site r.2
        let w := { v with bankQs := Tab.set v.bankQs [] (c.bank.1 * 1024 + bank) ps }
        exec (.bankPiece (id * 1024 + bank)) s = .next (if c.k ≤ c.pos + 256 then completeCmd w id { c with pos := c.pos + 256 } false
          else fillBanks (setCmd w id { c with pos := c.pos + 256 }) c.bank.1))) ∧
  (∀ (s : State) (id : Nat) (c : Cmd), Tab.find? s.cmds id = some c → cmdLive s id c = true → c.trailing = true →
      (∀ t n, trailRun s c = (t, n, none) → exec (.trailingPutAck id) s = .next (lowerTrail (completeCmd t id c false) c.task)) ∧
      (∀ t n k va home, trailRun s c = (t, n, some (.cause k va home)) → k ≠ cGUARD_DROP → exec (.trailingPutFail id) s = .next (trailFail t id c k)))

/-- R344, R345, R353: a post whose descriptor is legal takes its entry and answers its TASKID; the answer of the root die lets the
group of a LAUNCH go on; a record that arrives waits at its Tray, and its sender's slot is free. -/
def Obligations.TaskCommandsComplete : Prop :=
  ∀ (s : State) (id : Nat) (c : Cmd), Tab.find? s.cmds id = some c →
    exec (.launchRootAnswer id) s = .next (clearLaunch s c.g id) ∧
    (cmdLive s id c = true →
      (∀ t bs, c.op = .taskPost ∨ c.op = .launch → readRange s c.gd c.ck (c.asid s) c.a 64 c.who = .ok (t, bs) →
        let ws := wordsOfBytes bs 16
        (c.op = .launch → dType ws = 0) → (c.op = .taskPost → 2 ≤ dType ws ∧ dType ws ≤ 5 ∧ (heldSlots t c.task).length ≤ 64) →
        descOk (t.ctxOf c.ctx) ws = true →
        coreClean (writeBackCore t c.ck) c.ck = true →
        exec (.taskPostComplete id) s = .next (completeCmd (writeCmdD (takePosted (writeBackCore t c.ck) c ws) c c.d (taskIdOf c.pos)) id c false)) ∧
      (let t := writeBackCore s c.ck
       let r := t.recAt c.a
       ∀ y n, c.op = .tokSend → c.pos = 0 → coreClean t c.ck = true → homeLost t c.gd c.d = false → routeOpen t c.gd c.d = true → slotsOn t (c.asid t) c.gd c.d = true →
        trayOf t c.d (recOper r) = some y → freeSlot t c.d = some n → canTake t y = true →
        exec (.tokenArrival id) s = .next { t with
          recs := Tab.put (Tab.put t.recs c.a { r with st := .kept }) (recKey c.d n) (enterTray r y t.cycle)
          cmds := Tab.put t.cmds id { c with pos := 1 } }) ∧
      (c.op = .tokSend → c.pos = 1 → exec (.tokSendOutcome id) s = .next (completeCmd { s with recs := Tab.del s.recs c.a } id c false)) ∧
      (c.op = .tokSend → c.pos = 2 → (s.entry c.task).st = .running → exec (.tokSendOutcome id) s =
        .next (completeCmd { s with recs := Tab.put s.recs c.a { s.recAt c.a with st := .held c.task } } id c true)))

/-! ### Device events: the array, collectives, tasks, Trays and Belts (06, 07, 09, 13) -/

/-- R145, R160, R166 to R168, R174 to R180, R372: a live array command completes with its effect: tiles between memory and operand
memory, a tile into the shadow bank, the swap, the pass, the accumulator zeroed or read; a group whose tile range is
translated and allowed goes on. R173: a configuration takes effect once the earlier commands of the changed regions have
completed and their Belts have no tile; the banks of the regions it changes hold no tile then, and the command completes. -/
def Obligations.ArrayCommandsAndConfiguration : Prop :=
  (∀ (s : State) (id : Nat) (c : Cmd), Tab.find? s.cmds id = some c →
      (cmdLive s id c = true →
        let gather (n : Nat) (f : Nat → Nat) (on : Nat) : List Nat := if on = 0 then [] else (List.range n).map f
        (∀ t u hb bs, c.op = .mtileLd → readRange s c.gd c.ck (c.asid s) c.a 16 c.who = .ok (t, hb) →
          let ws := (List.range 4).map fun i => leValue ((hb.drop (4 * i)).take 4)
          (parseHdr ws).okTile t c.qk c.task c.b (c.run c.d).2 = true → readRange t c.gd c.ck (c.asid t) (c.a + 64) (c.b - 64) c.who = .ok (u, bs) →
          exec (.mtileComplete id) s = .next (completeCmd (setHead (setTileBytes u c.qk (c.run c.d).1 (parseHdr ws) bs) c.qk (c.run c.d).1 ws) id c false)) ∧
        (∀ t, c.op = .mtileSt → writeRange s c.gd c.ck (c.asid s) (c.kslot s) c.a
            ((c.image.flatMap fun w => leBytes w 4) ++ List.replicate 48 0 ++ tileBytes s c.qk (c.run c.d).1 (parseHdr c.image)) c.who = (t, none) →
          exec (.mtileComplete id) s = .next (completeCmd t id c false)) ∧
        (c.op = .mwload → exec (.mwloadComplete id) s = .next (completeCmd (setBank s (bankKey c.qk c.d 1)
          (tileBank (c.image.take 4) (tileBytes s c.qk (c.run c.a).1 (parseHdr (c.image.take 4))) (gather (parseHdr (c.image.take 4)).rows
            (fun n => opByte s c.qk (c.image.getD 4 0 - 1 + n / 64) (n % 64) (parseHdr (c.image.take 4)).coff) (c.image.getD 4 0)))) id c false)) ∧
        (c.op = .mwswap → exec (.mwswapDone id) s = .next (completeCmd (setBank (setBank s (bankKey c.qk c.d 0) (s.bank (bankKey c.qk c.d 1)))
          (bankKey c.qk c.d 1) (s.bank (bankKey c.qk c.d 0))) id c false)) ∧
        (∀ a, c.op = .mma ∨ c.op = .mmaSp → (s.bank (bankKey c.qk c.a 0)).tile? = some a →
          let hb := parseHdr (c.image.take 4)
          let b : TileV := { hdr := hb, bytes := tileBytes s c.qk (c.run c.b).1 hb,
                             scales := gather hb.rows (fun m => opByte s c.qk (c.image.getD 8 0 - 1) m hb.roff) (c.image.getD 8 0) }
          let r := passTile s c.qk (c.run c.d).1 (parseHdr ((c.image.drop 4).take 4)).kext a b (bitOf c.mode.toNat 8) (c.k % 2048)
          exec (.mmaComplete id) s = .next (completeCmd (cmdCensus r.1 c r.2) id c false)) ∧
        (c.op = .maccZero → exec (.maccZeroComplete id) s = .next (completeCmd ((List.range (parseHdr c.image).rows).foldl (fun s m =>
          (List.range (parseHdr c.image).kext).foldl (fun s n => setDWord s c.qk (c.run c.d).1 (parseHdr c.image).kext m n 0) s) s) id c false)) ∧
        (c.op = .maccRd → grpLive s c = true → exec (.maccRdComplete id) s = .next (completeCmd (((List.range (parseHdr c.image).rows).flatMap fun l =>
          (List.range 16).filterMap fun j => if 16 * (c.k % 8) + j < (parseHdr c.image).kext then
            some (l, j, dWord s c.qk (c.run c.b).1 (parseHdr c.image).kext l (16 * (c.k % 8) + j)) else none).foldl
              (fun s w => wr s c.g w.1 (c.d + w.2.1) w.2.2) s) id c false))) ∧
      (c.loading = true → raiseHolds s (c.asid s) = false →
        (∀ f ∈ loaderLook s c.gd (c.asid s) c.a c.b, ∃ l : Loc, f.2 = .at l ∧ l.absent = false ∧ l.obs = false ∧ (c.op = .mtileSt → fWr l.leaf = true) ∧
          (c.op ≠ .mtileSt → fR l.leaf = true)) →
        exec (.streamLoaderAnswer id) s = .next ((advance ((setCmd s id { c with loading := false }).modGrp c.g fun x => { x with service := none }) c.g 2 c.mask).onLanes
          c.g (lanesIn c.mask) fun _ y => { y with stand := .run }))) ∧
  (∀ (s : State) (id : Nat) (c : Cmd), Tab.find? s.cmds id = some c → c.op = .mcfg → queueTurn s id c = true →
      (∀ r < 2, bitOf c.pos r = true → bitOf (s.array c.qk).inForce (1 + r) = true →
        ∀ g, Tab.find? s.rings (ringKey c.qk r (bitOf (s.array c.qk).inForce 0)) = some g → g.riders = []) →
      ∃ t, exec (.mcfgEffect id) s = .next (completeCmd t id c false) ∧ t.array c.qk = { s.array c.qk with inForce := mergeCfg (s.array c.qk).inForce c.a c.pos } ∧ t.mem = s.mem ∧
        t.opmem = s.opmem ∧ ∀ r < 2, ∀ b < 2, t.bank (bankKey c.qk r b) = if bitOf c.pos r then {} else s.bank (bankKey c.qk r b))

/-- R228, R229, R253, R264, R265: a collective whose every rank has started and agrees completes with the reduced or gathered
buffers; one that must abort signals every participant with fault flag 1; an arriving contribution is reduced into the
element. -/
def Obligations.CollectiveEvents : Prop :=
  ∀ (s : State) (comm : Nat),
    let ms := members s comm
    let rs := ranksOf s comm ms
    (∀ v t u, collLive s ms rs = true → collGuard s ms = none → collRelease s ms = some v →
      captureAll rs.length ms v = (t, none) → deliverAll (members t comm) (members t comm) t = (u, none) →
      exec (.collectiveComplete comm) s = .next ((members t comm).foldl (fun s m => completeCmd (collOrder s m.2) m.1 m.2 false)
        (((members t comm).map Prod.snd).foldl (countColl (members t comm)) u))) ∧
    (∀ v, collRelease s (aborting s comm) = some v → exec (.collectiveAbort comm) s =
      .next ((aborting s comm).foldl (fun s m => completeCmd (failReport (collOrder s m.2) m.2 cCOLL_ABORTED) m.1 m.2 true) v)) ∧
    (∀ id src elem c v t u m x, Tab.find? s.cmds id = some c → cmdLive s id c = true → c.op.isColl = true → c.aborted = false → c.image = [] →
      commKey c = comm → collLive s ms rs = true → (∀ m ∈ ms, m.2.image = []) → elem < recvCount c rs.length → src ∈ sources c rs.length elem →
      (memberOf ms c.rank).map Prod.fst = some id → c.arrived.contains (src, elem) = false → collGuard s ms = none → collRelease s ms = some v → c.a ≠ c.d →
      memberOf (members v comm) src = some m → takeElem v m (sendOff c elem) = .ok t → memberOf (members t comm) c.rank = some (id, x) →
      let arrived := x.arrived ++ [(src, elem)]
      writeRange t x.gd x.ck (x.asid t) (x.kslot t) (x.d + collWidth x * elem)
        (recvElem (members t comm) x elem ((arrived.filter fun a => a.2 == elem).map Prod.fst)) x.who = (u, none) →
      exec (.collectiveFlitArrival id src elem) s = .next (setCmd u id { x with arrived := arrived }))

/-- R283 to R285, R317, R318, R347: the first entry that can be admitted is dispatched as one team; a waiting pull receives the
first entry that suits it, or 0xFFFFFFFF when its time is over; an entry that has waited 65,536 cycles moves up a level. R285,
R467: a dispatched team runs its entry: each group of it starts at ENTRY with the argument words in its scalar registers, in
lanes whose stream word is their index, and the entry is Running. -/
def Obligations.DispatchAndPullEvents : Prop :=
  (∀ (s : State) (e quad base g : Nat) (slots : List Nat) (ws : List Word),
      (let x := s.entry e
       let t := readyState (passEarlier s (e / 16384) e) x
       dType x.words ≠ 0 → x.saves = [] → needsDecision s e = false → nextDispatch s (e / 16384) = some (e, quad, base) →
        slotsOk t quad base (dCores x.words) (dGroups x.words) slots = true → argsOf t e = .ok ws →
        exec (.taskDispatch e quad base slots) s = .next (admitTeam t e quad base slots none ws)) ∧
      (let x := s.entry e
       let t := readyState (passEarlier s (e / 16384) e) x
       let p := x.parts.getD (quad % 5) (0, 0)
       let stop := min (p.1 + 64 * dGroups x.words) p.2
       dType x.words = 0 → x.saves = [] → nextDispatch s (e / 16384) = some (e, quad, base) → slotsOk t quad base (dCores x.words) (dGroups x.words) slots = true →
        argsOf t e = .ok ws →
        exec (.chunkDispatch e quad base slots) s = .next (admitTeam (t.modEntry e fun y => { y with parts := y.parts.set (quad % 5) (stop, p.2) }) e quad base slots
          (some (p.1, stop)) ws)) ∧
      (let x := s.entry e
       x.st = .ready → x.root = false → x.level < 3 → x.since + 65536 ≤ s.cycle → leads (.readyAging e) s fun t =>
        t.entry e = { x with level := x.level + 1, since := s.cycle, order := s.nextId }) ∧
      (∀ d mask since stop m, (s.grp g).service = some (.pull d mask since stop m) →
        (s.cycle ≥ stop ∨ (s.teamOf g).draining = true →
          exec (.pullTimeout g) s = .next (writeLanes (s.modGrp g fun x => { x with service := none }) g d noTask m)) ∧
        (nextPull s (gdOf g) = some (since, g, e) → argsOf s e = .ok ws → ∃ t,
          exec (.pullServed g e) s = .next (writeLanes t g d (taskIdOf e) (t.grp g).active) ∧ (t.grp g).task = e ∧ (t.grp g).index = 0))) ∧
  (∀ (s : State) (e n g i : Nat) (x : Entry) (args : List Word),
      let t := admitGroup s e n g i x none args
      (t.grp g).task = e ∧ (t.grp g).ctx = x.ctx ∧ (t.grp g).team = n ∧ (t.grp g).index = i ∧ (t.grp g).banks = dBanks x.words ∧
        (∀ l < 64, x.rows = [] → let y := t.lane g l
          y.pc = BitVec.ofNat 56 (dEntry x.words) ∧ y.streamid = w32 (64 * i + l) ∧ y.preds = 0 ∧ y.astat = 0 ∧ y.drawctr = 0 ∧ y.ret = [] ∧ y.mode = 0x00070000#32) ∧
        (∀ j < args.length, args.length ≤ 32 → rd t g 0 (0xC0 + j) = (args.getD j 0).toNat) ∧
        t.mem = s.mem ∧ t.vregs = s.vregs)

/-- R319 to R322: a root's range is split over the dies of its partition; a held part takes an entry that becomes Free; an empty
quad takes the back half of the largest part of its die, an empty die chunks of the largest child. R315, R316, R387, R389: a
Faulted entry releases its dependants as faulted and is freed; a kill ends the task's groups; a drain that has not ended in
time is decided anew. -/
def Obligations.RangeAndTaskEndEvents : Prop :=
  (∀ (s : State) (e quad part : Nat),
      let x := s.entry e
      let cs := 64 * dGroups x.words
      (let ds := rangeDies s e
       let ps := ((splitRange (dBegin x.words) (dEnd x.words) cs ds.length).zip ds).filter fun p => decide (p.1.1 < p.1.2)
       x.st = .ready → x.root = true → (argsOf s e = .bad ∨ ∃ ws, argsOf s e = .ok ws) → dBegin x.words < dEnd x.words → ps ≠ [] →
        exec (.rangeDistribution e) s = .next (ps.foldl (fun s p => match makeChild s e p.2 p.1.1 p.1.2 with
          | some s => s.modEntry e fun r => { r with children := r.children + 1 }
          | none => s.modEntry e fun r => { r with held := r.held ++ [(p.2, p.1.1, p.1.2)] }) (s.setEntry e { x with st := .running, children := 0, held := [] }))) ∧
      (∀ h t, x.held[part]? = some h → x.st = .running → makeChild s e h.1 h.2.1 h.2.2 = some t →
        exec (.heldPartPlaced e part) s = .next (t.modEntry e fun r => { r with children := r.children + 1, held := r.held.eraseIdx part })) ∧
      (let ns := x.parts.map (chunksOf cs)
       let j := largest ns
       let p := x.parts.getD j (0, 0)
       let cut := p.1 + (ns.getD j 0 - max 1 (ns.getD j 0 / 2)) * cs
       wants x = true → dType x.words = 0 → x.parts.length = 4 → quad % 5 < 4 → quad / 5 = e / 16384 → ns.getD (quad % 5) 0 = 0 → ns.getD j 0 ≠ 0 →
        (baseFor s e x.words quad).isSome = true →
        exec (.quadSteal e quad) s = .next (s.setEntry e { x with parts := (x.parts.set j (p.1, cut)).set (quad % 5) (cut, p.2) })) ∧
      (let kids := (childrenOf s e).filter fun c => (s.entry c).st == .ready || (s.entry c).st == .running
       let left (c : Nat) : Nat := ((s.entry c).parts.map (chunksOf cs)).sum
       let v := kids.getD (largest (kids.map left)) 0
       ∀ me p, kids.find? (fun c => c / 16384 == part) = some me → x.st = .running → left me = 0 → (s.entry me).fault = false → (s.entry me).parts.length = 4 →
        v ≠ me → 4 ≤ left v → (takeBack cs (s.entry v).parts (left v / 2)).2 = [p] →
        exec (.dieStealRequest e part) s = .next ((s.modEntry v fun y => { y with parts := (takeBack cs (s.entry v).parts (left v / 2)).1 }).modEntry me fun y =>
          { y with parts := splitRange p.1 p.2 cs 4 }))) ∧
  (∀ (s : State) (e : Nat),
      let x := s.entry e
      (x.st = .faulted → (dType x.words ≠ 0 ∨ x.root = true ∨ x.parent = 0xFFFFFFFF) →
        exec (.faultedEntryRelease e) s = .next (freeEntry (freeBuffer (x.deps.foldl (fun s t => releaseDep s (e / 16384) e t true) s) e) e)) ∧
      (x.root = false → exec (.taskKill e) s = .next (killTask s e cKILLED 0)) ∧
      (∀ stop n, x.drained = some stop → x.victim = some n → x.retaken = false → stop ≤ s.cycle → Tab.has s.teams n = true →
        exec (.drainRetake e) s = .next (decideOn s e { x with drained := none, retaken := true } n true)))

/-- R25, R323 to R325: a row is gathered into the building tile of its Tray, which fires when it is full, when its time is over,
or when the seat limit lets it; a record that the steward holds becomes Free. R145, R146, R150: the preload of a ring's next
slot, the slot becoming active with the banks swapped, and the readout of a block of results. -/
def Obligations.TrayAndBeltEvents : Prop :=
  (∀ (s : State) (gd n : Nat),
      (∀ y b t bs, let r := s.recAt (recKey gd n)
        Tab.find? s.trays r.tray = some y → bufForRow y = some b → ungathered r = true → r.tray / 64 = gd →
        readRange s gd (gd * 17 + 16) (s.ctxOf (trayOper s r.tray).ctx).asid (pairAt r.words 8) ((parseHdr (trayHdr y 1)).areas.getD 0 0) = .ok (t, bs) →
        exec (.gatherComplete gd n) s = .next (placeRow t gd n r.tray b bs)) ∧
      (∀ b, let k := gd * 64 + n
        buildingOf (s.tray k) = some b →
        (timedOut s k b = true → mayFire s k = true → exec (.trayTimeout gd n) s = .next (fireTile s k b)) ∧
        (timedOut s k b = true → mayFire s k = false → exec (.trayTimeout gd n) s = .next (setBuf s k b { (s.tray k).bufs.getD b {} with due := true })) ∧
        (((s.tray k).bufs.getD b {}).due = true → mayFire s k = true → exec (.deferredTileFire gd n) s = .next (fireTile s k b))) ∧
      ((s.recAt (recKey gd n)).st = .steward → exec (.stewardReclaim gd n) s = .next { s with recs := Tab.del s.recs (recKey gd n) })) ∧
  (∀ (s : State) (q r k : Nat) (g : Ring), ringNow s q r = some (k, g) →
      let i := (g.current + 1) % g.slots.length
      (g.preloaded = false → g.slots ≠ [] → leads (.preloadComplete q r) s fun t =>
        Tab.find? t.rings k = some { g with preloaded := true, slots := g.slots.set i { slotAt g i with faulted := (preload s q r g i).2 } } ∧
          t.banks = (preload s q r g i).1.banks) ∧
      (g.preloaded = true → g.slots ≠ [] → spanFirst g i = false → g.riders = [] →
        leads (.beltSlotActive q r) s fun t => Tab.find? t.rings k = some { g with current := i, preloaded := false } ∧ t.banks = (swapBanks s q r).banks) ∧
      (g.preloaded = true → g.slots ≠ [] →
        let u := swapBanks s q r
        let sl := slotAt g i
        let b := if spanFirst g i && !boardsNot u q r then board u (q / 5) sl.oper sl.seats else (u, [])
        let pass (x : Rider) : Rider := if (b.1.tray x.tray).oper == sl.oper && !x.last then
          passSlot b.1 g i (Tab.get b.1.opers (operKey (q / 5) sl.oper) {}) (b.1.bank (bankKey q r 0)).tile? x else x
        leads (.beltSlotActive q r) s fun t => t.mem = b.1.mem ∧
          Tab.find? t.rings k = some { g with current := i, preloaded := false, riders := (g.riders ++ b.2).map pass }) ∧
      (∀ j x o rest, readyRider g = some j → g.riders[j]? = some x → x.out = o :: rest →
        let t := if x.bad then s else writeOut s x (trayOper s x.tray) o.1 o.2.1 o.2.2.1 o.2.2.2.1 o.2.2.2.2
        ((rest ≠ [] ∨ x.last = false) → exec (.readoutComplete q r) s =
          .next { t with rings := Tab.put t.rings k { g with riders := g.riders.set j { x with out := rest } } }) ∧
        (rest = [] → x.last = true → exec (.readoutComplete q r) s =
          .next (signalTile { t with rings := Tab.put t.rings k { g with riders := g.riders.eraseIdx j } } x))))

/-! ### Device events: images, submission, host, links, loss (09, 11, 13, 16, 18) -/

/-- R390, R391, R419, R420: a save of a quiet team that stands still writes its image, remembers it and clears the dirty bits; a
load of the image last written restores the team and answers status 0. R308 to R313: the steward takes the next entry of a
context: a request becomes a task, a launch loads its graph, an entry with a reserved kind or field is done with status 0x07,
a finished entry gets its completion record. -/
def Obligations.ImageAndSubmissionEvents : Prop :=
  (∀ (s : State) (id : Nat) (c : Cmd), Tab.find? s.cmds id = some c → cmdLive s id c = true →
      (∀ n t m, c.op = .ctxSave → namedTeam s c.gd c.d = some n →
        ((s.team n).stopping = true ∨ ∀ g ∈ (s.team n).groups, (s.grp g).susp.isSome = true ∨ (s.grp g).halted = true) → teamQuiet s n (some id) = true →
        let full := !((s.team n).loaded && (s.team n).imageId == c.b)
        let runs := imageRuns (saveTeam s n) (taskIdOf (s.team n).task) (wordAt (s.entry (s.team n).task).words 0) c.b full
          (fun g i => full || Tab.get s.dirtyBanks (g * 16 + i) false) (fun i => full || Tab.get s.dirtyLines (n * 2 ^ 12 + i) false)
        writeList c.gd c.ck (c.asid s) (c.kslot s) (runs.flatMap fun r => cutPieces (c.a + r.1) r.2) s c.who = (t, m, none) →
        exec (.ctxSaveComplete id) s = .next (completeCmd ((clearDirty t n).modEntry (s.team n).task fun y => { y with side := some (saveTeam s n) }) id c false)) ∧
      (∀ t b0 u bs v x, c.op = .ctxLoad →
        let e := c.gd * 16384 + bitsOf c.d 13 0
        let y := s.entry e
        readRange s c.gd c.ck (c.asid s) c.a 0x2000 c.who = .ok (t, b0) → imgAt [(0, b0)] 0 4 = magic → imgAt [(0, b0)] 4 4 = 0x0100 →
        imgAt [(0, b0)] 12 4 = y.ctx → imgAt [(0, b0)] 16 4 = taskIdOf e → y.side = some x →
        let rs := imageRanges (dGroups y.words) (dBanks y.words) x.team.win (imgAt [(0, b0)] 32 4)
        readMany c.gd c.ck (c.asid t) (rs.map fun r => (c.a + r.1, r.2)) t c.who = .ok (u, bs) →
        let z := teamFrom ([(0, b0)] ++ (rs.zip bs).map fun r => (r.1.1, r.2)) c.gd x
        let z : SavedTeam := { z with team := { z.team with edited := bitOf (imgAt [(0, b0)] 8 4) 0, loaded := true, imageId := imgAt [(0, b0)] 24 8 } }
        Tab.has u.teams z.num = false → restoreTeam u c.gd (bitsOf c.d 17 16) (bitsOf c.d 19 18) e z = some v →
        ∃ w, exec (.ctxLoadComplete id) s = .next (loadDone w id c 0 (imgAt [(0, b0)] 8 4)) ∧ (w.entry e).st = .running ∧ w.teams = v.teams ∧ w.groups = v.groups ∧
          w.vregs = v.vregs ∧ w.lanes = v.lanes)) ∧
  (∀ (s : State) (ctx : Nat),
      (∀ ws, nextSub s ctx = some ws →
        (∀ n, subBad ws = some n → exec (.submissionReserved ctx) s = .next (closeJob (openJob s ctx ws).2 (openJob s ctx ws).1 7 n)) ∧
        (∀ t d e, subBad ws = none → bitsOf (wordAt ws 0) 31 24 = 2 → requestTask (openJob s ctx ws).2 ctx = .ok (t, d) → freeEntryOf t (ctxRoot s ctx) = some e →
          let x : Entry := { words := d, ctx := ctx, st := .waiting, job := some (openJob s ctx ws).1, reqAddr := some (pairAt ws 2) }
          ∃ u, exec (.submissionRequest ctx) s = .next (tryReady u e) ∧ u.entry e = x ∧ u.mem = t.mem) ∧
        (∀ t bs u vs v frames, subBad ws = none → bitsOf (wordAt ws 0) 31 24 = 1 → readImage (openJob s ctx ws).2 ctx (pairAt ws 2) = .got t bs →
          stewardRead t ctx (pairAt ws 4) (4 * wordAt ws 6) = .got u vs → loadImage u ctx (openJob s ctx ws).1 bs (wordsN vs) frames = .ok v →
          exec (.submissionLaunch ctx frames) s = .next v)) ∧
      (∀ job x, Tab.find? s.jobs job = some x → x.ctx = ctx → x.doneAt ≠ none → complRoom s ctx = true →
        let n := subWord s ctx 8
        let t := subWrite (subWrite { s with jobs := Tab.del s.jobs job } ctx (0x8040 + 16 * (n % 512))
          ([x.status * 2 ^ 16 + bitsOf (wordAt x.words 0) 15 0, x.detail, s.cycle, 0].flatMap fun w => leBytes w 4)) ctx 8 (leBytes (n + 1) 4)
        exec (.submissionComplete ctx job) s = .next (if bitOf (wordAt x.words 7) 8 then doorbellAdd t ctx (wordAt x.words 7 % 256) 1 else t)))

/-- R235, R278 to R280: what the host does over CXL while its link is up: a doorbell write adds to the doorbell's semaphore, one of
DBSTAT clears the bits that it sets; a read of a host-shared line gives its bytes, any other read poison and zeros; a write
to a host-shared frame is performed at its home, any other is discarded; a snoop is answered with the line as the device
last wrote it. A link that goes down kills the contexts that it connects. R23, R281: the port of a queue pair sends the work
handed over to it, completes everything with status 0x10 and a fault when its retries are exhausted, and writes a received
frame where the next handed-over receive entry says. The entry's and the completion's layouts are open (log 12). -/
def Obligations.HostAndEthernetEvents : Prop :=
  (∀ (s : State) (ctx va pkg hpa : Nat) (w : BitVec 32) (bytes : List (BitVec 8)),
      ((s.pkg pkg).cxlDown = false →
        (hpa < 2 ^ 56 → exec (.hostSnoop (pkg * 2 ^ 56 + hpa)) s =
          .next { s with hostReply := ((getBytes s.hostMem (hpa - hpa % 64) 64).map (BitVec.ofNat 8), false) }) ∧
        exec (.cxlLinkDown pkg) s = .next (((s.ctxs.filter fun c => !c.2.words.isEmpty && !c.2.dead && c.2.kslot != 1 && ctxPkg s c.1 == pkg).map Prod.fst).foldl
          killContext (s.modPkg pkg fun p => { p with cxlDown := true }))) ∧
      (hasBar2 s ctx = true →
        (∀ i < 256, exec (.doorbellWrite ctx i w) s = .next (doorbellAdd s ctx i (w.toNat % 16))) ∧
        exec (.doorbellWrite ctx 256 w) s =
          .next { s with ctxs := Tab.put s.ctxs ctx { s.ctxOf ctx with dbstat := (s.ctxOf ctx).dbstat &&& ~~~(w &&& 3#32) } }) ∧
      (hostUp s ctx = true →
        (let la := va - va % 64
         (sharedLoc s ctx la = none → leads (.cxlMemRead ctx va) s fun t => t.hostReply = (zeros64, true) ∧ t.mem = s.mem) ∧
         (∀ l, sharedLoc s ctx la = some l → hostWaits s ctx la l = false →
          (∀ bs, homeRead s l 64 = some bs → exec (.cxlMemRead ctx va) s =
            .next { homeAsk s l (hostAsk s ctx la 64) false false false with hostReply := (bs.map (BitVec.ofNat 8), false) }) ∧
          (homeRead s l 64 = none → leads (.cxlMemRead ctx va) s fun t => t.hostReply = (zeros64, true)))) ∧
        (sharedLoc s ctx va = none → exec (.cxlMemWrite ctx va bytes) s = .next (strayHost s ctx va) ∧ (strayHost s ctx va).mem = s.mem) ∧
        (∀ l t, sharedLoc s ctx va = some l → hostWaits s ctx va l = false →
          let bs := (bytes.take (64 - va % 64)).map BitVec.toNat
          homePut s 0 l (hostAsk s ctx va bs.length) (hostEnable s l bs.length) bs = some t → exec (.cxlMemWrite ctx va bytes) s = .next t))) ∧
  (∀ (s : State) (q : Nat) (bytes : List (BitVec 8)), queueRuns s q = true →
      let x := s.queue q
      let c := s.ctxOf x.ctx
      (∀ t, workWaits s q false ≠ 0 → portServes s x = true → ethComplete (takeWork s q false) q 0 false = some t → exec (.ethCompletion q) s = .next t) ∧
      (∀ t, workWaits s q false ≠ 0 → portServes s x = false → ethComplete (takeWork (ethReport s x) q false) q 0x19 false = some t →
        exec (.ethCompletion q) s = .next t) ∧
      (∀ t u, failAll q false (workWaits s q false) s = some t → failAll q true (workWaits t q true) t = some u →
        leads (.ethRetryExhausted q) s fun v => (v.queue q).dead = true ∧ (v.sem (u.queue q).ck (u.queue q).semaphore).fault = true) ∧
      (∀ t e u v, portServes s x = true → workWaits s q true ≠ 0 →
        readRange s x.gd (x.gd * 17 + 16) c.asid (x.recvQ + 64 * x.received) 64 = .ok (t, e) →
        writeRange t x.gd (x.gd * 17 + 16) c.asid c.kslot (Config.ethAddr e) (bytes.map BitVec.toNat) = (u, none) →
        ethComplete (takeWork u q true) q 0 false = some v → exec (.ethFrameReceived q bytes) s = .next v))

/-- R269, R274: a flit in error is resent and counted, and takes its link down at the sixteenth time in a row; a transaction that is
no read, write, atomic or delivery of a token is counted against its station and answered with an error. That the flit is
the one last resent is open (log 12). R30, R276, R277, R437, R438: a die that is silent or loses its regulation is lost: it
has no entry, no record and no command but a collective's any more; a package that a port reports down, that does not answer for 1 ms, or that another
has declared lost, is lost to the package that notes it. -/
def Obligations.LinkAndLossEvents : Prop :=
  (∀ (s : State) (gd port : Nat),
      (let n := if Config.freeBool s.tick then Tab.get (s.die gd).retries port 0 + 1 else 1
       let unit := if port < 4 then 0x0F else 0x10
       let gone := s.modDie gd fun d => { d with retries := Tab.del d.retries port }
       (n < 16 → leads (.flitCrcError gd port) s fun t => Tab.get (t.die gd).retries port 0 = n ∧ t.mem = s.mem ∧ t.vregs = s.vregs ∧
         (t.die gd).linksDown = (s.die gd).linksDown) ∧
       exec (.flitCrcError gd port) s = .next (if 16 ≤ n then startTest (detect gone gd unit 1 port 0 0 noTask 0) gd unit port 0
         else detect (s.modDie gd fun d => { d with retries := Tab.put d.retries port n }) gd unit 0 port 0 0 noTask 0) ∧
       (port < 4 → s.tests = [] → port ∈ ((startTest s gd unit port 0).die gd).linksDown)) ∧
      (∀ n kind, kind ≠ 0x57 → kind ≠ 0x58 → exec (.ualinkBadTransaction n kind) s = .next (if Config.ualinkKnown kind then s else s.modPkg (n / 32) fun p =>
        { p with errResponses := p.errResponses ++ [(n % 32, kind)], stationErrs := Tab.put p.stationErrs (n % 32) (Tab.get p.stationErrs (n % 32) 0 + 1) }))) ∧
  (∀ (s : State) (gd seer p : Nat),
      (exec (.dieSilenceLoss gd) s = .next (loseDie s gd) ∧ exec (.regulationFail gd) s = .next (loseDie (detect s gd 0x11 1 0 0 0 noTask 0) gd)) ∧
      ((s.pkg (pkgOf gd)).lostDies.contains gd = false →
        (∀ e ∈ (loseDie s gd).entries, e.1 / 16384 ≠ gd) ∧ (∀ r ∈ (loseDie s gd).recs, r.1 / 65536 ≠ gd) ∧
        ∀ c ∈ (loseDie s gd).cmds, c.2.gd = gd → c.2.op.isColl = true) ∧
      exec (.ualinkPortDown seer p) s = .next (losePackage s seer p) ∧
      (unanswered s seer p = true → exec (.peerLossTimeout seer p) s = .next (losePackage s seer p)) ∧
      (noticed s seer p = true → exec (.lossNotice seer p) s = .next (losePackage s seer p)))

/-! ### Device events: translation, tiers, power, boot, errors, scan (01, 08, 13, 15, 16, 18, 19) -/

/-- R192, R193, R199 to R202, R367, R371, R374: a resolved record is gone and its waiters go on; a raise goes through its phases
and ends with the new generation everywhere; epochs, decay and swaps of pages. -/
def Obligations.TranslationAndTierEvents : Prop :=
  ∀ (s : State) (gd n : Nat) (w : BitVec 32),
    exec (.fresWrite gd w) s = .next (fresEffect (writeBackCore s (gd * 17 + 16)) gd w) ∧
    (∀ r, Tab.find? s.raises n = some r →
      (r.phase = 1 → exec (.genRaisePhaseEnd n) s = .next { s with raises := Tab.put s.raises n { r with phase := 2 } }) ∧
      (r.phase = 2 → drained (drainAsid s n) n = true → exec (.genRaisePhaseEnd n) s =
        .next { drainAsid s n with raises := Tab.put (drainAsid s n).raises n { r with phase := 3 } }) ∧
      (r.phase = 3 → exec (.genRaisePhaseEnd n) s = .next (repatchAll (raiseDone (clearAsid { s with raises := Tab.del s.raises n } n r.next) n r.next) n) ∧
        let t := clearAsid s n r.next
        (∀ e ∈ t.hlb, e.1 / 2 ^ 35 % 2 ^ 16 ≠ n) ∧ (∀ e ∈ t.ctc, e.1 / 2 ^ 40 % 2 ^ 16 ≠ n) ∧ (∀ e ∈ t.l1, l1Asid e.1 ≠ n) ∧
          ∀ d ∈ t.descs, d.1 % 2 ^ 16 = n → d.2.curgen = r.next)) ∧
    (epochDue s gd = true → leads (.replicationEpoch gd) s fun t => (t.die gd).epoch = (s.die gd).epoch + 1 ∧ t.mem = s.mem) ∧
    (decayDue s gd = true → exec (.pageCountDecay gd) s = .next { s.modDie gd fun d => { d with decay := d.decay + 1 } with
      counts := s.counts.filterMap fun c => if c.1 / 2 ^ 21 ≠ gd then some c else if halveCount c.2 = 0 then none else some (c.1, halveCount c.2) }) ∧
    ((s.tier gd (n / 5)).asked = some (n % 5) → leads (.swapStart gd n) s fun t => t.mem = s.mem ∧
      t.tier gd (n / 5) = (if swapStarts s gd n then
        { s.tier gd (n / 5) with asked := none, swapping := some (n % 5, s.cycle), lastSwap := s.cycle, swapped := true }
        else { s.tier gd (n / 5) with asked := none })) ∧
    (∀ i c, (s.tier gd n).swapping = some (i, c) → s.bad = [] → leads (.swapRemap gd n) s fun t => t.tier gd n = { s.tier gd n with f := i, swapping := none } ∧ t.mem = s.mem)

/-- R28, R330: the throttle level is the least under which the estimate fits the budget. R27 to R29, R330, R331, R398, R399: power
windows, exchanges and credit messages, time-outs, temperature and alarms. -/
def Obligations.PowerAndThrottleEvents : Prop :=
  (∀ est budget : Nat, throttle est budget ≤ 3 ∧ (throttle est budget < 3 → est * (4 - throttle est budget) ≤ 4 * budget) ∧
      ∀ t < throttle est budget, 4 * budget < est * (4 - t)) ∧
  (∀ (s : State) (gd n : Nat),
      (windowDue s gd = true → exec (.powerWindow gd n) s = .next (s.modPower gd fun x =>
        { x with window := x.window + 1, estimate := n, theta := throttle n (usable s gd) })) ∧
      (let t := s.modPower gd fun x => { x with exchange := x.exchange + 1 }
       exchangeDue s gd = true →
        (∀ m, wantsRepay t gd = true → repayTo t gd = some m → exec (.sidebandExchange gd) s = .next (sendMsg t (.repay gd m))) ∧
        (∀ m, wantsRepay t gd = false → wantsBorrow t gd = true → nextPeer t gd = some m → exec (.sidebandExchange gd) s =
          .next (sendMsg (t.modPower gd fun x => { x with asked := m + 1, outstanding := some t.cycle }) (.borrow gd m))) ∧
        (wantsRepay t gd = false → wantsBorrow t gd = false → exec (.sidebandExchange gd) s = .next t)) ∧
      (∀ m, Tab.find? s.msgs n = some m →
        (isCredit m.msg = true → s.cycle ≤ m.sentAt + 16384 → exec (.creditMessage n) s = .next (creditEffect { s with msgs := Tab.del s.msgs n } m.msg)) ∧
        (∀ a b, m.msg = .grant a b → m.sentAt + 16384 ≤ s.cycle → exec (.lostGrantReturn n) s = .next { s with msgs := Tab.del s.msgs n })) ∧
      (borrowStale s gd = true → exec (.borrowTimeout gd) s = .next (s.modPower gd fun x => { x with outstanding := none })) ∧
      exec (.thermalHigh gd) s = .next (s.modPower gd fun x => { x with hot := true }) ∧
      exec (.thermalRecover gd) s = .next (s.modPower gd fun x => { x with hot := false }) ∧
      exec (.thermalTamper gd) s = .next (raiseAlarm s (pkgOf gd) 1) ∧ exec (.glitchAlarm n) s = .next (raiseAlarm s n 0) ∧
      ((s.pkg n).debugLocked = false → (s.pkg n).failedAuth ≠ 2 →
        exec (.debugAuthFail n) s = .next (s.modPkg n fun p => { p with failedAuth := p.failedAuth + 1 })) ∧
      ((s.pkg n).debugLocked = false → (s.pkg n).failedAuth = 2 →
        exec (.debugAuthFail n) s = .next (raiseAlarm (s.modPkg n fun p => { p with failedAuth := p.failedAuth + 1 }) n 3)))

/-- R30, R378, R386, R395 to R399, R302, R408: boot, attestation, and what the steward's writes do. -/
def Obligations.BootAndStewardEvents : Prop :=
  ∀ (s : State) (p gd num : Nat) (w : BitVec 32),
    ((s.pkg p).floorSvn ≤ (s.pkg p).svn → leads (.powerOn p true true) s fun t => (t.pkg p).booted = true ∧ (t.die (p * 64)).up = true ∧ (t.pkg p).keys = []) ∧
    ((s.pkg (pkgOf gd)).booted = true → (s.die gd).up = false → (s.pkg (pkgOf gd)).lostDies.contains gd = false →
      leads (.dieBodyCheck gd true) s fun t => (t.die gd).up = true) ∧
    ((s.pkg p).booted = true → 1 ≤ num → num ≤ 5 → exec (.spdmRequest p num) s = .next (s.modPkg p fun x => { x with measured := x.measured ++ [num] })) ∧
    exec (.contextKill num) s = .next (killContext s num) ∧
    (1 ≤ num → num < 256 → leads (.keyGenerate p num) s (fun t => Tab.find? (t.pkg p).keys num = some ((s.pkg p).keyEpoch + 1)) ∧
      leads (.keyErase p num) s fun t => Tab.find? (t.pkg p).keys num = none) ∧
    (isLbar num = true → bitOf w.toNat 31 = true → exec (.lbarAllocate gd num w) s = .next (lbarWrite s (lbarOf gd num) w)) ∧
    (isLbar num = true → bitOf w.toNat 31 = false → exec (.lbarFree gd num w) s = .next (lbarWrite s (lbarOf gd num) w)) ∧
    ((s.grp num).inHandler = true → exec (.hctlKill num) s = .next (hctlEffect (s.modGrp num fun x => { x with hctl := 1 }) num)) ∧
    (∀ i < 4, leads (.alarmpolWrite p w) s fun t => (t.pkg p).policy.toNat / 4 ^ i % 4 =
      if w.toNat / 4 ^ i % 4 = 3 ∨ w.toNat / 4 ^ i % 4 < (s.pkg p).policy.toNat / 4 ^ i % 4 then (s.pkg p).policy.toNat / 4 ^ i % 4 else w.toNat / 4 ^ i % 4) ∧
    (num < 0x440 ∨ 0x4FF < num → num ≠ 0xB0 → exec (.registerWrite gd num w) s = .next (dieRegWrite s gd num w)) ∧
    (bitsOf w.toNat 31 30 = 0 → exec (.registerWrite gd 0xB0 w) s = .next (s.modPkg (pkgOf gd) fun x => { x with keycmd := w &&& 0xC00000FF#32 })) ∧
    (0x440 ≤ num → num ≤ 0x4FF → num % 2 = 1 → exec (.registerWrite gd num w) s = .next (lbctxWrite s (lbarOf gd num) w))

/-- R425, R426, R429, R430, R432, R434: an error is reported and its unit tested; a test ends with a class; a bad line that scrub
meets is detected. R393, R394, R452 to R454: the debug agent halts a group of a context under debug, stages edits that take
effect when it goes on; clearing DBG discards them; a scan session opens, stops, gates its partition and ends. -/
def Obligations.ReliabilityDebugAndScanEvents : Prop :=
  (∀ (s : State) (gd unit n loc : Nat) (b : Bool),
      (unit ≠ 0x0B → exec (.errorDetected gd unit n loc false) s = .next (startTest (detect s gd unit 0 n loc 0 noTask 0) gd unit n loc)) ∧
      (n < 17 → exec (.residueMismatch gd n false) s = .next (startTest (detect s gd 0x0D 0 n 0 0 noTask 0) gd 0x0D n 0)) ∧
      (∀ t, Tab.find? s.tests (gd * 2 ^ 32 + n) = some t → exec (.selfTestComplete gd n b) s =
        .next (classify { s with tests := Tab.del s.tests (gd * 2 ^ 32 + n) } gd t (b || thirdTransient s gd t.unit t.index))) ∧
      (Tab.get s.bad (locLine gd n) false = true →
        let fast := n / 1024 % 5 = (s.tier gd (n / 1024 / 5)).f
        let u := if fast then 1 else 2
        let i := if fast then (n % 1024 * 64 / 256 + 256 * (n / 1024 / 5 % 4)) % 1024 else dramIndex s gd (n / 1024) (n % 1024 * 64)
        exec (.scrubPass gd n) s = .next (startTest (detect s gd u 1 i n 0 noTask 0) gd u i n)) ∧
      (Tab.get s.bad (locLine gd n) false = false → exec (.scrubPass gd n) s = .next s)) ∧
  (∀ (s : State) (g l reg p tag x y : Nat) (w : BitVec 32),
      (grpDbg s g = true → exec (.debugAgentHalt g) s = .next (s.modGrp g fun z => { z with halted := true })) ∧
      (grpDbg s g = true → (s.grp g).halted = true → l < 64 → leads (.debugEditStage g l reg w) s fun t =>
        (l, reg, w) ∈ (t.grp g).overlay ∧ t.vregs = s.vregs ∧ t.sregs = s.sregs) ∧
      (Tab.has s.groups g = true → (s.grp g).halted = true → exec (.debugResume g) s = .next ((commitEdits s g).modGrp g fun z => { z with halted := false })) ∧
      (Tab.has s.ctxs x = true → (∀ q ∈ s.pkgs, q.2.scanTag = none) → leads (.dbgRevocation x) s fun t => (t.grp g).ctx = (s.grp g).ctx ∧
        ((s.grp g).ctx = x → Tab.has s.groups g = true → (t.grp g).halted = false ∧ (t.grp g).overlay = []) ∧ t.vregs = s.vregs ∧
        (3 ≤ (s.ctxOf x).words.length → (t.ctxOf x).dbg = false)) ∧
      ((s.pkg p).debugLocked = false → (s.pkg p).scanTag = none → (∀ c ∈ partCtxs s p tag, (s.ctxOf c).dbg = true) →
        exec (.scanSessionOpen p tag x y) s = .next (s.modPkg p fun z => { z with scanTag := some tag, stopcyc := x, stopen := y, stopAt := none, gatedAt := none })) ∧
      (stopDue s p = true → exec (.scanStopEvent p 0) s = .next (s.modPkg p fun z => { z with stopAt := some s.cycle })) ∧
      (∀ e, gatingDue s p = some e →
        let t := s.modPkg p fun z => { z with gatedAt := some (e + 32) }
        exec (.scanGating p) s = .next (breakBars t fun id => gatedDie t (gdOf (id % 2 ^ 32)))) ∧
      (∀ e, (s.pkg p).scanTag = some e → leads (.scanSessionEnd p) s fun t => (t.pkg p).scanTag = none ∧ (t.pkg p).stopAt = none ∧ (t.pkg p).gatedAt = none))

/-! ### The whole machine -/

/-- A step first finishes the row at hand, then takes what the outside world does; where the next thing is to issue a path outside
macros, it fetches the word at the path's address (and the sync word of a two-word opcode), and when they decode to an
instruction, the step is that instruction's execution for the lanes of the path, with the time that passes (R31, R34 to R36,
R286). How many cycles a step takes, and which of several possible things comes next, is the model's choice (log 1). -/
def Obligations.StepRunsTheDecodedInstruction : Prop :=
  ∀ (s : State),
    (∀ i is, s.agenda = i :: is → step s = timed s (exec i { s with agenda := is })) ∧
    (∀ n i rest, s.agenda = [] → s.inputs = (n, i) :: rest → n ≤ s.cycle → step s = timed s (exec i { s with inputs := rest })) ∧
    (∀ g (p : Path) others w y i, s.agenda = [] → dueInput s = none →
      nextChoice s = some (issueChoice s g { path := p, fetched := fetchPlace s g p.pc p.mac, ready := .go } others) → p.mac = none →
      fetchWord s g p.pc.toNat = .ok w →
      (if twoWords (opOf (w32 w)) then fetchWord s g (p.pc + 4).toNat = .ok y else y = 0) → decodeWords (w32 w) (w32 y) = .ok i →
      let t := noteIssue s g p others
      step s = timed s (exec i { t with cur := { g := g, lanes := p.lanes, pc := p.pc, mac := none, word := w32 w } }))

/-- R31 to R36, R48, R51, R53: words written out from the spec's encodings, with the instructions they stand for. -/
def Obligations.WordsDecode : Prop :=
  decodeTableWord 32 0x00000000 = some .nop ∧ decodeTableWord 32 0x03100B0C = some (.add 0x10 0x0B 0x0C) ∧
  decodeTableWord 32 0x3300F2C1 = some (.fadd 0x00 0xF2 0xC1) ∧ decodeTableWord 32 0xD0F80001 = some (.mode 0xF80001#24) ∧
  decodeTableWord 32 0xD1FFFFFE = some (.lit 0xFFFFFE#24) ∧ decodeTableWord 32 0xA0204005 = some (.ld 0x20 0x40 0x05) ∧
  decodeTableWord 64 0x0A008007BF204060 = some (.movCpy 0x20 0x40 0x60 0x0A008007#32) ∧
  decodeTableWord 64 0x00000001DE000000 = some (.endGroup 0x00000001#32) ∧ decodeTableWord 32 0xFF123456 = some (.illegalOpcode 0xFF123456#32) ∧
  decodeTableWord 32 0x00000001 = none

/-- R27, R47, R56, R173, R299, R315, R449, R27: what the spec gives the machine at reset: no entry is taken, no channel bound, the
control store, the array words and the census are zero, every lane's mode register holds its start value, every die has 600
power credits; and both memories are in canonical form (R199). -/
def Obligations.ResetState : Prop :=
  (∀ e, (State.reset.entry e).st = .free) ∧ (∀ k, Tab.find? State.reset.chans k = none) ∧ (∀ k, Tab.get State.reset.store k 0#39 = 0) ∧
  (∀ k, (State.reset.array k).inForce = 0) ∧ (∀ k, Tab.get State.reset.census k 0#32 = 0) ∧ (∀ g l, (State.reset.lane g l).mode = 0x00070000#32) ∧
  (∀ d, (State.reset.power d).budget = 600) ∧ (∀ p, (State.reset.pkg p).policy = 0x00000066#32) ∧ State.reset.groups = [] ∧ State.reset.memOk = true

/-- Every well-formed instruction is what its words decode to, with every operand at every value that its encoding admits (R31 to
R37, R51, R53). -/
def Obligations.DecodeOfEncode : Prop :=
  ∀ (i : Instr) (wide : Bool), i.wf wide = true →
    ∃ w y, (encode i = [w] ∧ y = 0 ∧ twoWords (opOf w) = false ∨ encode i = [w, y] ∧ twoWords (opOf w) = true) ∧ decodeWords w y = .ok i ∧
      decodeTableWord (32 * (encode i).length) (w.toNat + 2 ^ 32 * y.toNat) = some i

/-- No two words read alike: the words from which an instruction was read are those it encodes to; the second word of a one-word
opcode is not read (R31, R33). -/
def Obligations.EncodeOfDecode : Prop :=
  ∀ (w y : BitVec 32) (i : Instr), decodeWords w y = .ok i → encode i = if twoWords (opOf w) then [w, y] else [w]

/-- Every step keeps both memories in canonical form: addresses strictly rising, and no entry equal to what an unlisted address
reads as (R199; log 9). -/
def Obligations.StepsKeepMemoryCanonical : Prop := ∀ s t : State, s.memOk = true → step s = .next t → t.memOk = true

/-- CLOCK never goes back, and every step that ends an instruction or a step of the device takes at least one cycle (R28, R43).
That a step takes whole cycles of an open number is the model's choice (log 1). -/
def Obligations.ClockAdvances : Prop :=
  ∀ s t : State, step s = .next t → s.cycle ≤ t.cycle ∧ t.tick = s.tick + 1 ∧ (t.agenda = [] → s.cycle < t.cycle)

/-- R13, R14, R43 to R45, R89: the frame of every per-lane instruction, whose next state is `after i s f` by the statements of its
results. If the lanes' results name only the registers ds: every other vector and scalar register, of every lane and group,
and k and predicates likewise, are unchanged; ASTAT of an issuing lane gains the flags of its result and loses none, its draw
counter advances by its draws; the mode register, the stream word, the return stack and the trap registers of every lane are
unchanged; and so is every byte of memory, of operand memory and of the windows. -/
def Obligations.FrameOfLaneResults : Prop :=
  ∀ (i : Instr) (s : State) (f : Nat → LaneOut) (ds : List Nat), (∀ l ∈ lanes s, ∀ w ∈ (f l).writes, w.1 ∈ ds) →
    let t := after i s f
    (∀ a, getByte t.mem a = getByte s.mem a) ∧ t.hostMem = s.hostMem ∧ t.opmem = s.opmem ∧ t.heads = s.heads ∧ t.wins = s.wins ∧ t.sems = s.sems ∧
    t.accs = s.accs ∧ t.cmds = s.cmds ∧ t.groups = s.groups ∧ t.entries = s.entries ∧ t.recs = s.recs ∧ t.ctxs = s.ctxs ∧ t.dies = s.dies ∧ t.pkgs = s.pkgs ∧
    (∀ g l c, c < 0xC0 → (g ≠ s.cur.g ∨ l ∉ lanes s ∨ c ∉ ds) → l < 64 → rd t g l c = rd s g l c) ∧
    (∀ g l c, 0xC0 ≤ c → c < 0xE0 → (g ≠ s.cur.g ∨ c ∉ ds) → rd t g l c = rd s g l c) ∧
    (∀ g l, l < 64 →
      let x := s.lane g l
      let y := t.lane g l
      y.mode = x.mode ∧ y.streamid = x.streamid ∧ y.ret = x.ret ∧ y.inHandler = x.inHandler ∧ y.savedMode = x.savedMode ∧ y.savedK = x.savedK ∧
      y.resumePc = x.resumePc ∧ y.tinfo = x.tinfo ∧ y.stand = x.stand ∧ (0xFF ∉ ds → y.k = x.k) ∧ (∀ j < 7, 0xF0 + j ∉ ds → y.preds.getLsbD j = x.preds.getLsbD j) ∧
      (g ≠ s.cur.g ∨ l ∉ lanes s → y.astat = x.astat ∧ y.drawctr = x.drawctr ∧ y.k = x.k ∧ y.preds = x.preds) ∧
      (g = s.cur.g → l ∈ lanes s → y.astat = x.astat ||| w32 ((f l).flags % 256) ∧ y.drawctr = x.drawctr + w32 (f l).draws))

/-- R38, R212, R238: the frame of instructions whose effect comes later. Entering accesses (loads, stores, atomics), posting a
command, standing at a boundary and moving past instructions leave every register, flag and mode of every lane and every byte
of memory, operand memory and windows as they were. -/
def Obligations.FrameOfIssues : Prop :=
  ∀ (i : Instr) (s : State) (m : Mask) (n : Nat) (f : Nat → Acc) (c : Cmd) (w : BitVec 32),
    ∀ t ∈ ([enterAccs (sending i s n) m n f, past n s (postCmd (popAll (begun s n) i) c), standAt i w (begun s n) m, past n s (begun s n)] : List State),
      (∀ a, getByte t.mem a = getByte s.mem a) ∧ t.hostMem = s.hostMem ∧ t.opmem = s.opmem ∧ t.heads = s.heads ∧ t.wins = s.wins ∧ t.vregs = s.vregs ∧
      t.sregs = s.sregs ∧ t.entries = s.entries ∧ t.recs = s.recs ∧ t.dies = s.dies ∧ t.pkgs = s.pkgs ∧ t.ctxs = s.ctxs ∧
      ∀ g l, l < 64 →
        let x := s.lane g l
        let y := t.lane g l
        y.mode = x.mode ∧ y.k = x.k ∧ y.preds = x.preds ∧ y.astat = x.astat ∧ y.streamid = x.streamid ∧ y.drawctr = x.drawctr ∧ y.ret = x.ret ∧
          y.inHandler = x.inHandler ∧ y.savedMode = x.savedMode ∧ y.savedK = x.savedK ∧ y.resumePc = x.resumePc ∧ y.tinfo = x.tinfo

/-- R217, R239 to R241: a store that is performed at a die's memory writes its enabled bytes there, at the address its translation
gives, and no other byte; a load at its home reads them and writes none. No cached copy stands in between (the premises on L1,
L2 and the stash), the home logs nothing, and its line is good. -/
def Obligations.StoresWriteTheirBytes : Prop :=
  ∀ (s : State) (id : Nat) (a : Acc), Tab.find? s.accs id = some a → canPerform s id a = true → s.l1 = [] → s.l2 = [] → s.stash = [] → s.traces = [] → s.bad = [] →
    s.stamps = [] → a.loc.host = false → a.loc.obs = false → isDead s a.loc.gd a.loc.page = false → a.scope ≠ 0 →
    (a.op = .store → leads (.remoteRequest id) s fun t =>
      (∀ i < a.width, getByte t.mem (a.loc.mkey + i) = if bitOf a.enable i then a.data / 256 ^ i % 256 else getByte s.mem (a.loc.mkey + i)) ∧
      (∀ k, k < a.loc.mkey ∨ a.loc.mkey + a.width ≤ k → getByte t.mem k = getByte s.mem k) ∧ t.vregs = s.vregs ∧
      Tab.find? t.accs id = some { a with stage := .done, value := 0, flags := 0 }) ∧
    (a.op = .load → leads (.remoteRequest id) s fun t =>
      (∀ k, getByte t.mem k = getByte s.mem k) ∧ t.vregs = s.vregs ∧
      Tab.find? t.accs id = some { a with stage := .done, value := leValue (getBytes s.mem a.loc.mkey a.width), flags := 0 })

/-- R14, R43, R45: a register reads as it was last written; ZERO reads 0 and p7 reads 1, and with the other read-only codes they
discard what is written; a write changes no other register. -/
def Obligations.RegisterFile : Prop :=
  ∀ (s : State) (g l c x : Nat), l < 64 →
    (c < 0xE0 → rd (wr s g l c x) g l c = x % 2 ^ 32) ∧ (0xF0 ≤ c → c < 0xF7 → rd (wr s g l c x) g l c = x % 2) ∧ rd (wr s g l 0xFF x) g l 0xFF = x % 2 ^ 32 ∧
    (0xF7 ≤ c → c < 0xFF → wr s g l c x = s) ∧ rd s g l 0xFE = 0 ∧ rd64 s g l 0xFE = 0 ∧ rd s g l 0xF7 = 1 ∧ rd s g l 0xF8 = l ∧
    (∀ h j d, j < 64 → d < 0xC0 → c < 0xC0 → (h, j, d) ≠ (g, l, c) → rd (wr s g l c x) h j d = rd s h j d) ∧
    (∀ h d, 0xC0 ≤ d → d < 0xE0 → c < 0xE0 → (h, d) ≠ (g, c) → ∀ j, rd (wr s g l c x) h j d = rd s h j d) ∧ (wr s g l c x).mem = s.mem
end

