-- ==== Sys2Proof/Laws/Table.lean ====
section
/-! SUPPORT. Reads after writes of a table, and its canonical form. -/
namespace Sys2Proof.Machine
open Host

variable {α : Type}

theorem Tab.find_put (t : Tab α) (k j : Nat) (v : α) : Tab.find? (Tab.put t k v) j = if k = j then some v else Tab.find? t j := by
  induction t with
  | nil => simp [Tab.put, Tab.find?]
  | cons e t ih =>
    obtain ⟨i, w⟩ := e
    simp only [Tab.put]
    split
    · simp only [Tab.find?]
    · split
      · subst_vars; simp only [Tab.find?]; split <;> rfl
      · simp only [Tab.find?, ih]; split <;> rename_i h1
        · subst h1; simp_all [eq_comm]
        · rfl
theorem Tab.get_put (t : Tab α) (k j : Nat) (v d : α) : Tab.get (Tab.put t k v) j d = if k = j then v else Tab.get t j d := by
  unfold Tab.get; rw [Tab.find_put]; split <;> rfl
theorem Tab.get_put_same (t : Tab α) (k : Nat) (v d : α) : Tab.get (Tab.put t k v) k d = v := by simp [Tab.get_put]
theorem Tab.get_put_other (t : Tab α) {k j : Nat} (v d : α) (h : k ≠ j) : Tab.get (Tab.put t k v) j d = Tab.get t j d := by
  simp [Tab.get_put, h]
theorem Tab.find_del (t : Tab α) (k j : Nat) : Tab.find? (Tab.del t k) j = if k = j then none else Tab.find? t j := by
  induction t with
  | nil => simp [Tab.del, Tab.find?]
  | cons e t ih =>
    obtain ⟨i, w⟩ := e
    unfold Tab.del at *
    by_cases hi : i = k
    · subst hi; by_cases hj : i = j <;> simp_all [Tab.find?]
    · by_cases hj : i = j
      · subst hj; simp [Tab.find?, hi, Ne.symm hi]
      · simp [Tab.find?, hi, hj, ih]
theorem Tab.get_set [DecidableEq α] (t : Tab α) (d v : α) (k j : Nat) :
    Tab.get (Tab.set t d k v) j d = if k = j then v else Tab.get t j d := by
  unfold Tab.set; split
  · unfold Tab.get; rw [Tab.find_del]; split <;> simp_all
  · exact Tab.get_put t k j v d
theorem Tab.get_set_other [DecidableEq α] (t : Tab α) (d v e : α) {k j : Nat} (h : k ≠ j) :
    Tab.get (Tab.set t d k v) j e = Tab.get t j e := by
  unfold Tab.set; split
  · simp [Tab.get, Tab.find_del, h]
  · exact Tab.get_put_other t v e h

/-! ### Rising keys -/

theorem Tab.rising_mono {t : Tab α} {a b : Nat} (h : a ≤ b) (ht : Tab.rising t b = true) : Tab.rising t a = true := by
  cases t with
  | nil => rfl
  | cons e t => simp only [Tab.rising, Bool.and_eq_true, decide_eq_true_eq] at *; exact ⟨by omega, ht.2⟩
theorem Tab.rising_put {t : Tab α} {lo k : Nat} {v : α} (hk : lo ≤ k) (h : Tab.rising t lo = true) :
    Tab.rising (Tab.put t k v) lo = true := by
  induction t generalizing lo with
  | nil => simp [Tab.put, Tab.rising, hk]
  | cons e t ih =>
    obtain ⟨i, w⟩ := e
    simp only [Tab.rising, Bool.and_eq_true, decide_eq_true_eq] at h
    simp only [Tab.put]
    split
    · simp only [Tab.rising, Bool.and_eq_true, decide_eq_true_eq]; exact ⟨hk, by omega, h.2⟩
    · split
      · subst_vars; simp only [Tab.rising, Bool.and_eq_true, decide_eq_true_eq]; exact h
      · simp only [Tab.rising, Bool.and_eq_true, decide_eq_true_eq]; exact ⟨h.1, ih (by omega) h.2⟩
theorem Tab.rising_del {t : Tab α} {lo k : Nat} (h : Tab.rising t lo = true) : Tab.rising (Tab.del t k) lo = true := by
  induction t generalizing lo with
  | nil => rfl
  | cons e t ih =>
    obtain ⟨i, w⟩ := e
    simp only [Tab.rising, Bool.and_eq_true, decide_eq_true_eq] at h
    unfold Tab.del at *
    by_cases hi : i = k
    · simp only [List.filter_cons, hi, bne_self_eq_false, Bool.false_eq_true, if_false]
      exact Tab.rising_mono (by omega) (ih h.2)
    · simp only [List.filter_cons, bne_iff_ne, ne_eq, hi, not_false_eq_true, if_true, Tab.rising, Bool.and_eq_true, decide_eq_true_eq]
      exact ⟨h.1, ih h.2⟩
/-- What a rising table does not list it does not hold. -/
theorem Tab.find_rising {t : Tab α} {lo k : Nat} (h : Tab.rising t lo = true) (hk : k < lo) : Tab.find? t k = none := by
  induction t generalizing lo with
  | nil => rfl
  | cons e t ih =>
    obtain ⟨i, w⟩ := e
    simp only [Tab.rising, Bool.and_eq_true, decide_eq_true_eq] at h
    have : i ≠ k := by omega
    simp only [Tab.find?, this, if_false]
    exact ih h.2 (by omega)
theorem Tab.get_set_same [DecidableEq α] (t : Tab α) (d v : α) (k : Nat) : Tab.get (Tab.set t d k v) k d = v := by simp [Tab.get_set]

/-! ### Memory (R199) -/

theorem Tab.all_put {t : Tab α} {k : Nat} {v : α} {p : Nat × α → Bool} (h : t.all p = true) (hv : p (k, v) = true) :
    (Tab.put t k v).all p = true := by
  induction t with
  | nil => simp [Tab.put, hv]
  | cons e t ih =>
    obtain ⟨i, w⟩ := e
    simp only [List.all_cons, Bool.and_eq_true] at h
    simp only [Tab.put]
    split
    · simp [hv, h.1, h.2]
    · split
      · simp [hv, h.2]
      · simp only [List.all_cons, Bool.and_eq_true]; exact ⟨h.1, ih h.2⟩
theorem Tab.all_del {t : Tab α} {k : Nat} {p : Nat × α → Bool} (h : t.all p = true) : (Tab.del t k).all p = true := by
  simp only [List.all_eq_true] at *
  exact fun e he => h e (List.mem_filter.mp he).1

/-- Writing a byte keeps the canonical form. -/
theorem setByte_wf {m : List Cell} (k v : Nat) (h : Memory.wf m = true) : Memory.wf (setByte m k v) = true := by
  unfold Memory.wf at *
  simp only [Bool.and_eq_true] at *
  unfold setByte Tab.set
  split
  · exact ⟨Tab.rising_del h.1, Tab.all_del h.2⟩
  · refine ⟨Tab.rising_put (by omega) h.1, Tab.all_put h.2 ?_⟩
    simpa using ‹¬ _›
theorem setBytes_wf {m : List Cell} (k : Nat) (bs : List Nat) (h : Memory.wf m = true) : Memory.wf (setBytes m k bs) = true := by
  induction bs generalizing m k with
  | nil => exact h
  | cons b bs ih => exact ih _ (setByte_wf k b h)
theorem setBytesEn_wf {m : List Cell} (k en : Nat) (bs : List Nat) (h : Memory.wf m = true) : Memory.wf (setBytesEn m k en bs) = true := by
  induction bs generalizing m k en with
  | nil => exact h
  | cons b bs ih =>
    unfold setBytesEn
    split
    · exact ih _ _ (setByte_wf k b h)
    · exact ih _ _ h
/-- A byte reads as written, and every other byte as before. -/
theorem getByte_setByte (m : List Cell) (k v : Nat) : getByte (setByte m k v) k = v % 256 := by
  unfold getByte setByte
  rw [Tab.get_set_same]
  simp
theorem getByte_setByte_other (m : List Cell) (v : Nat) {k j : Nat} (h : k ≠ j) : getByte (setByte m k v) j = getByte m j := by
  unfold getByte setByte; rw [Tab.get_set_other _ _ _ _ h]
theorem getByte_setBytes_other (m : List Cell) (bs : List Nat) {k j : Nat} (h : j < k ∨ k + bs.length ≤ j) :
    getByte (setBytes m k bs) j = getByte m j := by
  induction bs generalizing m k with
  | nil => rfl
  | cons b bs ih =>
    simp only [List.length_cons] at h
    unfold setBytes
    rw [ih _ (by omega), getByte_setByte_other _ _ (by omega)]

end Sys2Proof.Machine
end

