-- ==== Sys2Proof/Laws/Issue.lean ====
section
/-! SUPPORT. What issuing an instruction does when no issuing lane meets a cause (R13, R54, R287). -/
namespace Sys2Proof.Machine

theorem maskOf_none : maskOf (fun _ => false) = 0#64 := by decide

@[simp] theorem event_cur (s : State) (ck sl e n : Nat) : (s.event ck sl e n).cur = s.cur := by
  unfold State.event; split <;> rfl
@[simp] theorem countIssue_cur (s : State) : (countIssue s).cur = s.cur := by simp [countIssue]
@[simp] theorem onLanes_cur (s : State) (g : Nat) (ls : List Nat) (f : Nat → Lane → Lane) : (s.onLanes g ls f).cur = s.cur := rfl
@[simp] theorem advance_cur (s : State) (g n : Nat) (m : Mask) : (advance s g n m).cur = s.cur := rfl
@[simp] theorem counted_cur (s : State) (n : Nat) (m : Mask) : (counted s n m).cur = s.cur := by simp [counted]

/-- Where no lane meets a cause, the effect happens for every issuing lane and nothing is delivered. -/
theorem issueWith_clear {r : Rule} {s : State} {m : Mask} {body : State → Mask → State} (hm : m ≠ 0) (h : causesOf s r m = []) :
    issueWith r m s body = body (counted s r.words m) m := by
  have ha : m &&& 18446744073709551615#64 = m := BitVec.and_allOnes
  have hm' : m ≠ 0#64 := hm
  simp [issueWith, h, maskOf_none, hm', ha, deliver]
theorem issue_clear {r : Rule} {s : State} {body : State → Mask → State} (hm : issuing s ≠ 0) (h : causesOf s r (issuing s) = []) :
    issue r s body = .next (advance (body (counted s r.words (issuing s)) (issuing s)) s.cur.g r.words (issuing s)) := by
  simp [issue, issueRaw, issueWith_clear hm h]
theorem laneOp_clear {r : Rule} {s : State} {f : State → Mask → Nat → LaneOut} (hm : issuing s ≠ 0) (h : causesOf s r (issuing s) = []) :
    laneOp r s f = .next (advance (commit (counted s r.words (issuing s)) r.instr
      ((lanesIn (issuing s)).map fun l => (l, f (counted s r.words (issuing s)) (issuing s) l))) s.cur.g r.words (issuing s)) := by
  simp [laneOp, issue_clear hm h]

/-- Where every common check passes and no lane has a cause of its own, no lane meets a cause (R54). -/
theorem causesOf_nil {s : State} {r : Rule} {m : Mask} (h3 : (r.steward && !isDcc s.cur.g) = false)
    (h4 : opndsOk r.instr (anyWide s m) = true) (hs : syncBad r = false) (hr : r.reserved s m = false)
    (h5 : opndsInRange r.instr (anyWide s m) (s.grp s.cur.g).banks = true)
    (h6 : ∀ l ∈ lanesIn m, modeCause s r m l = none) (h7 : semCause s r m = none) (h8 : chanCause s r.instr = none)
    (h9 : r.all s m = none) (ho : ∀ l ∈ lanesIn m, r.own s m l = none) : causesOf s r m = [] := by
  have he : earlyCause s r m = none := by simp [earlyCause, h3, h4, hs, hr, h5]
  have hl : lateCause s r m = none := by simp [lateCause, h7, h8, h9]
  simp only [causesOf, he, hl, laneCause, List.filterMap_eq_nil_iff]
  intro l hml
  simp [h6 l hml, ho l hml]

/-! ### Reads do not see the counting -/

theorem lane_onLanes_keep {β : Type} (p : Lane → β) (g : Nat) (ls : List Nat) (f : Nat → Lane → Lane) (hf : ∀ l y, p (f l y) = p y)
    (s : State) (h l : Nat) : p ((s.onLanes g ls f).lane h l) = p (s.lane h l) := by
  have key : ∀ (t : Tab Lane), p (Tab.get (ls.foldl (fun t l => Tab.put t (laneKey g l) (f l (Tab.get t (laneKey g l) {}))) t) (laneKey h l) {}) =
      p (Tab.get t (laneKey h l) {}) := by
    induction ls with
    | nil => intro t; rfl
    | cons a ls ih =>
      intro t
      rw [List.foldl_cons, ih, Tab.get_put]
      split
      · rename_i e; rw [hf, e]
      · rfl
  exact key s.lanes
theorem event_lane (s : State) (ck sl e n g l : Nat) : (s.event ck sl e n).lane g l = s.lane g l := by
  unfold State.event; split <;> rfl
theorem lane_counted_keep {β : Type} (p : Lane → β) (hp : ∀ (y : Lane) pc mac, p { y with pc := pc, mac := mac } = p y) (s : State) (n : Nat)
    (m : Mask) (g l : Nat) : p ((counted s n m).lane g l) = p (s.lane g l) := by
  unfold counted
  simp only [event_lane, advance]
  rw [lane_onLanes_keep p]
  · simp [countIssue, event_lane]
  · intro _ y; unfold advanceLane; split
    · exact hp y _ y.mac
    · split
      · exact hp y _ _
      · exact hp y y.pc _
theorem event_frame (s : State) (ck sl e n : Nat) : ∃ p, s.event ck sl e n = { s with pmcs := p } := by
  unfold State.event; split
  · exact ⟨s.pmcs, rfl⟩
  · exact ⟨_, rfl⟩
/-- Only lanes and counters differ. -/
theorem counted_frame (s : State) (n : Nat) (m : Mask) : ∃ ls ps, counted s n m = { s with lanes := ls, pmcs := ps } := by
  unfold counted countIssue advance State.onLanes
  obtain ⟨p1, h1⟩ := event_frame s (ckOf s.cur.g) (slotOf s.cur.g) 1 1
  simp only [h1]
  obtain ⟨p2, h2⟩ := event_frame { s with pmcs := p1 } (ckOf s.cur.g) (slotOf s.cur.g) (classOf (curWord s / 2 ^ 24)) 1
  simp only [h2]
  obtain ⟨p3, h3⟩ := event_frame
    { s with pmcs := p2, lanes := List.foldl (fun t l => Tab.put t (laneKey s.cur.g l) (advanceLane { s with pmcs := p2 } (ckOf s.cur.g) n (Tab.get t (laneKey s.cur.g l) {}))) s.lanes (lanesIn (s.cur.lanes &&& ~~~m)) }
    (ckOf s.cur.g) (slotOf s.cur.g) 53 (lanesIn (s.cur.lanes &&& ~~~m)).length
  exact ⟨_, p3, h3⟩
/-- Register reads are those of the state before. -/
theorem rd_counted (s : State) (n : Nat) (m : Mask) (g l c : Nat) : rd (counted s n m) g l c = rd s g l c := by
  have hp : ((counted s n m).lane g l).preds = (s.lane g l).preds := lane_counted_keep Lane.preds (fun _ _ _ => rfl) s n m g l
  have hk : ((counted s n m).lane g l).k = (s.lane g l).k := lane_counted_keep Lane.k (fun _ _ _ => rfl) s n m g l
  obtain ⟨ls, ps, h⟩ := counted_frame s n m
  have hv : (counted s n m).vregs = s.vregs := by rw [h]
  have hs : (counted s n m).sregs = s.sregs := by rw [h]
  have hq : ((counted s n m).lane g l).kept = (s.lane g l).kept := lane_counted_keep Lane.kept (fun _ _ _ => rfl) s n m g l
  have hc : ∀ c, chanElem (counted s n m) g l c = chanElem s g l c := by
    intro c; simp only [chanElem, hq]; rw [h]; rfl
  have hg : (counted s n m).grp g = s.grp g := by rw [h]; rfl
  have hy : (counted s n m).cycle = s.cycle := by rw [h]
  simp only [rd, hv, hs, hc, hg, hy, Lane.pred, hp, hk]
@[simp] theorem rdA_counted (s : State) (n : Nat) (m : Mask) (l : Nat) (c : Code) : rdA (counted s n m) l c = rdA s l c := by
  simp [rdA, rd_counted]
@[simp] theorem rdP_counted (s : State) (n : Nat) (m : Mask) (l : Nat) (c : Code) : rdP (counted s n m) l c = rdP s l c := by
  simp [rdP, rd64, rd_counted]
@[simp] theorem laneMode_counted (s : State) (n : Nat) (m : Mask) (l : Nat) : laneMode (counted s n m) l = laneMode s l := by
  simp only [laneMode, counted_cur]
  rw [lane_counted_keep Lane.mode (fun _ _ _ => rfl)]
@[simp] theorem laneType_counted (s : State) (n : Nat) (m : Mask) (l : Nat) : laneType (counted s n m) l = laneType s l := by simp [laneType]
@[simp] theorem laneSat_counted (s : State) (n : Nat) (m : Mask) (l : Nat) : laneSat (counted s n m) l = laneSat s l := by simp [laneSat]
@[simp] theorem laneK_counted (s : State) (n : Nat) (m : Mask) (l : Nat) : laneK (counted s n m) l = laneK s l := by
  simp only [laneK, counted_cur]
  rw [lane_counted_keep Lane.k (fun _ _ _ => rfl)]

end Sys2Proof.Machine
end

