-- ==== Sys2Proof/Laws/Begun.lean ====
section
/-! SUPPORT. From `ready` to the effect of an instruction: where its fields and its own checks are met no lane meets a
cause, so what is left is the body in the state `begun`; and reads of `begun` are reads of the state before. -/
namespace Sys2Proof.Claims
open Sys2Proof Sys2Proof.Machine

/-- Increments that an instruction enters (R38, R336). -/
def incs (s : State) (r : Rule) : Nat := if r.perLane then (lanesIn (issuing s)).length else if r.boundary then firstMeet s else 1
/-- A ready instruction that passes its own checks meets no cause (R54): steward privilege, its sync word, reserved values,
the rounding mode, what holds for all its lanes and what holds for each. -/
theorem noCause_of_ready {i : Instr} {types : List Nat} {s : State} {r : Rule} (h : ready i types s = true) (hi : r.instr = i)
   (ht : r.types = none ∨ r.types = some types ∧ types ≠ []) (h1 : r.steward = true → isDcc s.cur.g = true)
   (h2 : ∀ k w, r.sync = some (k, w) → syncFine s k w (incs s r) = true)
   (h3 : r.reserved s (issuing s) = false)
   (h4 : r.noSto = true → (lanes s).all (fun l => !isSto (laneMode s l)) = true) (h5 : r.group = true → r.types = none ∧ r.noSto = false) (h6 : r.all s (issuing s) = none) (h7 : ∀ l ∈ lanesIn (issuing s), r.own s (issuing s) l = none) :
   causesOf s r (issuing s) = [] ∧ issuing s ≠ 0 := by
  simp only [ready, fits, Bool.and_eq_true, Bool.or_eq_true, List.all_eq_true, List.isEmpty_iff, bne_iff_ne, ne_eq, Option.isNone_iff_eq_none] at h
  obtain ⟨⟨⟨⟨a, b⟩, c⟩, e⟩, t⟩ := h
  refine ⟨?_, a⟩
  apply causesOf_nil
  · cases hs : r.steward <;> simp_all
  · rw [hi]; exact b
  · unfold syncBad
    split
    · rfl
    · rename_i k w hk; have := h2 k w hk; simp [syncFine] at this; simp [this]
  · exact h3
  · rw [hi]; exact c
  · intro l hl
    by_cases hg : r.group = true
    · simp [modeCause, h5 hg]
    · have hn : (r.noSto && isSto (laneMode s l)) = false := by
        cases hs : r.noSto
        · rfl
        · have := h4 hs; simp [lanes] at this; simp [this l hl]
      rcases ht with ht | ⟨ht, he⟩
      · simp [modeCause, ht, hg, hn]
      · rcases t with t | t
        · exact absurd t he
        · have := t l hl; simp at this; simp [modeCause, ht, hg, hn, this]
  · unfold semCause
    split
    · rfl
    · rename_i k w hk; have := h2 k w hk
      simp only [syncFine, Bool.and_eq_true, Bool.not_eq_true', Bool.or_eq_true, decide_eq_true_eq] at this
      obtain ⟨⟨⟨a1, a2⟩, a3⟩, a4⟩ := this
      simp only [a2, a3]
      simp only [Bool.false_eq_true, if_false]
      have e : (if r.perLane = true then (lanesIn (issuing s)).length else if r.boundary = true ∧ ((s.grp s.cur.g).bounds.any fun b => b.1 == s.cur.pc) = true then 0 else 1) = incs s r := by
        simp only [incs, firstMeet]; split
        · rfl
        · split <;> split <;> simp_all
      simp only [Bool.and_eq_true] at e ⊢
      rw [e]
      rw [if_neg]
      rintro ⟨q1, q2⟩
      simp at q2
      rcases a4 with a4 | a4 <;> simp_all <;> omega
  · rw [hi]; exact e
  · exact h6
  · exact h7
/-- Without a cause the body runs for every issuing lane. -/
theorem issueRaw_of_noCause {r s body} (hc : causesOf s r (issuing s) = [] ∧ issuing s ≠ 0) : issueRaw r s body = body (counted s r.words (issuing s)) (issuing s) := issueWith_clear hc.2 hc.1
/-- Without a cause a per-lane instruction of one word ends in `after`. -/
theorem laneOp_of_noCause {i s r} {f : State → Mask → Nat → LaneOut} {g : Nat → LaneOut} (hc : causesOf s r (issuing s) = [] ∧ issuing s ≠ 0) (hi : r.instr = i)
  (hw : r.words = 1) (hf : ∀ l, f (begun s 1) (issuing s) l = g l) : laneOp r s f = .next (after i s g) := by
  rw [laneOp_clear hc.2 hc.1, hi, hw]; simp only [after, past, begun] at *; simp only [hf, lanes]

/-- The same for an instruction after which its lanes go on. -/
theorem issue_of_noCause {r : Rule} {s : State} {body : State → Mask → State} (hc : causesOf s r (issuing s) = [] ∧ issuing s ≠ 0) :
    issue r s body = .next (past r.words s (body (begun s r.words) (issuing s))) := issue_clear hc.2 hc.1

/-! ### Reads of `begun` -/

@[simp] theorem laneDraw_begun (s : State) (n : Nat) (l i) : laneDraw (begun s n) l i = laneDraw s l i := by
  obtain ⟨ls, ps, h⟩ := counted_frame s n (issuing s)
  have e1 : ((begun s n).lane s.cur.g l).streamid = (s.lane s.cur.g l).streamid := lane_counted_keep Lane.streamid (fun _ _ _ => rfl) s n _ _ l
  have e2 : ((begun s n).lane s.cur.g l).drawctr = (s.lane s.cur.g l).drawctr := lane_counted_keep Lane.drawctr (fun _ _ _ => rfl) s n _ _ l
  have hc : (begun s n).cur = s.cur := counted_cur s n _
  simp only [laneDraw, hc, e1, e2]
  have : (begun s n).ctxOf = s.ctxOf := by rw [begun, h]; rfl
  have h2 : (begun s n).grp = s.grp := by rw [begun, h]; rfl
  have h3 : curSite (begun s n) = curSite s := by rw [begun, h]; rfl
  rw [this, h2, h3]
@[simp] theorem rdA_begun (s : State) (n : Nat) (l c) : rdA (begun s n) l c = rdA s l c := by simp [begun]
@[simp] theorem rd_begun (s : State) (n : Nat) (g l c) : rd (begun s n) g l c = rd s g l c := by simp [begun, rd_counted]
@[simp] theorem rdP_begun (s : State) (n : Nat) (l c) : rdP (begun s n) l c = rdP s l c := by simp [begun]
@[simp] theorem laneType_begun (s : State) (n : Nat) (l) : laneType (begun s n) l = laneType s l := by simp [begun]
@[simp] theorem laneMode_begun (s : State) (n : Nat) (l) : laneMode (begun s n) l = laneMode s l := by simp [begun]
@[simp] theorem laneK_begun (s : State) (n : Nat) (l) : laneK (begun s n) l = laneK s l := by simp [begun]
@[simp] theorem cur_begun (s : State) (n : Nat) : (begun s n).cur = s.cur := by simp [begun]
@[simp] theorem preds_begun (s : State) (n : Nat) (g l) : ((begun s n).lane g l).preds = (s.lane g l).preds := lane_counted_keep Lane.preds (fun _ _ _ => rfl) s n _ _ l

@[simp] theorem cmpVal_begun (s : State) (n : Nat) (l c) : cmpVal (begun s n) l c = cmpVal s l c := by simp only [cmpVal, laneType_begun, rdA_begun, rdP_begun]
@[simp] theorem elemF_begun (s : State) (n : Nat) (l x i) : elemF (begun s n) l x i = elemF s l x i := by simp only [elemF, laneType_begun, laneFlush, laneMode_begun]
@[simp] theorem exactOut_begun (s : State) (n : Nat) (l d x y f) : exactOut (begun s n) l d x y f = exactOut s l d x y f := by simp only [exactOut, laneType_begun, elemF_begun]
@[simp] theorem drawBits_begun (s : State) (n : Nat) (l i) : drawBits (begun s n) l i = drawBits s l i := by simp only [drawBits, laneDraw_begun]
@[simp] theorem laneRnd_begun (s : State) (n : Nat) (l) : laneRnd (begun s n) l = laneRnd s l := by simp only [laneRnd, laneMode_begun]
@[simp] theorem laneFlush_begun (s : State) (n : Nat) (l) : laneFlush (begun s n) l = laneFlush s l := by simp only [laneFlush, laneMode_begun]
@[simp] theorem laneSat_begun (s : State) (n : Nat) (l) : laneSat (begun s n) l = laneSat s l := by simp only [laneSat, laneMode_begun]
@[simp] theorem f32Val_begun (s : State) (n : Nat) (l x) : f32Val (begun s n) l x = f32Val s l x := by simp only [f32Val, laneFlush_begun]
@[simp] theorem stoDraws_begun (s : State) (n : Nat) (l k) : stoDraws (begun s n) l k = stoDraws s l k := by simp only [stoDraws, laneMode_begun]
@[simp] theorem fltOut_begun (s : State) (n : Nat) (l d x y z f) : fltOut (begun s n) l d x y z f = fltOut s l d x y z f := by simp only [fltOut, laneType_begun, elemF_begun, laneRnd_begun, drawBits_begun, stoDraws_begun]
@[simp] theorem cvtUp_begun (s : State) (n : Nat) (l d x h) : cvtUp (begun s n) l d x h = cvtUp s l d x h := by simp only [cvtUp, laneType_begun, elemF_begun]
@[simp] theorem cvtDown_begun (s : State) (n : Nat) (l d xs) : cvtDown (begun s n) l d xs = cvtDown s l d xs := by simp only [cvtDown, laneType_begun, laneRnd_begun, drawBits_begun, f32Val_begun, stoDraws_begun]
@[simp] theorem memberF_begun (s : State) (n : Nat) (l a ms i) : memberF (begun s n) l a ms i = memberF s l a ms i := by simp only [memberF, laneType_begun, laneFlush_begun, rdA_begun]
@[simp] theorem fredOut_begun (s : State) (n : Nat) (l d a ms all) : fredOut (begun s n) l d a ms all = fredOut s l d a ms all := by simp only [fredOut, laneType_begun, memberF_begun, laneRnd_begun, drawBits_begun, stoDraws_begun]
@[simp] theorem reduceOut_begun (s : State) (n : Nat) (l d a ms f) : reduceOut (begun s n) l d a ms f = reduceOut s l d a ms f := by simp only [reduceOut, laneType_begun, laneSat_begun, rdA_begun]

end Sys2Proof.Claims
end

