-- ==== Sys2Proof/Laws/Memory.lean ====
section
/-! SUPPORT. Every operation that changes one of the two memories keeps its canonical form; what a write at a home
changes. The operations are: a write at a home, the death of a page, the reset of a package, the loader's frames, the
guards a loss drops, and the placing of a program. Nothing else writes `mem` or `hostMem`. -/
namespace Sys2Proof.Machine
open Host

theorem Tab.rising_filter {α : Type} {t : Tab α} {lo : Nat} (p : Nat × α → Bool) (h : Tab.rising t lo = true) :
    Tab.rising (t.filter p) lo = true := by
  induction t generalizing lo with
  | nil => rfl
  | cons e t ih =>
    obtain ⟨i, w⟩ := e
    simp only [Tab.rising, Bool.and_eq_true, decide_eq_true_eq] at h
    by_cases hp : p (i, w) = true
    · simp only [List.filter_cons, hp, if_true, Tab.rising, Bool.and_eq_true, decide_eq_true_eq]
      exact ⟨h.1, ih h.2⟩
    · simp only [List.filter_cons, hp, Bool.false_eq_true, if_false]
      exact Tab.rising_mono (by omega) (ih h.2)
theorem filter_wf {m : List Cell} (p : Cell → Bool) (h : Memory.wf m = true) : Memory.wf (m.filter p) = true := by
  unfold Memory.wf at *
  simp only [Bool.and_eq_true, List.all_eq_true] at *
  exact ⟨Tab.rising_filter p h.1, fun e he => h.2 e (List.mem_filter.mp he).1⟩
theorem cut_wf {m : List Cell} (lo hi : Nat) (h : Memory.wf m = true) : Memory.wf (Tab.cut m lo hi) = true := filter_wf _ h
theorem find_filter {α : Type} {t : Tab α} {k : Nat} {p : Nat × α → Bool} (hp : ∀ v, p (k, v) = true) :
    Tab.find? (t.filter p) k = Tab.find? t k := by
  induction t with
  | nil => rfl
  | cons e t ih =>
    obtain ⟨i, w⟩ := e
    by_cases hi : i = k
    · subst hi; simp [Tab.find?, hp]
    · by_cases hq : p (i, w) = true
      · simp only [List.filter_cons, hq, if_true, Tab.find?, hi, if_false]; exact ih
      · simp only [List.filter_cons, hq, Bool.false_eq_true, if_false, Tab.find?, hi]; exact ih
/-- A cut changes no byte outside it. -/
theorem getByte_cut_other (m : List Cell) {lo hi k : Nat} (h : k < lo ∨ hi ≤ k) : getByte (Tab.cut m lo hi) k = getByte m k := by
  unfold getByte Tab.get Tab.cut
  rw [find_filter]
  intro v; simp only [Bool.or_eq_true, decide_eq_true_eq]; omega

theorem reset_memOk : State.reset.memOk = true := by decide

/-! ### Writes at a home -/

theorem ite_state {c : Prop} [Decidable c] (p : State → Prop) {a b : State} (ha : p a) (hb : p b) : p (if c then a else b) := by
  split
  · exact ha
  · exact hb
theorem obsWrite_mem (s : State) (gd off v : Nat) : (obsWrite s gd off v).mem = s.mem ∧ (obsWrite s gd off v).hostMem = s.hostMem := by
  let p (t : State) : Prop := t.mem = s.mem ∧ t.hostMem = s.hostMem
  have ite : ∀ {c : Prop} [Decidable c] {a b : State}, p a → p b → p (if c then a else b) := ite_state p
  show p (obsWrite s gd off v)
  unfold obsWrite
  refine ite ⟨rfl, rfl⟩ (ite ?_ ⟨rfl, rfl⟩)
  exact ite ⟨rfl, rfl⟩ (ite ⟨rfl, rfl⟩ (ite ⟨rfl, rfl⟩ (ite ⟨rfl, rfl⟩ (ite ⟨rfl, rfl⟩ (ite ⟨rfl, rfl⟩ (ite ⟨rfl, rfl⟩
    (ite ⟨rfl, rfl⟩ (ite ⟨rfl, rfl⟩ (ite ⟨rfl, rfl⟩ ⟨rfl, rfl⟩)))))))))
theorem homeWrite_memOk {s t : State} {k en : Nat} {l : Loc} {bs : List Nat} (h : s.memOk = true) (hw : homeWrite s k l en bs = some t) :
    t.memOk = true := by
  unfold State.memOk at *
  simp only [Bool.and_eq_true] at *
  unfold homeWrite at hw
  split at hw
  · cases hw; exact ⟨h.1, setBytesEn_wf _ _ _ h.2⟩
  · split at hw
    · cases hw; rw [(obsWrite_mem ..).1, (obsWrite_mem ..).2]; exact h
    · simp only [] at hw
      split at hw
      · cases hw
      · cases hw; exact ⟨setBytesEn_wf _ _ _ h.1, h.2⟩
/-- A write to device memory whose line is good writes its enabled bytes and no other byte. -/
theorem homeWrite_mem {s : State} {k en : Nat} {l : Loc} {bs : List Nat} (hh : l.host = false) (ho : l.obs = false)
    (hl : lineLost s l.gd l.mkey = false) : ∃ t, homeWrite s k l en bs = some t ∧ t.mem = setBytesEn s.mem l.mkey en bs ∧ t.hostMem = s.hostMem := by
  unfold homeWrite
  simp only [hh, ho, hl, Bool.false_eq_true, if_false, Bool.false_and]
  exact ⟨_, rfl, rfl, rfl⟩
theorem getByte_setBytesEn_other (m : List Cell) (en : Nat) (bs : List Nat) {k j : Nat} (h : j < k ∨ k + bs.length ≤ j) :
    getByte (setBytesEn m k en bs) j = getByte m j := by
  induction bs generalizing m k en with
  | nil => rfl
  | cons b bs ih =>
    simp only [List.length_cons] at h
    unfold setBytesEn
    split
    · rw [ih _ _ (by omega), getByte_setByte_other _ _ (by omega)]
    · rw [ih _ _ (by omega)]

/-! ### The rest -/

theorem foldl_memOk {α : Type} {f : State → α → State} (hf : ∀ s a, s.memOk = true → (f s a).memOk = true) (as : List α) {s : State}
    (h : s.memOk = true) : (as.foldl f s).memOk = true := by
  induction as generalizing s with
  | nil => exact h
  | cons a as ih => exact ih (hf s a h)
theorem scanStop_mem (s : State) (gd n : Nat) : (scanStop s gd n).mem = s.mem ∧ (scanStop s gd n).hostMem = s.hostMem := by
  unfold scanStop; extract_lets; split <;> exact ⟨rfl, rfl⟩
theorem writeLine_memOk {s : State} (gd asid k va en : Nat) (bs : List Nat) (h : s.memOk = true) :
    (writeLine s gd asid k va en bs).memOk = true := by
  unfold writeLine
  split
  · rename_i l _
    cases hw : homeWrite s k l en bs with
    | none => exact h
    | some t => exact homeWrite_memOk h hw
  · exact h
theorem memOk_of_eq {s t : State} (e : t.mem = s.mem ∧ t.hostMem = s.hostMem) (h : s.memOk = true) : t.memOk = true := by
  unfold State.memOk at *; rw [e.1, e.2]; exact h
theorem logTrace_memOk {s : State} (gd sl : Nat) (x : Ask) (r : Nat) (h : s.memOk = true) : (logTrace s gd sl x r).memOk = true := by
  unfold logTrace
  extract_lets k t c kind space full s1
  have h1 : s1.memOk = true := by
    show State.memOk (if _ then _ else _) = true
    split
    · exact memOk_of_eq (scanStop_mem ..) h
    · exact h
  split
  · exact h
  · split
    · exact h1
    · refine memOk_of_eq (s := writeLine s1 gd _ 1 _ _ _) ⟨rfl, rfl⟩ (writeLine_memOk _ _ _ _ _ _ h1)
theorem dropReplicas_memOk {s : State} (l : Loc) (asid va : Nat) (h : s.memOk = true) : (dropReplicas s l asid va).memOk = true := by
  unfold dropReplicas
  extract_lets ks t
  have ht : t.memOk = true := foldl_memOk (fun s k hs => logTrace_memOk _ _ _ _ (by exact hs)) _ h
  split
  · exact ht
  · exact ht
/-- What leaves the two memories as they are keeps their form: the counts of a channel, the lines of L2. -/
theorem chanAccess_mem (s : State) (gd page : Nat) : (chanAccess s gd page).mem = s.mem ∧ (chanAccess s gd page).hostMem = s.hostMem := by
  unfold chanAccess; extract_lets; split <;> exact ⟨rfl, rfl⟩
theorem l2Gone_mem (gd : Nat) (s : State) (y : L2Line) : (l2Gone gd s y).mem = s.mem ∧ (l2Gone gd s y).hostMem = s.hostMem := by
  unfold l2Gone
  split
  · exact ⟨rfl, rfl⟩
  · split
    · exact chanAccess_mem ..
    · exact chanAccess_mem ..
theorem l2Place_memOk {s : State} (gd sl va : Nat) (x : L2Line) (h : s.memOk = true) : (l2Place s gd sl va x).memOk = true := by
  unfold l2Place
  extract_lets k ls ls' all
  exact foldl_memOk (fun s y hs => memOk_of_eq (l2Gone_mem gd s y) hs) _ (by exact h)
theorem homeAsk_memOk {s : State} (l : Loc) (q : Ask) (e d x : Bool) (h : s.memOk = true) : (homeAsk s l q e d x).memOk = true := by
  unfold homeAsk
  refine ite_state (fun t => t.memOk = true) h ?_
  extract_lets sl had s1 s2 r out s3 s4 line y y' s5
  have h1 : s1.memOk = true := h
  have h2 : s2.memOk = true := ite_state (fun t => t.memOk = true) h1 (memOk_of_eq (chanAccess_mem ..) h1)
  have h3 : s3.memOk = true := ite_state (fun t => t.memOk = true) (ite_state (fun t => t.memOk = true) h2 h2) (ite_state (fun t => t.memOk = true) h2 h2)
  have h4 : s4.memOk = true := ite_state (fun t => t.memOk = true) (dropReplicas_memOk _ _ _ h3) h3
  have h5 : s5.memOk = true := ite_state (fun t => t.memOk = true) h4 (l2Place_memOk _ _ _ _ h4)
  exact ite_state (fun t => t.memOk = true) (logTrace_memOk _ _ _ _ h) (logTrace_memOk _ _ _ _ h5)
theorem homePut_memOk {s t : State} {k en : Nat} {l : Loc} {q : Ask} {bs : List Nat} (h : s.memOk = true) (hw : homePut s k l q en bs = some t) :
    t.memOk = true := by
  unfold homePut at hw
  split at hw
  · cases hw
  · exact homeWrite_memOk (homeAsk_memOk _ _ _ _ _ h) hw
theorem dropPage_memOk {s : State} (a : Acc) (h : s.memOk = true) : (dropPage s a).memOk = true := by
  unfold dropPage
  extract_lets page mine near lines t
  have ht : t.memOk = true := foldl_memOk (fun s n hs => dropReplicas_memOk _ _ _ hs) _ h
  exact ht
theorem zeroLines_memOk {s : State} (lo n : Nat) (h : s.memOk = true) : (zeroLines s lo n).memOk = true := by
  unfold State.memOk at *
  simp only [Bool.and_eq_true] at *
  exact ⟨cut_wf _ _ h.1, h.2⟩
theorem killPage_memOk {s : State} (a : Acc) (l : Loc) (h : s.memOk = true) : (killPage s a l).memOk = true := by
  unfold killPage
  extract_lets t
  have ht : t.memOk = true := dropPage_memOk a h
  split
  · exact zeroLines_memOk (s := t) _ _ ht
  · refine foldl_memOk (fun s f hs => ?_) _ ht
    split
    · exact zeroLines_memOk _ _ hs
    · exact hs
theorem setBytes_foldl_wf {α : Type} (k : α → Nat) (v : α → List Nat) (bs : List α) {m : List Cell} (h : Memory.wf m = true) :
    Memory.wf (bs.foldl (fun m b => setBytes m (k b) (v b)) m) = true := by
  induction bs generalizing m with
  | nil => exact h
  | cons b bs ih => exact ih (setBytes_wf _ _ h)
theorem l2Lose_memOk {s : State} (p : Nat → Bool) (h : s.memOk = true) : (l2Lose s p).memOk = true := by
  unfold State.memOk at *
  simp only [Bool.and_eq_true] at *
  exact ⟨setBytes_foldl_wf _ _ _ h.1, h.2⟩
theorem resetDies_memOk {s : State} (p : Nat → Bool) (h : s.memOk = true) : (resetDies s p).memOk = true := by
  exact l2Lose_memOk p h
theorem poke8_memOk {s : State} (gd a v : Nat) (h : s.memOk = true) : (poke8 s gd a v).memOk = true := by
  unfold State.memOk at *
  simp only [Bool.and_eq_true] at *
  exact ⟨setBytes_wf _ _ h.1, h.2⟩
theorem dropGuards_memOk {s : State} (gd p : Nat) (h : s.memOk = true) : (dropGuards s gd p).memOk = true := by
  unfold dropGuards
  extract_lets
  split
  · exact h
  · refine foldl_memOk (fun t i ht => ?_) _ h
    extract_lets
    split
    · unfold State.memOk at *
      simp only [Bool.and_eq_true] at *
      exact ⟨setBytes_wf _ _ ht.1, ht.2⟩
    · exact ht
theorem zeroPage_memOk {s : State} (gd page : Nat) (h : s.memOk = true) : (zeroPage s gd page).memOk = true := by
  unfold State.memOk at *
  simp only [Bool.and_eq_true] at *
  exact ⟨cut_wf _ _ h.1, h.2⟩
theorem powerReset_memOk {s : State} (p : Nat) (h : s.memOk = true) : (powerReset s p).memOk = true := by
  have h := resetDies_memOk (fun gd => pkgOf gd == p) h
  unfold State.memOk at *
  simp only [Bool.and_eq_true] at *
  exact ⟨filter_wf _ h.1, h.2⟩
theorem placeProgram_memOk {s : State} (w : Nat) (h : s.memOk = true) : (placeProgram s w).memOk = true := by
  unfold State.memOk at *
  simp only [Bool.and_eq_true] at *
  exact ⟨setBytes_foldl_wf _ _ _ h.1, h.2⟩

end Sys2Proof.Machine
end

