-- ==== Sys2Proof/Laws/State.lean ====
section
/-! SUPPORT. What the named updates of a state leave as it was, one lemma for each field, and what they read back as. -/
namespace Sys2Proof.Machine

/-! ### setLane -/

section
variable (s : State) (g l : Nat) (x : Lane)
@[simp] theorem setLane_agenda : (s.setLane g l x).agenda = s.agenda := rfl
@[simp] theorem setLane_inputs : (s.setLane g l x).inputs = s.inputs := rfl
@[simp] theorem setLane_cur : (s.setLane g l x).cur = s.cur := rfl
@[simp] theorem setLane_tick : (s.setLane g l x).tick = s.tick := rfl
@[simp] theorem setLane_nextId : (s.setLane g l x).nextId = s.nextId := rfl
@[simp] theorem setLane_cycle : (s.setLane g l x).cycle = s.cycle := rfl
@[simp] theorem setLane_vregs : (s.setLane g l x).vregs = s.vregs := rfl
@[simp] theorem setLane_sregs : (s.setLane g l x).sregs = s.sregs := rfl
@[simp] theorem setLane_dirtyBanks : (s.setLane g l x).dirtyBanks = s.dirtyBanks := rfl
@[simp] theorem setLane_dirtyLines : (s.setLane g l x).dirtyLines = s.dirtyLines := rfl
@[simp] theorem setLane_groups : (s.setLane g l x).groups = s.groups := rfl
@[simp] theorem setLane_teams : (s.setLane g l x).teams = s.teams := rfl
@[simp] theorem setLane_wins : (s.setLane g l x).wins = s.wins := rfl
@[simp] theorem setLane_stash : (s.setLane g l x).stash = s.stash := rfl
@[simp] theorem setLane_sems : (s.setLane g l x).sems = s.sems := rfl
@[simp] theorem setLane_grants : (s.setLane g l x).grants = s.grants := rfl
@[simp] theorem setLane_l1 : (s.setLane g l x).l1 = s.l1 := rfl
@[simp] theorem setLane_wbFails : (s.setLane g l x).wbFails = s.wbFails := rfl
@[simp] theorem setLane_store : (s.setLane g l x).store = s.store := rfl
@[simp] theorem setLane_credits : (s.setLane g l x).credits = s.credits := rfl
@[simp] theorem setLane_lastSlot : (s.setLane g l x).lastSlot = s.lastSlot := rfl
@[simp] theorem setLane_pmcs : (s.setLane g l x).pmcs = s.pmcs := rfl
@[simp] theorem setLane_chans : (s.setLane g l x).chans = s.chans := rfl
@[simp] theorem setLane_opmem : (s.setLane g l x).opmem = s.opmem := rfl
@[simp] theorem setLane_heads : (s.setLane g l x).heads = s.heads := rfl
@[simp] theorem setLane_handles : (s.setLane g l x).handles = s.handles := rfl
@[simp] theorem setLane_arrays : (s.setLane g l x).arrays = s.arrays := rfl
@[simp] theorem setLane_banks : (s.setLane g l x).banks = s.banks := rfl
@[simp] theorem setLane_rings : (s.setLane g l x).rings = s.rings := rfl
@[simp] theorem setLane_entries : (s.setLane g l x).entries = s.entries := rfl
@[simp] theorem setLane_recs : (s.setLane g l x).recs = s.recs := rfl
@[simp] theorem setLane_trays : (s.setLane g l x).trays = s.trays := rfl
@[simp] theorem setLane_opers : (s.setLane g l x).opers = s.opers := rfl
@[simp] theorem setLane_descs : (s.setLane g l x).descs = s.descs := rfl
@[simp] theorem setLane_hlb : (s.setLane g l x).hlb = s.hlb := rfl
@[simp] theorem setLane_ctc : (s.setLane g l x).ctc = s.ctc := rfl
@[simp] theorem setLane_faultRecs : (s.setLane g l x).faultRecs = s.faultRecs := rfl
@[simp] theorem setLane_lbars : (s.setLane g l x).lbars = s.lbars := rfl
@[simp] theorem setLane_census : (s.setLane g l x).census = s.census := rfl
@[simp] theorem setLane_tiers : (s.setLane g l x).tiers = s.tiers := rfl
@[simp] theorem setLane_dead : (s.setLane g l x).dead = s.dead := rfl
@[simp] theorem setLane_counts : (s.setLane g l x).counts = s.counts := rfl
@[simp] theorem setLane_repls : (s.setLane g l x).repls = s.repls := rfl
@[simp] theorem setLane_slices : (s.setLane g l x).slices = s.slices := rfl
@[simp] theorem setLane_slovf : (s.setLane g l x).slovf = s.slovf := rfl
@[simp] theorem setLane_traces : (s.setLane g l x).traces = s.traces := rfl
@[simp] theorem setLane_powers : (s.setLane g l x).powers = s.powers := rfl
@[simp] theorem setLane_tests : (s.setLane g l x).tests = s.tests := rfl
@[simp] theorem setLane_bad : (s.setLane g l x).bad = s.bad := rfl
@[simp] theorem setLane_dies : (s.setLane g l x).dies = s.dies := rfl
@[simp] theorem setLane_pkgs : (s.setLane g l x).pkgs = s.pkgs := rfl
@[simp] theorem setLane_ctxs : (s.setLane g l x).ctxs = s.ctxs := rfl
@[simp] theorem setLane_jobs : (s.setLane g l x).jobs = s.jobs := rfl
@[simp] theorem setLane_raises : (s.setLane g l x).raises = s.raises := rfl
@[simp] theorem setLane_queues : (s.setLane g l x).queues = s.queues := rfl
@[simp] theorem setLane_msgs : (s.setLane g l x).msgs = s.msgs := rfl
@[simp] theorem setLane_sigs : (s.setLane g l x).sigs = s.sigs := rfl
@[simp] theorem setLane_accs : (s.setLane g l x).accs = s.accs := rfl
@[simp] theorem setLane_cmds : (s.setLane g l x).cmds = s.cmds := rfl
@[simp] theorem setLane_mem : (s.setLane g l x).mem = s.mem := rfl
@[simp] theorem setLane_stamps : (s.setLane g l x).stamps = s.stamps := rfl
@[simp] theorem setLane_hostMem : (s.setLane g l x).hostMem = s.hostMem := rfl
@[simp] theorem setLane_hostReply : (s.setLane g l x).hostReply = s.hostReply := rfl
@[simp] theorem setLane_l1sets : (s.setLane g l x).l1sets = s.l1sets := rfl
@[simp] theorem setLane_l1pred : (s.setLane g l x).l1pred = s.l1pred := rfl
@[simp] theorem setLane_rights : (s.setLane g l x).rights = s.rights := rfl
@[simp] theorem setLane_aborts : (s.setLane g l x).aborts = s.aborts := rfl
@[simp] theorem setLane_l2 : (s.setLane g l x).l2 = s.l2 := rfl
@[simp] theorem setLane_bankQs : (s.setLane g l x).bankQs = s.bankQs := rfl
end

/-! ### modLane -/

section
variable (s : State) (g l : Nat) (x : Lane → Lane)
@[simp] theorem modLane_agenda : (s.modLane g l x).agenda = s.agenda := rfl
@[simp] theorem modLane_inputs : (s.modLane g l x).inputs = s.inputs := rfl
@[simp] theorem modLane_cur : (s.modLane g l x).cur = s.cur := rfl
@[simp] theorem modLane_tick : (s.modLane g l x).tick = s.tick := rfl
@[simp] theorem modLane_nextId : (s.modLane g l x).nextId = s.nextId := rfl
@[simp] theorem modLane_cycle : (s.modLane g l x).cycle = s.cycle := rfl
@[simp] theorem modLane_vregs : (s.modLane g l x).vregs = s.vregs := rfl
@[simp] theorem modLane_sregs : (s.modLane g l x).sregs = s.sregs := rfl
@[simp] theorem modLane_dirtyBanks : (s.modLane g l x).dirtyBanks = s.dirtyBanks := rfl
@[simp] theorem modLane_dirtyLines : (s.modLane g l x).dirtyLines = s.dirtyLines := rfl
@[simp] theorem modLane_groups : (s.modLane g l x).groups = s.groups := rfl
@[simp] theorem modLane_teams : (s.modLane g l x).teams = s.teams := rfl
@[simp] theorem modLane_wins : (s.modLane g l x).wins = s.wins := rfl
@[simp] theorem modLane_stash : (s.modLane g l x).stash = s.stash := rfl
@[simp] theorem modLane_sems : (s.modLane g l x).sems = s.sems := rfl
@[simp] theorem modLane_grants : (s.modLane g l x).grants = s.grants := rfl
@[simp] theorem modLane_l1 : (s.modLane g l x).l1 = s.l1 := rfl
@[simp] theorem modLane_wbFails : (s.modLane g l x).wbFails = s.wbFails := rfl
@[simp] theorem modLane_store : (s.modLane g l x).store = s.store := rfl
@[simp] theorem modLane_credits : (s.modLane g l x).credits = s.credits := rfl
@[simp] theorem modLane_lastSlot : (s.modLane g l x).lastSlot = s.lastSlot := rfl
@[simp] theorem modLane_pmcs : (s.modLane g l x).pmcs = s.pmcs := rfl
@[simp] theorem modLane_chans : (s.modLane g l x).chans = s.chans := rfl
@[simp] theorem modLane_opmem : (s.modLane g l x).opmem = s.opmem := rfl
@[simp] theorem modLane_heads : (s.modLane g l x).heads = s.heads := rfl
@[simp] theorem modLane_handles : (s.modLane g l x).handles = s.handles := rfl
@[simp] theorem modLane_arrays : (s.modLane g l x).arrays = s.arrays := rfl
@[simp] theorem modLane_banks : (s.modLane g l x).banks = s.banks := rfl
@[simp] theorem modLane_rings : (s.modLane g l x).rings = s.rings := rfl
@[simp] theorem modLane_entries : (s.modLane g l x).entries = s.entries := rfl
@[simp] theorem modLane_recs : (s.modLane g l x).recs = s.recs := rfl
@[simp] theorem modLane_trays : (s.modLane g l x).trays = s.trays := rfl
@[simp] theorem modLane_opers : (s.modLane g l x).opers = s.opers := rfl
@[simp] theorem modLane_descs : (s.modLane g l x).descs = s.descs := rfl
@[simp] theorem modLane_hlb : (s.modLane g l x).hlb = s.hlb := rfl
@[simp] theorem modLane_ctc : (s.modLane g l x).ctc = s.ctc := rfl
@[simp] theorem modLane_faultRecs : (s.modLane g l x).faultRecs = s.faultRecs := rfl
@[simp] theorem modLane_lbars : (s.modLane g l x).lbars = s.lbars := rfl
@[simp] theorem modLane_census : (s.modLane g l x).census = s.census := rfl
@[simp] theorem modLane_tiers : (s.modLane g l x).tiers = s.tiers := rfl
@[simp] theorem modLane_dead : (s.modLane g l x).dead = s.dead := rfl
@[simp] theorem modLane_counts : (s.modLane g l x).counts = s.counts := rfl
@[simp] theorem modLane_repls : (s.modLane g l x).repls = s.repls := rfl
@[simp] theorem modLane_slices : (s.modLane g l x).slices = s.slices := rfl
@[simp] theorem modLane_slovf : (s.modLane g l x).slovf = s.slovf := rfl
@[simp] theorem modLane_traces : (s.modLane g l x).traces = s.traces := rfl
@[simp] theorem modLane_powers : (s.modLane g l x).powers = s.powers := rfl
@[simp] theorem modLane_tests : (s.modLane g l x).tests = s.tests := rfl
@[simp] theorem modLane_bad : (s.modLane g l x).bad = s.bad := rfl
@[simp] theorem modLane_dies : (s.modLane g l x).dies = s.dies := rfl
@[simp] theorem modLane_pkgs : (s.modLane g l x).pkgs = s.pkgs := rfl
@[simp] theorem modLane_ctxs : (s.modLane g l x).ctxs = s.ctxs := rfl
@[simp] theorem modLane_jobs : (s.modLane g l x).jobs = s.jobs := rfl
@[simp] theorem modLane_raises : (s.modLane g l x).raises = s.raises := rfl
@[simp] theorem modLane_queues : (s.modLane g l x).queues = s.queues := rfl
@[simp] theorem modLane_msgs : (s.modLane g l x).msgs = s.msgs := rfl
@[simp] theorem modLane_sigs : (s.modLane g l x).sigs = s.sigs := rfl
@[simp] theorem modLane_accs : (s.modLane g l x).accs = s.accs := rfl
@[simp] theorem modLane_cmds : (s.modLane g l x).cmds = s.cmds := rfl
@[simp] theorem modLane_mem : (s.modLane g l x).mem = s.mem := rfl
@[simp] theorem modLane_stamps : (s.modLane g l x).stamps = s.stamps := rfl
@[simp] theorem modLane_hostMem : (s.modLane g l x).hostMem = s.hostMem := rfl
@[simp] theorem modLane_hostReply : (s.modLane g l x).hostReply = s.hostReply := rfl
@[simp] theorem modLane_l1sets : (s.modLane g l x).l1sets = s.l1sets := rfl
@[simp] theorem modLane_l1pred : (s.modLane g l x).l1pred = s.l1pred := rfl
@[simp] theorem modLane_rights : (s.modLane g l x).rights = s.rights := rfl
@[simp] theorem modLane_aborts : (s.modLane g l x).aborts = s.aborts := rfl
@[simp] theorem modLane_l2 : (s.modLane g l x).l2 = s.l2 := rfl
@[simp] theorem modLane_bankQs : (s.modLane g l x).bankQs = s.bankQs := rfl
end

/-! ### onLanes -/

section
variable (s : State) (g : Nat) (ls : List Nat) (x : Nat → Lane → Lane)
@[simp] theorem onLanes_agenda : (s.onLanes g ls x).agenda = s.agenda := rfl
@[simp] theorem onLanes_inputs : (s.onLanes g ls x).inputs = s.inputs := rfl
@[simp] theorem onLanes_tick : (s.onLanes g ls x).tick = s.tick := rfl
@[simp] theorem onLanes_nextId : (s.onLanes g ls x).nextId = s.nextId := rfl
@[simp] theorem onLanes_cycle : (s.onLanes g ls x).cycle = s.cycle := rfl
@[simp] theorem onLanes_vregs : (s.onLanes g ls x).vregs = s.vregs := rfl
@[simp] theorem onLanes_sregs : (s.onLanes g ls x).sregs = s.sregs := rfl
@[simp] theorem onLanes_dirtyBanks : (s.onLanes g ls x).dirtyBanks = s.dirtyBanks := rfl
@[simp] theorem onLanes_dirtyLines : (s.onLanes g ls x).dirtyLines = s.dirtyLines := rfl
@[simp] theorem onLanes_groups : (s.onLanes g ls x).groups = s.groups := rfl
@[simp] theorem onLanes_teams : (s.onLanes g ls x).teams = s.teams := rfl
@[simp] theorem onLanes_wins : (s.onLanes g ls x).wins = s.wins := rfl
@[simp] theorem onLanes_stash : (s.onLanes g ls x).stash = s.stash := rfl
@[simp] theorem onLanes_sems : (s.onLanes g ls x).sems = s.sems := rfl
@[simp] theorem onLanes_grants : (s.onLanes g ls x).grants = s.grants := rfl
@[simp] theorem onLanes_l1 : (s.onLanes g ls x).l1 = s.l1 := rfl
@[simp] theorem onLanes_wbFails : (s.onLanes g ls x).wbFails = s.wbFails := rfl
@[simp] theorem onLanes_store : (s.onLanes g ls x).store = s.store := rfl
@[simp] theorem onLanes_credits : (s.onLanes g ls x).credits = s.credits := rfl
@[simp] theorem onLanes_lastSlot : (s.onLanes g ls x).lastSlot = s.lastSlot := rfl
@[simp] theorem onLanes_pmcs : (s.onLanes g ls x).pmcs = s.pmcs := rfl
@[simp] theorem onLanes_chans : (s.onLanes g ls x).chans = s.chans := rfl
@[simp] theorem onLanes_opmem : (s.onLanes g ls x).opmem = s.opmem := rfl
@[simp] theorem onLanes_heads : (s.onLanes g ls x).heads = s.heads := rfl
@[simp] theorem onLanes_handles : (s.onLanes g ls x).handles = s.handles := rfl
@[simp] theorem onLanes_arrays : (s.onLanes g ls x).arrays = s.arrays := rfl
@[simp] theorem onLanes_banks : (s.onLanes g ls x).banks = s.banks := rfl
@[simp] theorem onLanes_rings : (s.onLanes g ls x).rings = s.rings := rfl
@[simp] theorem onLanes_entries : (s.onLanes g ls x).entries = s.entries := rfl
@[simp] theorem onLanes_recs : (s.onLanes g ls x).recs = s.recs := rfl
@[simp] theorem onLanes_trays : (s.onLanes g ls x).trays = s.trays := rfl
@[simp] theorem onLanes_opers : (s.onLanes g ls x).opers = s.opers := rfl
@[simp] theorem onLanes_descs : (s.onLanes g ls x).descs = s.descs := rfl
@[simp] theorem onLanes_hlb : (s.onLanes g ls x).hlb = s.hlb := rfl
@[simp] theorem onLanes_ctc : (s.onLanes g ls x).ctc = s.ctc := rfl
@[simp] theorem onLanes_faultRecs : (s.onLanes g ls x).faultRecs = s.faultRecs := rfl
@[simp] theorem onLanes_lbars : (s.onLanes g ls x).lbars = s.lbars := rfl
@[simp] theorem onLanes_census : (s.onLanes g ls x).census = s.census := rfl
@[simp] theorem onLanes_tiers : (s.onLanes g ls x).tiers = s.tiers := rfl
@[simp] theorem onLanes_dead : (s.onLanes g ls x).dead = s.dead := rfl
@[simp] theorem onLanes_counts : (s.onLanes g ls x).counts = s.counts := rfl
@[simp] theorem onLanes_repls : (s.onLanes g ls x).repls = s.repls := rfl
@[simp] theorem onLanes_slices : (s.onLanes g ls x).slices = s.slices := rfl
@[simp] theorem onLanes_slovf : (s.onLanes g ls x).slovf = s.slovf := rfl
@[simp] theorem onLanes_traces : (s.onLanes g ls x).traces = s.traces := rfl
@[simp] theorem onLanes_powers : (s.onLanes g ls x).powers = s.powers := rfl
@[simp] theorem onLanes_tests : (s.onLanes g ls x).tests = s.tests := rfl
@[simp] theorem onLanes_bad : (s.onLanes g ls x).bad = s.bad := rfl
@[simp] theorem onLanes_dies : (s.onLanes g ls x).dies = s.dies := rfl
@[simp] theorem onLanes_pkgs : (s.onLanes g ls x).pkgs = s.pkgs := rfl
@[simp] theorem onLanes_ctxs : (s.onLanes g ls x).ctxs = s.ctxs := rfl
@[simp] theorem onLanes_jobs : (s.onLanes g ls x).jobs = s.jobs := rfl
@[simp] theorem onLanes_raises : (s.onLanes g ls x).raises = s.raises := rfl
@[simp] theorem onLanes_queues : (s.onLanes g ls x).queues = s.queues := rfl
@[simp] theorem onLanes_msgs : (s.onLanes g ls x).msgs = s.msgs := rfl
@[simp] theorem onLanes_sigs : (s.onLanes g ls x).sigs = s.sigs := rfl
@[simp] theorem onLanes_accs : (s.onLanes g ls x).accs = s.accs := rfl
@[simp] theorem onLanes_cmds : (s.onLanes g ls x).cmds = s.cmds := rfl
@[simp] theorem onLanes_mem : (s.onLanes g ls x).mem = s.mem := rfl
@[simp] theorem onLanes_stamps : (s.onLanes g ls x).stamps = s.stamps := rfl
@[simp] theorem onLanes_hostMem : (s.onLanes g ls x).hostMem = s.hostMem := rfl
@[simp] theorem onLanes_hostReply : (s.onLanes g ls x).hostReply = s.hostReply := rfl
@[simp] theorem onLanes_l1sets : (s.onLanes g ls x).l1sets = s.l1sets := rfl
@[simp] theorem onLanes_l1pred : (s.onLanes g ls x).l1pred = s.l1pred := rfl
@[simp] theorem onLanes_rights : (s.onLanes g ls x).rights = s.rights := rfl
@[simp] theorem onLanes_aborts : (s.onLanes g ls x).aborts = s.aborts := rfl
@[simp] theorem onLanes_l2 : (s.onLanes g ls x).l2 = s.l2 := rfl
@[simp] theorem onLanes_bankQs : (s.onLanes g ls x).bankQs = s.bankQs := rfl
end

/-! ### setGrp -/

section
variable (s : State) (g : Nat) (x : Group)
@[simp] theorem setGrp_agenda : (s.setGrp g x).agenda = s.agenda := rfl
@[simp] theorem setGrp_inputs : (s.setGrp g x).inputs = s.inputs := rfl
@[simp] theorem setGrp_cur : (s.setGrp g x).cur = s.cur := rfl
@[simp] theorem setGrp_tick : (s.setGrp g x).tick = s.tick := rfl
@[simp] theorem setGrp_nextId : (s.setGrp g x).nextId = s.nextId := rfl
@[simp] theorem setGrp_cycle : (s.setGrp g x).cycle = s.cycle := rfl
@[simp] theorem setGrp_lanes : (s.setGrp g x).lanes = s.lanes := rfl
@[simp] theorem setGrp_vregs : (s.setGrp g x).vregs = s.vregs := rfl
@[simp] theorem setGrp_sregs : (s.setGrp g x).sregs = s.sregs := rfl
@[simp] theorem setGrp_dirtyBanks : (s.setGrp g x).dirtyBanks = s.dirtyBanks := rfl
@[simp] theorem setGrp_dirtyLines : (s.setGrp g x).dirtyLines = s.dirtyLines := rfl
@[simp] theorem setGrp_teams : (s.setGrp g x).teams = s.teams := rfl
@[simp] theorem setGrp_wins : (s.setGrp g x).wins = s.wins := rfl
@[simp] theorem setGrp_stash : (s.setGrp g x).stash = s.stash := rfl
@[simp] theorem setGrp_sems : (s.setGrp g x).sems = s.sems := rfl
@[simp] theorem setGrp_grants : (s.setGrp g x).grants = s.grants := rfl
@[simp] theorem setGrp_l1 : (s.setGrp g x).l1 = s.l1 := rfl
@[simp] theorem setGrp_wbFails : (s.setGrp g x).wbFails = s.wbFails := rfl
@[simp] theorem setGrp_store : (s.setGrp g x).store = s.store := rfl
@[simp] theorem setGrp_credits : (s.setGrp g x).credits = s.credits := rfl
@[simp] theorem setGrp_lastSlot : (s.setGrp g x).lastSlot = s.lastSlot := rfl
@[simp] theorem setGrp_pmcs : (s.setGrp g x).pmcs = s.pmcs := rfl
@[simp] theorem setGrp_chans : (s.setGrp g x).chans = s.chans := rfl
@[simp] theorem setGrp_opmem : (s.setGrp g x).opmem = s.opmem := rfl
@[simp] theorem setGrp_heads : (s.setGrp g x).heads = s.heads := rfl
@[simp] theorem setGrp_handles : (s.setGrp g x).handles = s.handles := rfl
@[simp] theorem setGrp_arrays : (s.setGrp g x).arrays = s.arrays := rfl
@[simp] theorem setGrp_banks : (s.setGrp g x).banks = s.banks := rfl
@[simp] theorem setGrp_rings : (s.setGrp g x).rings = s.rings := rfl
@[simp] theorem setGrp_entries : (s.setGrp g x).entries = s.entries := rfl
@[simp] theorem setGrp_recs : (s.setGrp g x).recs = s.recs := rfl
@[simp] theorem setGrp_trays : (s.setGrp g x).trays = s.trays := rfl
@[simp] theorem setGrp_opers : (s.setGrp g x).opers = s.opers := rfl
@[simp] theorem setGrp_descs : (s.setGrp g x).descs = s.descs := rfl
@[simp] theorem setGrp_hlb : (s.setGrp g x).hlb = s.hlb := rfl
@[simp] theorem setGrp_ctc : (s.setGrp g x).ctc = s.ctc := rfl
@[simp] theorem setGrp_faultRecs : (s.setGrp g x).faultRecs = s.faultRecs := rfl
@[simp] theorem setGrp_lbars : (s.setGrp g x).lbars = s.lbars := rfl
@[simp] theorem setGrp_census : (s.setGrp g x).census = s.census := rfl
@[simp] theorem setGrp_tiers : (s.setGrp g x).tiers = s.tiers := rfl
@[simp] theorem setGrp_dead : (s.setGrp g x).dead = s.dead := rfl
@[simp] theorem setGrp_counts : (s.setGrp g x).counts = s.counts := rfl
@[simp] theorem setGrp_repls : (s.setGrp g x).repls = s.repls := rfl
@[simp] theorem setGrp_slices : (s.setGrp g x).slices = s.slices := rfl
@[simp] theorem setGrp_slovf : (s.setGrp g x).slovf = s.slovf := rfl
@[simp] theorem setGrp_traces : (s.setGrp g x).traces = s.traces := rfl
@[simp] theorem setGrp_powers : (s.setGrp g x).powers = s.powers := rfl
@[simp] theorem setGrp_tests : (s.setGrp g x).tests = s.tests := rfl
@[simp] theorem setGrp_bad : (s.setGrp g x).bad = s.bad := rfl
@[simp] theorem setGrp_dies : (s.setGrp g x).dies = s.dies := rfl
@[simp] theorem setGrp_pkgs : (s.setGrp g x).pkgs = s.pkgs := rfl
@[simp] theorem setGrp_ctxs : (s.setGrp g x).ctxs = s.ctxs := rfl
@[simp] theorem setGrp_jobs : (s.setGrp g x).jobs = s.jobs := rfl
@[simp] theorem setGrp_raises : (s.setGrp g x).raises = s.raises := rfl
@[simp] theorem setGrp_queues : (s.setGrp g x).queues = s.queues := rfl
@[simp] theorem setGrp_msgs : (s.setGrp g x).msgs = s.msgs := rfl
@[simp] theorem setGrp_sigs : (s.setGrp g x).sigs = s.sigs := rfl
@[simp] theorem setGrp_accs : (s.setGrp g x).accs = s.accs := rfl
@[simp] theorem setGrp_cmds : (s.setGrp g x).cmds = s.cmds := rfl
@[simp] theorem setGrp_mem : (s.setGrp g x).mem = s.mem := rfl
@[simp] theorem setGrp_stamps : (s.setGrp g x).stamps = s.stamps := rfl
@[simp] theorem setGrp_hostMem : (s.setGrp g x).hostMem = s.hostMem := rfl
@[simp] theorem setGrp_hostReply : (s.setGrp g x).hostReply = s.hostReply := rfl
@[simp] theorem setGrp_l1sets : (s.setGrp g x).l1sets = s.l1sets := rfl
@[simp] theorem setGrp_l1pred : (s.setGrp g x).l1pred = s.l1pred := rfl
@[simp] theorem setGrp_rights : (s.setGrp g x).rights = s.rights := rfl
@[simp] theorem setGrp_aborts : (s.setGrp g x).aborts = s.aborts := rfl
@[simp] theorem setGrp_l2 : (s.setGrp g x).l2 = s.l2 := rfl
@[simp] theorem setGrp_bankQs : (s.setGrp g x).bankQs = s.bankQs := rfl
end

/-! ### modGrp -/

section
variable (s : State) (g : Nat) (x : Group → Group)
@[simp] theorem modGrp_agenda : (s.modGrp g x).agenda = s.agenda := rfl
@[simp] theorem modGrp_inputs : (s.modGrp g x).inputs = s.inputs := rfl
@[simp] theorem modGrp_cur : (s.modGrp g x).cur = s.cur := rfl
@[simp] theorem modGrp_tick : (s.modGrp g x).tick = s.tick := rfl
@[simp] theorem modGrp_nextId : (s.modGrp g x).nextId = s.nextId := rfl
@[simp] theorem modGrp_cycle : (s.modGrp g x).cycle = s.cycle := rfl
@[simp] theorem modGrp_lanes : (s.modGrp g x).lanes = s.lanes := rfl
@[simp] theorem modGrp_vregs : (s.modGrp g x).vregs = s.vregs := rfl
@[simp] theorem modGrp_sregs : (s.modGrp g x).sregs = s.sregs := rfl
@[simp] theorem modGrp_dirtyBanks : (s.modGrp g x).dirtyBanks = s.dirtyBanks := rfl
@[simp] theorem modGrp_dirtyLines : (s.modGrp g x).dirtyLines = s.dirtyLines := rfl
@[simp] theorem modGrp_teams : (s.modGrp g x).teams = s.teams := rfl
@[simp] theorem modGrp_wins : (s.modGrp g x).wins = s.wins := rfl
@[simp] theorem modGrp_stash : (s.modGrp g x).stash = s.stash := rfl
@[simp] theorem modGrp_sems : (s.modGrp g x).sems = s.sems := rfl
@[simp] theorem modGrp_grants : (s.modGrp g x).grants = s.grants := rfl
@[simp] theorem modGrp_l1 : (s.modGrp g x).l1 = s.l1 := rfl
@[simp] theorem modGrp_wbFails : (s.modGrp g x).wbFails = s.wbFails := rfl
@[simp] theorem modGrp_store : (s.modGrp g x).store = s.store := rfl
@[simp] theorem modGrp_credits : (s.modGrp g x).credits = s.credits := rfl
@[simp] theorem modGrp_lastSlot : (s.modGrp g x).lastSlot = s.lastSlot := rfl
@[simp] theorem modGrp_pmcs : (s.modGrp g x).pmcs = s.pmcs := rfl
@[simp] theorem modGrp_chans : (s.modGrp g x).chans = s.chans := rfl
@[simp] theorem modGrp_opmem : (s.modGrp g x).opmem = s.opmem := rfl
@[simp] theorem modGrp_heads : (s.modGrp g x).heads = s.heads := rfl
@[simp] theorem modGrp_handles : (s.modGrp g x).handles = s.handles := rfl
@[simp] theorem modGrp_arrays : (s.modGrp g x).arrays = s.arrays := rfl
@[simp] theorem modGrp_banks : (s.modGrp g x).banks = s.banks := rfl
@[simp] theorem modGrp_rings : (s.modGrp g x).rings = s.rings := rfl
@[simp] theorem modGrp_entries : (s.modGrp g x).entries = s.entries := rfl
@[simp] theorem modGrp_recs : (s.modGrp g x).recs = s.recs := rfl
@[simp] theorem modGrp_trays : (s.modGrp g x).trays = s.trays := rfl
@[simp] theorem modGrp_opers : (s.modGrp g x).opers = s.opers := rfl
@[simp] theorem modGrp_descs : (s.modGrp g x).descs = s.descs := rfl
@[simp] theorem modGrp_hlb : (s.modGrp g x).hlb = s.hlb := rfl
@[simp] theorem modGrp_ctc : (s.modGrp g x).ctc = s.ctc := rfl
@[simp] theorem modGrp_faultRecs : (s.modGrp g x).faultRecs = s.faultRecs := rfl
@[simp] theorem modGrp_lbars : (s.modGrp g x).lbars = s.lbars := rfl
@[simp] theorem modGrp_census : (s.modGrp g x).census = s.census := rfl
@[simp] theorem modGrp_tiers : (s.modGrp g x).tiers = s.tiers := rfl
@[simp] theorem modGrp_dead : (s.modGrp g x).dead = s.dead := rfl
@[simp] theorem modGrp_counts : (s.modGrp g x).counts = s.counts := rfl
@[simp] theorem modGrp_repls : (s.modGrp g x).repls = s.repls := rfl
@[simp] theorem modGrp_slices : (s.modGrp g x).slices = s.slices := rfl
@[simp] theorem modGrp_slovf : (s.modGrp g x).slovf = s.slovf := rfl
@[simp] theorem modGrp_traces : (s.modGrp g x).traces = s.traces := rfl
@[simp] theorem modGrp_powers : (s.modGrp g x).powers = s.powers := rfl
@[simp] theorem modGrp_tests : (s.modGrp g x).tests = s.tests := rfl
@[simp] theorem modGrp_bad : (s.modGrp g x).bad = s.bad := rfl
@[simp] theorem modGrp_dies : (s.modGrp g x).dies = s.dies := rfl
@[simp] theorem modGrp_pkgs : (s.modGrp g x).pkgs = s.pkgs := rfl
@[simp] theorem modGrp_ctxs : (s.modGrp g x).ctxs = s.ctxs := rfl
@[simp] theorem modGrp_jobs : (s.modGrp g x).jobs = s.jobs := rfl
@[simp] theorem modGrp_raises : (s.modGrp g x).raises = s.raises := rfl
@[simp] theorem modGrp_queues : (s.modGrp g x).queues = s.queues := rfl
@[simp] theorem modGrp_msgs : (s.modGrp g x).msgs = s.msgs := rfl
@[simp] theorem modGrp_sigs : (s.modGrp g x).sigs = s.sigs := rfl
@[simp] theorem modGrp_accs : (s.modGrp g x).accs = s.accs := rfl
@[simp] theorem modGrp_cmds : (s.modGrp g x).cmds = s.cmds := rfl
@[simp] theorem modGrp_mem : (s.modGrp g x).mem = s.mem := rfl
@[simp] theorem modGrp_stamps : (s.modGrp g x).stamps = s.stamps := rfl
@[simp] theorem modGrp_hostMem : (s.modGrp g x).hostMem = s.hostMem := rfl
@[simp] theorem modGrp_hostReply : (s.modGrp g x).hostReply = s.hostReply := rfl
@[simp] theorem modGrp_l1sets : (s.modGrp g x).l1sets = s.l1sets := rfl
@[simp] theorem modGrp_l1pred : (s.modGrp g x).l1pred = s.l1pred := rfl
@[simp] theorem modGrp_rights : (s.modGrp g x).rights = s.rights := rfl
@[simp] theorem modGrp_aborts : (s.modGrp g x).aborts = s.aborts := rfl
@[simp] theorem modGrp_l2 : (s.modGrp g x).l2 = s.l2 := rfl
@[simp] theorem modGrp_bankQs : (s.modGrp g x).bankQs = s.bankQs := rfl
end

/-! ### setEntry -/

section
variable (s : State) (e : Nat) (x : Entry)
@[simp] theorem setEntry_agenda : (s.setEntry e x).agenda = s.agenda := rfl
@[simp] theorem setEntry_inputs : (s.setEntry e x).inputs = s.inputs := rfl
@[simp] theorem setEntry_cur : (s.setEntry e x).cur = s.cur := rfl
@[simp] theorem setEntry_tick : (s.setEntry e x).tick = s.tick := rfl
@[simp] theorem setEntry_nextId : (s.setEntry e x).nextId = s.nextId := rfl
@[simp] theorem setEntry_cycle : (s.setEntry e x).cycle = s.cycle := rfl
@[simp] theorem setEntry_lanes : (s.setEntry e x).lanes = s.lanes := rfl
@[simp] theorem setEntry_vregs : (s.setEntry e x).vregs = s.vregs := rfl
@[simp] theorem setEntry_sregs : (s.setEntry e x).sregs = s.sregs := rfl
@[simp] theorem setEntry_dirtyBanks : (s.setEntry e x).dirtyBanks = s.dirtyBanks := rfl
@[simp] theorem setEntry_dirtyLines : (s.setEntry e x).dirtyLines = s.dirtyLines := rfl
@[simp] theorem setEntry_groups : (s.setEntry e x).groups = s.groups := rfl
@[simp] theorem setEntry_teams : (s.setEntry e x).teams = s.teams := rfl
@[simp] theorem setEntry_wins : (s.setEntry e x).wins = s.wins := rfl
@[simp] theorem setEntry_stash : (s.setEntry e x).stash = s.stash := rfl
@[simp] theorem setEntry_sems : (s.setEntry e x).sems = s.sems := rfl
@[simp] theorem setEntry_grants : (s.setEntry e x).grants = s.grants := rfl
@[simp] theorem setEntry_l1 : (s.setEntry e x).l1 = s.l1 := rfl
@[simp] theorem setEntry_wbFails : (s.setEntry e x).wbFails = s.wbFails := rfl
@[simp] theorem setEntry_store : (s.setEntry e x).store = s.store := rfl
@[simp] theorem setEntry_credits : (s.setEntry e x).credits = s.credits := rfl
@[simp] theorem setEntry_lastSlot : (s.setEntry e x).lastSlot = s.lastSlot := rfl
@[simp] theorem setEntry_pmcs : (s.setEntry e x).pmcs = s.pmcs := rfl
@[simp] theorem setEntry_chans : (s.setEntry e x).chans = s.chans := rfl
@[simp] theorem setEntry_opmem : (s.setEntry e x).opmem = s.opmem := rfl
@[simp] theorem setEntry_heads : (s.setEntry e x).heads = s.heads := rfl
@[simp] theorem setEntry_handles : (s.setEntry e x).handles = s.handles := rfl
@[simp] theorem setEntry_arrays : (s.setEntry e x).arrays = s.arrays := rfl
@[simp] theorem setEntry_banks : (s.setEntry e x).banks = s.banks := rfl
@[simp] theorem setEntry_rings : (s.setEntry e x).rings = s.rings := rfl
@[simp] theorem setEntry_recs : (s.setEntry e x).recs = s.recs := rfl
@[simp] theorem setEntry_trays : (s.setEntry e x).trays = s.trays := rfl
@[simp] theorem setEntry_opers : (s.setEntry e x).opers = s.opers := rfl
@[simp] theorem setEntry_descs : (s.setEntry e x).descs = s.descs := rfl
@[simp] theorem setEntry_hlb : (s.setEntry e x).hlb = s.hlb := rfl
@[simp] theorem setEntry_ctc : (s.setEntry e x).ctc = s.ctc := rfl
@[simp] theorem setEntry_faultRecs : (s.setEntry e x).faultRecs = s.faultRecs := rfl
@[simp] theorem setEntry_lbars : (s.setEntry e x).lbars = s.lbars := rfl
@[simp] theorem setEntry_census : (s.setEntry e x).census = s.census := rfl
@[simp] theorem setEntry_tiers : (s.setEntry e x).tiers = s.tiers := rfl
@[simp] theorem setEntry_dead : (s.setEntry e x).dead = s.dead := rfl
@[simp] theorem setEntry_counts : (s.setEntry e x).counts = s.counts := rfl
@[simp] theorem setEntry_repls : (s.setEntry e x).repls = s.repls := rfl
@[simp] theorem setEntry_slices : (s.setEntry e x).slices = s.slices := rfl
@[simp] theorem setEntry_slovf : (s.setEntry e x).slovf = s.slovf := rfl
@[simp] theorem setEntry_traces : (s.setEntry e x).traces = s.traces := rfl
@[simp] theorem setEntry_powers : (s.setEntry e x).powers = s.powers := rfl
@[simp] theorem setEntry_tests : (s.setEntry e x).tests = s.tests := rfl
@[simp] theorem setEntry_bad : (s.setEntry e x).bad = s.bad := rfl
@[simp] theorem setEntry_dies : (s.setEntry e x).dies = s.dies := rfl
@[simp] theorem setEntry_pkgs : (s.setEntry e x).pkgs = s.pkgs := rfl
@[simp] theorem setEntry_ctxs : (s.setEntry e x).ctxs = s.ctxs := rfl
@[simp] theorem setEntry_jobs : (s.setEntry e x).jobs = s.jobs := rfl
@[simp] theorem setEntry_raises : (s.setEntry e x).raises = s.raises := rfl
@[simp] theorem setEntry_queues : (s.setEntry e x).queues = s.queues := rfl
@[simp] theorem setEntry_msgs : (s.setEntry e x).msgs = s.msgs := rfl
@[simp] theorem setEntry_sigs : (s.setEntry e x).sigs = s.sigs := rfl
@[simp] theorem setEntry_accs : (s.setEntry e x).accs = s.accs := rfl
@[simp] theorem setEntry_cmds : (s.setEntry e x).cmds = s.cmds := rfl
@[simp] theorem setEntry_mem : (s.setEntry e x).mem = s.mem := rfl
@[simp] theorem setEntry_stamps : (s.setEntry e x).stamps = s.stamps := rfl
@[simp] theorem setEntry_hostMem : (s.setEntry e x).hostMem = s.hostMem := rfl
@[simp] theorem setEntry_hostReply : (s.setEntry e x).hostReply = s.hostReply := rfl
@[simp] theorem setEntry_l1sets : (s.setEntry e x).l1sets = s.l1sets := rfl
@[simp] theorem setEntry_l1pred : (s.setEntry e x).l1pred = s.l1pred := rfl
@[simp] theorem setEntry_rights : (s.setEntry e x).rights = s.rights := rfl
@[simp] theorem setEntry_aborts : (s.setEntry e x).aborts = s.aborts := rfl
@[simp] theorem setEntry_l2 : (s.setEntry e x).l2 = s.l2 := rfl
@[simp] theorem setEntry_bankQs : (s.setEntry e x).bankQs = s.bankQs := rfl
end

/-! ### modEntry -/

section
variable (s : State) (e : Nat) (x : Entry → Entry)
@[simp] theorem modEntry_agenda : (s.modEntry e x).agenda = s.agenda := rfl
@[simp] theorem modEntry_inputs : (s.modEntry e x).inputs = s.inputs := rfl
@[simp] theorem modEntry_cur : (s.modEntry e x).cur = s.cur := rfl
@[simp] theorem modEntry_tick : (s.modEntry e x).tick = s.tick := rfl
@[simp] theorem modEntry_nextId : (s.modEntry e x).nextId = s.nextId := rfl
@[simp] theorem modEntry_cycle : (s.modEntry e x).cycle = s.cycle := rfl
@[simp] theorem modEntry_lanes : (s.modEntry e x).lanes = s.lanes := rfl
@[simp] theorem modEntry_vregs : (s.modEntry e x).vregs = s.vregs := rfl
@[simp] theorem modEntry_sregs : (s.modEntry e x).sregs = s.sregs := rfl
@[simp] theorem modEntry_dirtyBanks : (s.modEntry e x).dirtyBanks = s.dirtyBanks := rfl
@[simp] theorem modEntry_dirtyLines : (s.modEntry e x).dirtyLines = s.dirtyLines := rfl
@[simp] theorem modEntry_groups : (s.modEntry e x).groups = s.groups := rfl
@[simp] theorem modEntry_teams : (s.modEntry e x).teams = s.teams := rfl
@[simp] theorem modEntry_wins : (s.modEntry e x).wins = s.wins := rfl
@[simp] theorem modEntry_stash : (s.modEntry e x).stash = s.stash := rfl
@[simp] theorem modEntry_sems : (s.modEntry e x).sems = s.sems := rfl
@[simp] theorem modEntry_grants : (s.modEntry e x).grants = s.grants := rfl
@[simp] theorem modEntry_l1 : (s.modEntry e x).l1 = s.l1 := rfl
@[simp] theorem modEntry_wbFails : (s.modEntry e x).wbFails = s.wbFails := rfl
@[simp] theorem modEntry_store : (s.modEntry e x).store = s.store := rfl
@[simp] theorem modEntry_credits : (s.modEntry e x).credits = s.credits := rfl
@[simp] theorem modEntry_lastSlot : (s.modEntry e x).lastSlot = s.lastSlot := rfl
@[simp] theorem modEntry_pmcs : (s.modEntry e x).pmcs = s.pmcs := rfl
@[simp] theorem modEntry_chans : (s.modEntry e x).chans = s.chans := rfl
@[simp] theorem modEntry_opmem : (s.modEntry e x).opmem = s.opmem := rfl
@[simp] theorem modEntry_heads : (s.modEntry e x).heads = s.heads := rfl
@[simp] theorem modEntry_handles : (s.modEntry e x).handles = s.handles := rfl
@[simp] theorem modEntry_arrays : (s.modEntry e x).arrays = s.arrays := rfl
@[simp] theorem modEntry_banks : (s.modEntry e x).banks = s.banks := rfl
@[simp] theorem modEntry_rings : (s.modEntry e x).rings = s.rings := rfl
@[simp] theorem modEntry_recs : (s.modEntry e x).recs = s.recs := rfl
@[simp] theorem modEntry_trays : (s.modEntry e x).trays = s.trays := rfl
@[simp] theorem modEntry_opers : (s.modEntry e x).opers = s.opers := rfl
@[simp] theorem modEntry_descs : (s.modEntry e x).descs = s.descs := rfl
@[simp] theorem modEntry_hlb : (s.modEntry e x).hlb = s.hlb := rfl
@[simp] theorem modEntry_ctc : (s.modEntry e x).ctc = s.ctc := rfl
@[simp] theorem modEntry_faultRecs : (s.modEntry e x).faultRecs = s.faultRecs := rfl
@[simp] theorem modEntry_lbars : (s.modEntry e x).lbars = s.lbars := rfl
@[simp] theorem modEntry_census : (s.modEntry e x).census = s.census := rfl
@[simp] theorem modEntry_tiers : (s.modEntry e x).tiers = s.tiers := rfl
@[simp] theorem modEntry_dead : (s.modEntry e x).dead = s.dead := rfl
@[simp] theorem modEntry_counts : (s.modEntry e x).counts = s.counts := rfl
@[simp] theorem modEntry_repls : (s.modEntry e x).repls = s.repls := rfl
@[simp] theorem modEntry_slices : (s.modEntry e x).slices = s.slices := rfl
@[simp] theorem modEntry_slovf : (s.modEntry e x).slovf = s.slovf := rfl
@[simp] theorem modEntry_traces : (s.modEntry e x).traces = s.traces := rfl
@[simp] theorem modEntry_powers : (s.modEntry e x).powers = s.powers := rfl
@[simp] theorem modEntry_tests : (s.modEntry e x).tests = s.tests := rfl
@[simp] theorem modEntry_bad : (s.modEntry e x).bad = s.bad := rfl
@[simp] theorem modEntry_dies : (s.modEntry e x).dies = s.dies := rfl
@[simp] theorem modEntry_pkgs : (s.modEntry e x).pkgs = s.pkgs := rfl
@[simp] theorem modEntry_ctxs : (s.modEntry e x).ctxs = s.ctxs := rfl
@[simp] theorem modEntry_jobs : (s.modEntry e x).jobs = s.jobs := rfl
@[simp] theorem modEntry_raises : (s.modEntry e x).raises = s.raises := rfl
@[simp] theorem modEntry_queues : (s.modEntry e x).queues = s.queues := rfl
@[simp] theorem modEntry_msgs : (s.modEntry e x).msgs = s.msgs := rfl
@[simp] theorem modEntry_sigs : (s.modEntry e x).sigs = s.sigs := rfl
@[simp] theorem modEntry_accs : (s.modEntry e x).accs = s.accs := rfl
@[simp] theorem modEntry_cmds : (s.modEntry e x).cmds = s.cmds := rfl
@[simp] theorem modEntry_mem : (s.modEntry e x).mem = s.mem := rfl
@[simp] theorem modEntry_stamps : (s.modEntry e x).stamps = s.stamps := rfl
@[simp] theorem modEntry_hostMem : (s.modEntry e x).hostMem = s.hostMem := rfl
@[simp] theorem modEntry_hostReply : (s.modEntry e x).hostReply = s.hostReply := rfl
@[simp] theorem modEntry_l1sets : (s.modEntry e x).l1sets = s.l1sets := rfl
@[simp] theorem modEntry_l1pred : (s.modEntry e x).l1pred = s.l1pred := rfl
@[simp] theorem modEntry_rights : (s.modEntry e x).rights = s.rights := rfl
@[simp] theorem modEntry_aborts : (s.modEntry e x).aborts = s.aborts := rfl
@[simp] theorem modEntry_l2 : (s.modEntry e x).l2 = s.l2 := rfl
@[simp] theorem modEntry_bankQs : (s.modEntry e x).bankQs = s.bankQs := rfl
end

/-! ### modDie -/

section
variable (s : State) (d : Nat) (x : Die → Die)
@[simp] theorem modDie_agenda : (s.modDie d x).agenda = s.agenda := rfl
@[simp] theorem modDie_inputs : (s.modDie d x).inputs = s.inputs := rfl
@[simp] theorem modDie_cur : (s.modDie d x).cur = s.cur := rfl
@[simp] theorem modDie_tick : (s.modDie d x).tick = s.tick := rfl
@[simp] theorem modDie_nextId : (s.modDie d x).nextId = s.nextId := rfl
@[simp] theorem modDie_cycle : (s.modDie d x).cycle = s.cycle := rfl
@[simp] theorem modDie_lanes : (s.modDie d x).lanes = s.lanes := rfl
@[simp] theorem modDie_vregs : (s.modDie d x).vregs = s.vregs := rfl
@[simp] theorem modDie_sregs : (s.modDie d x).sregs = s.sregs := rfl
@[simp] theorem modDie_dirtyBanks : (s.modDie d x).dirtyBanks = s.dirtyBanks := rfl
@[simp] theorem modDie_dirtyLines : (s.modDie d x).dirtyLines = s.dirtyLines := rfl
@[simp] theorem modDie_groups : (s.modDie d x).groups = s.groups := rfl
@[simp] theorem modDie_teams : (s.modDie d x).teams = s.teams := rfl
@[simp] theorem modDie_wins : (s.modDie d x).wins = s.wins := rfl
@[simp] theorem modDie_stash : (s.modDie d x).stash = s.stash := rfl
@[simp] theorem modDie_sems : (s.modDie d x).sems = s.sems := rfl
@[simp] theorem modDie_grants : (s.modDie d x).grants = s.grants := rfl
@[simp] theorem modDie_l1 : (s.modDie d x).l1 = s.l1 := rfl
@[simp] theorem modDie_wbFails : (s.modDie d x).wbFails = s.wbFails := rfl
@[simp] theorem modDie_store : (s.modDie d x).store = s.store := rfl
@[simp] theorem modDie_credits : (s.modDie d x).credits = s.credits := rfl
@[simp] theorem modDie_lastSlot : (s.modDie d x).lastSlot = s.lastSlot := rfl
@[simp] theorem modDie_pmcs : (s.modDie d x).pmcs = s.pmcs := rfl
@[simp] theorem modDie_chans : (s.modDie d x).chans = s.chans := rfl
@[simp] theorem modDie_opmem : (s.modDie d x).opmem = s.opmem := rfl
@[simp] theorem modDie_heads : (s.modDie d x).heads = s.heads := rfl
@[simp] theorem modDie_handles : (s.modDie d x).handles = s.handles := rfl
@[simp] theorem modDie_arrays : (s.modDie d x).arrays = s.arrays := rfl
@[simp] theorem modDie_banks : (s.modDie d x).banks = s.banks := rfl
@[simp] theorem modDie_rings : (s.modDie d x).rings = s.rings := rfl
@[simp] theorem modDie_entries : (s.modDie d x).entries = s.entries := rfl
@[simp] theorem modDie_recs : (s.modDie d x).recs = s.recs := rfl
@[simp] theorem modDie_trays : (s.modDie d x).trays = s.trays := rfl
@[simp] theorem modDie_opers : (s.modDie d x).opers = s.opers := rfl
@[simp] theorem modDie_descs : (s.modDie d x).descs = s.descs := rfl
@[simp] theorem modDie_hlb : (s.modDie d x).hlb = s.hlb := rfl
@[simp] theorem modDie_ctc : (s.modDie d x).ctc = s.ctc := rfl
@[simp] theorem modDie_faultRecs : (s.modDie d x).faultRecs = s.faultRecs := rfl
@[simp] theorem modDie_lbars : (s.modDie d x).lbars = s.lbars := rfl
@[simp] theorem modDie_census : (s.modDie d x).census = s.census := rfl
@[simp] theorem modDie_tiers : (s.modDie d x).tiers = s.tiers := rfl
@[simp] theorem modDie_dead : (s.modDie d x).dead = s.dead := rfl
@[simp] theorem modDie_counts : (s.modDie d x).counts = s.counts := rfl
@[simp] theorem modDie_repls : (s.modDie d x).repls = s.repls := rfl
@[simp] theorem modDie_slices : (s.modDie d x).slices = s.slices := rfl
@[simp] theorem modDie_slovf : (s.modDie d x).slovf = s.slovf := rfl
@[simp] theorem modDie_traces : (s.modDie d x).traces = s.traces := rfl
@[simp] theorem modDie_powers : (s.modDie d x).powers = s.powers := rfl
@[simp] theorem modDie_tests : (s.modDie d x).tests = s.tests := rfl
@[simp] theorem modDie_bad : (s.modDie d x).bad = s.bad := rfl
@[simp] theorem modDie_pkgs : (s.modDie d x).pkgs = s.pkgs := rfl
@[simp] theorem modDie_ctxs : (s.modDie d x).ctxs = s.ctxs := rfl
@[simp] theorem modDie_jobs : (s.modDie d x).jobs = s.jobs := rfl
@[simp] theorem modDie_raises : (s.modDie d x).raises = s.raises := rfl
@[simp] theorem modDie_queues : (s.modDie d x).queues = s.queues := rfl
@[simp] theorem modDie_msgs : (s.modDie d x).msgs = s.msgs := rfl
@[simp] theorem modDie_sigs : (s.modDie d x).sigs = s.sigs := rfl
@[simp] theorem modDie_accs : (s.modDie d x).accs = s.accs := rfl
@[simp] theorem modDie_cmds : (s.modDie d x).cmds = s.cmds := rfl
@[simp] theorem modDie_mem : (s.modDie d x).mem = s.mem := rfl
@[simp] theorem modDie_stamps : (s.modDie d x).stamps = s.stamps := rfl
@[simp] theorem modDie_hostMem : (s.modDie d x).hostMem = s.hostMem := rfl
@[simp] theorem modDie_hostReply : (s.modDie d x).hostReply = s.hostReply := rfl
@[simp] theorem modDie_l1sets : (s.modDie d x).l1sets = s.l1sets := rfl
@[simp] theorem modDie_l1pred : (s.modDie d x).l1pred = s.l1pred := rfl
@[simp] theorem modDie_rights : (s.modDie d x).rights = s.rights := rfl
@[simp] theorem modDie_aborts : (s.modDie d x).aborts = s.aborts := rfl
@[simp] theorem modDie_l2 : (s.modDie d x).l2 = s.l2 := rfl
@[simp] theorem modDie_bankQs : (s.modDie d x).bankQs = s.bankQs := rfl
end

/-! ### modPkg -/

section
variable (s : State) (p : Nat) (x : Pkg → Pkg)
@[simp] theorem modPkg_agenda : (s.modPkg p x).agenda = s.agenda := rfl
@[simp] theorem modPkg_inputs : (s.modPkg p x).inputs = s.inputs := rfl
@[simp] theorem modPkg_cur : (s.modPkg p x).cur = s.cur := rfl
@[simp] theorem modPkg_tick : (s.modPkg p x).tick = s.tick := rfl
@[simp] theorem modPkg_nextId : (s.modPkg p x).nextId = s.nextId := rfl
@[simp] theorem modPkg_cycle : (s.modPkg p x).cycle = s.cycle := rfl
@[simp] theorem modPkg_lanes : (s.modPkg p x).lanes = s.lanes := rfl
@[simp] theorem modPkg_vregs : (s.modPkg p x).vregs = s.vregs := rfl
@[simp] theorem modPkg_sregs : (s.modPkg p x).sregs = s.sregs := rfl
@[simp] theorem modPkg_dirtyBanks : (s.modPkg p x).dirtyBanks = s.dirtyBanks := rfl
@[simp] theorem modPkg_dirtyLines : (s.modPkg p x).dirtyLines = s.dirtyLines := rfl
@[simp] theorem modPkg_groups : (s.modPkg p x).groups = s.groups := rfl
@[simp] theorem modPkg_teams : (s.modPkg p x).teams = s.teams := rfl
@[simp] theorem modPkg_wins : (s.modPkg p x).wins = s.wins := rfl
@[simp] theorem modPkg_stash : (s.modPkg p x).stash = s.stash := rfl
@[simp] theorem modPkg_sems : (s.modPkg p x).sems = s.sems := rfl
@[simp] theorem modPkg_grants : (s.modPkg p x).grants = s.grants := rfl
@[simp] theorem modPkg_l1 : (s.modPkg p x).l1 = s.l1 := rfl
@[simp] theorem modPkg_wbFails : (s.modPkg p x).wbFails = s.wbFails := rfl
@[simp] theorem modPkg_store : (s.modPkg p x).store = s.store := rfl
@[simp] theorem modPkg_credits : (s.modPkg p x).credits = s.credits := rfl
@[simp] theorem modPkg_lastSlot : (s.modPkg p x).lastSlot = s.lastSlot := rfl
@[simp] theorem modPkg_pmcs : (s.modPkg p x).pmcs = s.pmcs := rfl
@[simp] theorem modPkg_chans : (s.modPkg p x).chans = s.chans := rfl
@[simp] theorem modPkg_opmem : (s.modPkg p x).opmem = s.opmem := rfl
@[simp] theorem modPkg_heads : (s.modPkg p x).heads = s.heads := rfl
@[simp] theorem modPkg_handles : (s.modPkg p x).handles = s.handles := rfl
@[simp] theorem modPkg_arrays : (s.modPkg p x).arrays = s.arrays := rfl
@[simp] theorem modPkg_banks : (s.modPkg p x).banks = s.banks := rfl
@[simp] theorem modPkg_rings : (s.modPkg p x).rings = s.rings := rfl
@[simp] theorem modPkg_entries : (s.modPkg p x).entries = s.entries := rfl
@[simp] theorem modPkg_recs : (s.modPkg p x).recs = s.recs := rfl
@[simp] theorem modPkg_trays : (s.modPkg p x).trays = s.trays := rfl
@[simp] theorem modPkg_opers : (s.modPkg p x).opers = s.opers := rfl
@[simp] theorem modPkg_descs : (s.modPkg p x).descs = s.descs := rfl
@[simp] theorem modPkg_hlb : (s.modPkg p x).hlb = s.hlb := rfl
@[simp] theorem modPkg_ctc : (s.modPkg p x).ctc = s.ctc := rfl
@[simp] theorem modPkg_faultRecs : (s.modPkg p x).faultRecs = s.faultRecs := rfl
@[simp] theorem modPkg_lbars : (s.modPkg p x).lbars = s.lbars := rfl
@[simp] theorem modPkg_census : (s.modPkg p x).census = s.census := rfl
@[simp] theorem modPkg_tiers : (s.modPkg p x).tiers = s.tiers := rfl
@[simp] theorem modPkg_dead : (s.modPkg p x).dead = s.dead := rfl
@[simp] theorem modPkg_counts : (s.modPkg p x).counts = s.counts := rfl
@[simp] theorem modPkg_repls : (s.modPkg p x).repls = s.repls := rfl
@[simp] theorem modPkg_slices : (s.modPkg p x).slices = s.slices := rfl
@[simp] theorem modPkg_slovf : (s.modPkg p x).slovf = s.slovf := rfl
@[simp] theorem modPkg_traces : (s.modPkg p x).traces = s.traces := rfl
@[simp] theorem modPkg_powers : (s.modPkg p x).powers = s.powers := rfl
@[simp] theorem modPkg_tests : (s.modPkg p x).tests = s.tests := rfl
@[simp] theorem modPkg_bad : (s.modPkg p x).bad = s.bad := rfl
@[simp] theorem modPkg_dies : (s.modPkg p x).dies = s.dies := rfl
@[simp] theorem modPkg_ctxs : (s.modPkg p x).ctxs = s.ctxs := rfl
@[simp] theorem modPkg_jobs : (s.modPkg p x).jobs = s.jobs := rfl
@[simp] theorem modPkg_raises : (s.modPkg p x).raises = s.raises := rfl
@[simp] theorem modPkg_queues : (s.modPkg p x).queues = s.queues := rfl
@[simp] theorem modPkg_msgs : (s.modPkg p x).msgs = s.msgs := rfl
@[simp] theorem modPkg_sigs : (s.modPkg p x).sigs = s.sigs := rfl
@[simp] theorem modPkg_accs : (s.modPkg p x).accs = s.accs := rfl
@[simp] theorem modPkg_cmds : (s.modPkg p x).cmds = s.cmds := rfl
@[simp] theorem modPkg_mem : (s.modPkg p x).mem = s.mem := rfl
@[simp] theorem modPkg_stamps : (s.modPkg p x).stamps = s.stamps := rfl
@[simp] theorem modPkg_hostMem : (s.modPkg p x).hostMem = s.hostMem := rfl
@[simp] theorem modPkg_hostReply : (s.modPkg p x).hostReply = s.hostReply := rfl
@[simp] theorem modPkg_l1sets : (s.modPkg p x).l1sets = s.l1sets := rfl
@[simp] theorem modPkg_l1pred : (s.modPkg p x).l1pred = s.l1pred := rfl
@[simp] theorem modPkg_rights : (s.modPkg p x).rights = s.rights := rfl
@[simp] theorem modPkg_aborts : (s.modPkg p x).aborts = s.aborts := rfl
@[simp] theorem modPkg_l2 : (s.modPkg p x).l2 = s.l2 := rfl
@[simp] theorem modPkg_bankQs : (s.modPkg p x).bankQs = s.bankQs := rfl
end

/-! ### setSem -/

section
variable (s : State) (ck e : Nat) (x : Sem)
@[simp] theorem setSem_agenda : (s.setSem ck e x).agenda = s.agenda := rfl
@[simp] theorem setSem_inputs : (s.setSem ck e x).inputs = s.inputs := rfl
@[simp] theorem setSem_cur : (s.setSem ck e x).cur = s.cur := rfl
@[simp] theorem setSem_tick : (s.setSem ck e x).tick = s.tick := rfl
@[simp] theorem setSem_nextId : (s.setSem ck e x).nextId = s.nextId := rfl
@[simp] theorem setSem_cycle : (s.setSem ck e x).cycle = s.cycle := rfl
@[simp] theorem setSem_lanes : (s.setSem ck e x).lanes = s.lanes := rfl
@[simp] theorem setSem_vregs : (s.setSem ck e x).vregs = s.vregs := rfl
@[simp] theorem setSem_sregs : (s.setSem ck e x).sregs = s.sregs := rfl
@[simp] theorem setSem_dirtyBanks : (s.setSem ck e x).dirtyBanks = s.dirtyBanks := rfl
@[simp] theorem setSem_dirtyLines : (s.setSem ck e x).dirtyLines = s.dirtyLines := rfl
@[simp] theorem setSem_groups : (s.setSem ck e x).groups = s.groups := rfl
@[simp] theorem setSem_teams : (s.setSem ck e x).teams = s.teams := rfl
@[simp] theorem setSem_wins : (s.setSem ck e x).wins = s.wins := rfl
@[simp] theorem setSem_stash : (s.setSem ck e x).stash = s.stash := rfl
@[simp] theorem setSem_grants : (s.setSem ck e x).grants = s.grants := rfl
@[simp] theorem setSem_l1 : (s.setSem ck e x).l1 = s.l1 := rfl
@[simp] theorem setSem_wbFails : (s.setSem ck e x).wbFails = s.wbFails := rfl
@[simp] theorem setSem_store : (s.setSem ck e x).store = s.store := rfl
@[simp] theorem setSem_credits : (s.setSem ck e x).credits = s.credits := rfl
@[simp] theorem setSem_lastSlot : (s.setSem ck e x).lastSlot = s.lastSlot := rfl
@[simp] theorem setSem_pmcs : (s.setSem ck e x).pmcs = s.pmcs := rfl
@[simp] theorem setSem_chans : (s.setSem ck e x).chans = s.chans := rfl
@[simp] theorem setSem_opmem : (s.setSem ck e x).opmem = s.opmem := rfl
@[simp] theorem setSem_heads : (s.setSem ck e x).heads = s.heads := rfl
@[simp] theorem setSem_handles : (s.setSem ck e x).handles = s.handles := rfl
@[simp] theorem setSem_arrays : (s.setSem ck e x).arrays = s.arrays := rfl
@[simp] theorem setSem_banks : (s.setSem ck e x).banks = s.banks := rfl
@[simp] theorem setSem_rings : (s.setSem ck e x).rings = s.rings := rfl
@[simp] theorem setSem_entries : (s.setSem ck e x).entries = s.entries := rfl
@[simp] theorem setSem_recs : (s.setSem ck e x).recs = s.recs := rfl
@[simp] theorem setSem_trays : (s.setSem ck e x).trays = s.trays := rfl
@[simp] theorem setSem_opers : (s.setSem ck e x).opers = s.opers := rfl
@[simp] theorem setSem_descs : (s.setSem ck e x).descs = s.descs := rfl
@[simp] theorem setSem_hlb : (s.setSem ck e x).hlb = s.hlb := rfl
@[simp] theorem setSem_ctc : (s.setSem ck e x).ctc = s.ctc := rfl
@[simp] theorem setSem_faultRecs : (s.setSem ck e x).faultRecs = s.faultRecs := rfl
@[simp] theorem setSem_lbars : (s.setSem ck e x).lbars = s.lbars := rfl
@[simp] theorem setSem_census : (s.setSem ck e x).census = s.census := rfl
@[simp] theorem setSem_tiers : (s.setSem ck e x).tiers = s.tiers := rfl
@[simp] theorem setSem_dead : (s.setSem ck e x).dead = s.dead := rfl
@[simp] theorem setSem_counts : (s.setSem ck e x).counts = s.counts := rfl
@[simp] theorem setSem_repls : (s.setSem ck e x).repls = s.repls := rfl
@[simp] theorem setSem_slices : (s.setSem ck e x).slices = s.slices := rfl
@[simp] theorem setSem_slovf : (s.setSem ck e x).slovf = s.slovf := rfl
@[simp] theorem setSem_traces : (s.setSem ck e x).traces = s.traces := rfl
@[simp] theorem setSem_powers : (s.setSem ck e x).powers = s.powers := rfl
@[simp] theorem setSem_tests : (s.setSem ck e x).tests = s.tests := rfl
@[simp] theorem setSem_bad : (s.setSem ck e x).bad = s.bad := rfl
@[simp] theorem setSem_dies : (s.setSem ck e x).dies = s.dies := rfl
@[simp] theorem setSem_pkgs : (s.setSem ck e x).pkgs = s.pkgs := rfl
@[simp] theorem setSem_ctxs : (s.setSem ck e x).ctxs = s.ctxs := rfl
@[simp] theorem setSem_jobs : (s.setSem ck e x).jobs = s.jobs := rfl
@[simp] theorem setSem_raises : (s.setSem ck e x).raises = s.raises := rfl
@[simp] theorem setSem_queues : (s.setSem ck e x).queues = s.queues := rfl
@[simp] theorem setSem_msgs : (s.setSem ck e x).msgs = s.msgs := rfl
@[simp] theorem setSem_sigs : (s.setSem ck e x).sigs = s.sigs := rfl
@[simp] theorem setSem_accs : (s.setSem ck e x).accs = s.accs := rfl
@[simp] theorem setSem_cmds : (s.setSem ck e x).cmds = s.cmds := rfl
@[simp] theorem setSem_mem : (s.setSem ck e x).mem = s.mem := rfl
@[simp] theorem setSem_stamps : (s.setSem ck e x).stamps = s.stamps := rfl
@[simp] theorem setSem_hostMem : (s.setSem ck e x).hostMem = s.hostMem := rfl
@[simp] theorem setSem_hostReply : (s.setSem ck e x).hostReply = s.hostReply := rfl
@[simp] theorem setSem_l1sets : (s.setSem ck e x).l1sets = s.l1sets := rfl
@[simp] theorem setSem_l1pred : (s.setSem ck e x).l1pred = s.l1pred := rfl
@[simp] theorem setSem_rights : (s.setSem ck e x).rights = s.rights := rfl
@[simp] theorem setSem_aborts : (s.setSem ck e x).aborts = s.aborts := rfl
@[simp] theorem setSem_l2 : (s.setSem ck e x).l2 = s.l2 := rfl
@[simp] theorem setSem_bankQs : (s.setSem ck e x).bankQs = s.bankQs := rfl
end

/-! ### modPower -/

section
variable (s : State) (d : Nat) (x : Power → Power)
@[simp] theorem modPower_agenda : (s.modPower d x).agenda = s.agenda := rfl
@[simp] theorem modPower_inputs : (s.modPower d x).inputs = s.inputs := rfl
@[simp] theorem modPower_cur : (s.modPower d x).cur = s.cur := rfl
@[simp] theorem modPower_tick : (s.modPower d x).tick = s.tick := rfl
@[simp] theorem modPower_nextId : (s.modPower d x).nextId = s.nextId := rfl
@[simp] theorem modPower_cycle : (s.modPower d x).cycle = s.cycle := rfl
@[simp] theorem modPower_lanes : (s.modPower d x).lanes = s.lanes := rfl
@[simp] theorem modPower_vregs : (s.modPower d x).vregs = s.vregs := rfl
@[simp] theorem modPower_sregs : (s.modPower d x).sregs = s.sregs := rfl
@[simp] theorem modPower_dirtyBanks : (s.modPower d x).dirtyBanks = s.dirtyBanks := rfl
@[simp] theorem modPower_dirtyLines : (s.modPower d x).dirtyLines = s.dirtyLines := rfl
@[simp] theorem modPower_groups : (s.modPower d x).groups = s.groups := rfl
@[simp] theorem modPower_teams : (s.modPower d x).teams = s.teams := rfl
@[simp] theorem modPower_wins : (s.modPower d x).wins = s.wins := rfl
@[simp] theorem modPower_stash : (s.modPower d x).stash = s.stash := rfl
@[simp] theorem modPower_sems : (s.modPower d x).sems = s.sems := rfl
@[simp] theorem modPower_grants : (s.modPower d x).grants = s.grants := rfl
@[simp] theorem modPower_l1 : (s.modPower d x).l1 = s.l1 := rfl
@[simp] theorem modPower_wbFails : (s.modPower d x).wbFails = s.wbFails := rfl
@[simp] theorem modPower_store : (s.modPower d x).store = s.store := rfl
@[simp] theorem modPower_credits : (s.modPower d x).credits = s.credits := rfl
@[simp] theorem modPower_lastSlot : (s.modPower d x).lastSlot = s.lastSlot := rfl
@[simp] theorem modPower_pmcs : (s.modPower d x).pmcs = s.pmcs := rfl
@[simp] theorem modPower_chans : (s.modPower d x).chans = s.chans := rfl
@[simp] theorem modPower_opmem : (s.modPower d x).opmem = s.opmem := rfl
@[simp] theorem modPower_heads : (s.modPower d x).heads = s.heads := rfl
@[simp] theorem modPower_handles : (s.modPower d x).handles = s.handles := rfl
@[simp] theorem modPower_arrays : (s.modPower d x).arrays = s.arrays := rfl
@[simp] theorem modPower_banks : (s.modPower d x).banks = s.banks := rfl
@[simp] theorem modPower_rings : (s.modPower d x).rings = s.rings := rfl
@[simp] theorem modPower_entries : (s.modPower d x).entries = s.entries := rfl
@[simp] theorem modPower_recs : (s.modPower d x).recs = s.recs := rfl
@[simp] theorem modPower_trays : (s.modPower d x).trays = s.trays := rfl
@[simp] theorem modPower_opers : (s.modPower d x).opers = s.opers := rfl
@[simp] theorem modPower_descs : (s.modPower d x).descs = s.descs := rfl
@[simp] theorem modPower_hlb : (s.modPower d x).hlb = s.hlb := rfl
@[simp] theorem modPower_ctc : (s.modPower d x).ctc = s.ctc := rfl
@[simp] theorem modPower_faultRecs : (s.modPower d x).faultRecs = s.faultRecs := rfl
@[simp] theorem modPower_lbars : (s.modPower d x).lbars = s.lbars := rfl
@[simp] theorem modPower_census : (s.modPower d x).census = s.census := rfl
@[simp] theorem modPower_tiers : (s.modPower d x).tiers = s.tiers := rfl
@[simp] theorem modPower_dead : (s.modPower d x).dead = s.dead := rfl
@[simp] theorem modPower_counts : (s.modPower d x).counts = s.counts := rfl
@[simp] theorem modPower_repls : (s.modPower d x).repls = s.repls := rfl
@[simp] theorem modPower_slices : (s.modPower d x).slices = s.slices := rfl
@[simp] theorem modPower_slovf : (s.modPower d x).slovf = s.slovf := rfl
@[simp] theorem modPower_traces : (s.modPower d x).traces = s.traces := rfl
@[simp] theorem modPower_tests : (s.modPower d x).tests = s.tests := rfl
@[simp] theorem modPower_bad : (s.modPower d x).bad = s.bad := rfl
@[simp] theorem modPower_dies : (s.modPower d x).dies = s.dies := rfl
@[simp] theorem modPower_pkgs : (s.modPower d x).pkgs = s.pkgs := rfl
@[simp] theorem modPower_ctxs : (s.modPower d x).ctxs = s.ctxs := rfl
@[simp] theorem modPower_jobs : (s.modPower d x).jobs = s.jobs := rfl
@[simp] theorem modPower_raises : (s.modPower d x).raises = s.raises := rfl
@[simp] theorem modPower_queues : (s.modPower d x).queues = s.queues := rfl
@[simp] theorem modPower_msgs : (s.modPower d x).msgs = s.msgs := rfl
@[simp] theorem modPower_sigs : (s.modPower d x).sigs = s.sigs := rfl
@[simp] theorem modPower_accs : (s.modPower d x).accs = s.accs := rfl
@[simp] theorem modPower_cmds : (s.modPower d x).cmds = s.cmds := rfl
@[simp] theorem modPower_mem : (s.modPower d x).mem = s.mem := rfl
@[simp] theorem modPower_stamps : (s.modPower d x).stamps = s.stamps := rfl
@[simp] theorem modPower_hostMem : (s.modPower d x).hostMem = s.hostMem := rfl
@[simp] theorem modPower_hostReply : (s.modPower d x).hostReply = s.hostReply := rfl
@[simp] theorem modPower_l1sets : (s.modPower d x).l1sets = s.l1sets := rfl
@[simp] theorem modPower_l1pred : (s.modPower d x).l1pred = s.l1pred := rfl
@[simp] theorem modPower_rights : (s.modPower d x).rights = s.rights := rfl
@[simp] theorem modPower_aborts : (s.modPower d x).aborts = s.aborts := rfl
@[simp] theorem modPower_l2 : (s.modPower d x).l2 = s.l2 := rfl
@[simp] theorem modPower_bankQs : (s.modPower d x).bankQs = s.bankQs := rfl
end

/-! ### Reading back -/

theorem laneKey_inj {g h l j : Nat} (hl : l < 64) (hj : j < 64) (h' : laneKey g l = laneKey h j) : g = h ∧ l = j := by
  unfold laneKey at h'; omega
@[simp] theorem lane_setLane_same (s : State) (g l : Nat) (x : Lane) : (s.setLane g l x).lane g l = x := by
  simp [State.lane, State.setLane, Tab.get_put]
theorem lane_setLane_other (s : State) {g l h j : Nat} (x : Lane) (hl : l < 64) (hj : j < 64) (hn : (g, l) ≠ (h, j)) :
    (s.setLane g l x).lane h j = s.lane h j := by
  unfold State.lane State.setLane
  apply Tab.get_put_other
  intro e
  obtain ⟨rfl, rfl⟩ := laneKey_inj hl hj e
  exact hn rfl
@[simp] theorem grp_setGrp_same (s : State) (g : Nat) (x : Group) : (s.setGrp g x).grp g = x := by
  simp [State.grp, State.setGrp, Tab.get_put]
theorem grp_setGrp_other (s : State) {g h : Nat} (x : Group) (hn : g ≠ h) : (s.setGrp g x).grp h = s.grp h := by
  unfold State.grp State.setGrp; exact Tab.get_put_other _ _ _ hn
@[simp] theorem grp_modGrp_same (s : State) (g : Nat) (f : Group → Group) : (s.modGrp g f).grp g = f (s.grp g) := by
  simp [State.modGrp]
@[simp] theorem grp_onLanes (s : State) (g h : Nat) (ls : List Nat) (f : Nat → Lane → Lane) : (s.onLanes g ls f).grp h = s.grp h := rfl
@[simp] theorem lane_setGrp (s : State) (g h l : Nat) (x : Group) : (s.setGrp g x).lane h l = s.lane h l := rfl
@[simp] theorem lane_modGrp (s : State) (g h l : Nat) (f : Group → Group) : (s.modGrp g f).lane h l = s.lane h l := rfl
@[simp] theorem entry_setEntry_same (s : State) (e : Nat) (x : Entry) : (s.setEntry e x).entry e = x := by
  simp [State.entry, State.setEntry, Tab.get_set]
theorem entry_setEntry_other (s : State) {e f : Nat} (x : Entry) (hn : e ≠ f) : (s.setEntry e x).entry f = s.entry f := by
  unfold State.entry State.setEntry; exact Tab.get_set_other _ _ _ _ hn
@[simp] theorem entry_modEntry_same (s : State) (e : Nat) (f : Entry → Entry) : (s.modEntry e f).entry e = f (s.entry e) := by
  simp [State.modEntry]
@[simp] theorem die_modDie_same (s : State) (d : Nat) (f : Die → Die) : (s.modDie d f).die d = f (s.die d) := by
  simp [State.die, State.modDie, Tab.get_put]
@[simp] theorem pkg_modPkg_same (s : State) (p : Nat) (f : Pkg → Pkg) : (s.modPkg p f).pkg p = f (s.pkg p) := by
  simp [State.pkg, State.modPkg, Tab.get_put]
@[simp] theorem sem_setSem_same (s : State) (ck e : Nat) (x : Sem) : (s.setSem ck e x).sem ck e = x := by
  simp [State.sem, State.setSem, Tab.get_set]
theorem sem_setSem_other (s : State) {ck e c f : Nat} (x : Sem) (h : semKey ck e ≠ semKey c f) : (s.setSem ck e x).sem c f = s.sem c f := by
  unfold State.sem State.setSem; exact Tab.get_set_other _ _ _ _ h

/-! ### Lanes of a group at once -/

theorem lane_onLanes_out (s : State) {g h j : Nat} {ls : List Nat} (f : Nat → Lane → Lane) (hls : ∀ l ∈ ls, l < 64) (hj : j < 64)
    (hn : g ≠ h ∨ j ∉ ls) : (s.onLanes g ls f).lane h j = s.lane h j := by
  unfold State.onLanes State.lane
  generalize s.lanes = t
  induction ls generalizing t with
  | nil => rfl
  | cons a ls ih =>
    simp only [List.foldl_cons]
    simp only [List.mem_cons, forall_eq_or_imp] at hls hn
    rw [ih hls.2 (hn.imp_right fun h e => h (.inr e)), Tab.get_put_other]
    intro e
    obtain ⟨rfl, rfl⟩ := laneKey_inj hls.1 hj e
    rcases hn with hn | hn
    · exact hn rfl
    · exact hn (.inl rfl)
theorem lane_onLanes_in (s : State) {g j : Nat} {ls : List Nat} (f : Nat → Lane → Lane) (hls : ∀ l ∈ ls, l < 64) (hnd : ls.Nodup)
    (hj : j ∈ ls) : (s.onLanes g ls f).lane g j = f j (s.lane g j) := by
  unfold State.onLanes State.lane
  generalize s.lanes = t
  induction ls generalizing t with
  | nil => simp at hj
  | cons a ls ih =>
    simp only [List.foldl_cons]
    simp only [List.mem_cons, forall_eq_or_imp] at hls hj
    rw [List.nodup_cons] at hnd
    by_cases e : j ∈ ls
    · rw [ih hls.2 hnd.2 e, Tab.get_put_other]
      intro h
      have := laneKey_inj hls.1 (hls.2 j e) h
      exact hnd.1 (this.2 ▸ e)
    · have hja : j = a := hj.resolve_right e
      subst hja
      have := lane_onLanes_out ({ ({} : State) with lanes := Tab.put t (laneKey g j) (f j (Tab.get t (laneKey g j) {})) }) (g := g) (h := g) (j := j) f hls.2 hls.1 (.inr e)
      simp only [State.onLanes, State.lane] at this
      rw [this, Tab.get_put_same]
theorem lanesIn_lt {m : Mask} {l : Nat} (h : l ∈ lanesIn m) : l < 64 := by
  simp only [lanesIn, laneNums, List.mem_filter, List.mem_range] at h; exact h.1
theorem lanesIn_nodup (m : Mask) : (lanesIn m).Nodup := List.Pairwise.filter _ List.nodup_range
theorem mem_lanesIn {m : Mask} {l : Nat} : l ∈ lanesIn m ↔ l < 64 ∧ m.getLsbD l = true := by
  simp [lanesIn, laneNums]

end Sys2Proof.Machine
end

