-- ==== Sys2Proof/Tests/Slice0.lean ====
section
/-! SUPPORT. The model's own tests: words written out from the tables of spec/ decode to their instructions; the
well-formedness checks refuse what they must; worked values of spec/ on one step; and for every statement of
Certificates that has hypotheses, states and operands that meet them (the theorems named wit_). -/
set_option Elab.async false
namespace Sys2Proof.Tests
open Sys2Proof Sys2Proof.Machine Sys2Proof.Claims

/-! ### States -/

/-- One lane of group 0 on core 0 of die 0 at 0x1000, at the instruction at hand; the mapped page may be read and written. -/
def base : State :=
  let s := State.reset.withFetchWord 32 0
  { s with cur := { pc := 0x1000#56, lanes := 1#64, word := 0x12345678#32 }, mem := setBytes s.mem 0x50000 (leBytes (2 ^ 52 + 2 ^ 50 + 7 * 2 ^ 43 + 6) 8) }
/-- The lane's TYPE. -/
def typed (t : Nat) (s : State) : State := s.onLanes 0 [0] fun _ y => { y with mode := y.mode ||| w32 (t * 2 ^ 12) }
/-- The lane's registers. -/
def regs (rs : List (Nat × Nat)) (s : State) : State := rs.foldl (fun s r => wr s 0 0 r.1 r.2) s
/-- All 64 lanes. -/
def crowd : State :=
  { base with lanes := (List.range 64).map fun l => (l, { pc := 0x1000#56 })
              groups := [(0, { task := 0, ctx := 1, team := 1, banks := 4, active := allLanes })]
              cur := { base.cur with lanes := allLanes } }
def allReady (ts : List Nat) (s : State) (is : List Instr) : Bool := is.all fun i => ready i ts s
def readies (s : State) (ts : List Nat) (is : List Instr) : Bool := ts.all fun t => allReady [t] (typed t s) is

/-! ### Encodings (R31 to R36, R52; the opcode tables of 04, 05, 07, 10, 14 and 17) -/

def decodesAll (l : List (Nat × Nat × Instr)) : Bool := l.all fun x => decodeTableWord x.1 x.2.1 == some x.2.2
theorem test_decode_Integer_1 : decodesAll [
  (32, 0x00000000, .nop), (32, 0x01123400, .mov 0x12 0x34), (32, 0x02123456, .sel 0x12 0x34 0x56), (32, 0x03123456, .add 0x12 0x34 0x56),
  (32, 0x04123456, .sub 0x12 0x34 0x56), (32, 0x05123456, .mul 0x12 0x34 0x56), (32, 0x06123456, .mulh 0x12 0x34 0x56),
  (32, 0x07123456, .mulw 0x12 0x34 0x56), (32, 0x08123456, .mad 0x12 0x34 0x56), (32, 0x09123456, .div 0x12 0x34 0x56),
  (32, 0x0A123456, .rem 0x12 0x34 0x56), (32, 0x0B123456, .imin 0x12 0x34 0x56), (32, 0x0C123456, .imax 0x12 0x34 0x56),
  (32, 0x0D123400, .abs 0x12 0x34), (32, 0x0E123400, .neg 0x12 0x34), (32, 0x0F123456, .add64 0x12 0x34 0x56),
  (32, 0x10123456, .sub64 0x12 0x34 0x56), (32, 0x11123456, .bAnd 0x12 0x34 0x56), (32, 0x12123456, .bOr 0x12 0x34 0x56),
  (32, 0x13123456, .bXor 0x12 0x34 0x56), (32, 0x14123400, .bNot 0x12 0x34), (32, 0x15123456, .andn 0x12 0x34 0x56),
  (32, 0x16123456, .shl 0x12 0x34 0x56), (32, 0x17123456, .shr 0x12 0x34 0x56)] = true := by decide +kernel
theorem test_decode_Integer_2 : decodesAll [
  (32, 0x18123456, .sar 0x12 0x34 0x56), (32, 0x19123456, .rot 0x12 0x34 0x56), (32, 0x1A123400, .popc 0x12 0x34),
  (32, 0x1B123400, .clz 0x12 0x34), (32, 0x1C123400, .ctz 0x12 0x34), (32, 0x1D123400, .brev 0x12 0x34),
  (32, 0x1E123456, .bfx 0x12 0x34 0x56), (32, 0x1F123456, .bfi 0x12 0x34 0x56), (32, 0x20123456, .bmix 0x12 0x34 0x56),
  (32, 0x21123456, .lea 0x12 0x34 0x56), (32, 0x22123456, .lea64 0x12 0x34 0x56), (32, 0x23123456, .cmpEq 0x12 0x34 0x56),
  (32, 0x24123456, .cmpNe 0x12 0x34 0x56), (32, 0x25123456, .cmpLt 0x12 0x34 0x56), (32, 0x26123456, .cmpLe 0x12 0x34 0x56),
  (32, 0x27123456, .cmpGt 0x12 0x34 0x56), (32, 0x28123456, .cmpGe 0x12 0x34 0x56), (32, 0x29123456, .pand 0x12 0x34 0x56),
  (32, 0x2A123456, .por 0x12 0x34 0x56), (32, 0x2B123456, .pxor 0x12 0x34 0x56), (32, 0x2C123400, .pnot 0x12 0x34),
  (32, 0x2D120000, .p2v 0x12), (32, 0x2E003400, .v2p 0x34)] = true := by decide +kernel
theorem test_decode_Float_1 : decodesAll [
  (32, 0x2F123456, .xchIdx 0x12 0x34 0x56), (32, 0x30123456, .xchXor 0x12 0x34 0x56), (32, 0x31123456, .xchUp 0x12 0x34 0x56),
  (32, 0x32123456, .xchDn 0x12 0x34 0x56), (32, 0x33123400, .lnany 0x12 0x34), (32, 0x34123400, .lnall 0x12 0x34),
  (32, 0x35123400, .lnmask 0x12 0x34), (32, 0x36123456, .rdlane 0x12 0x34 0x56), (32, 0x37123456, .wrlane 0x12 0x34 0x56),
  (32, 0x38123400, .iredAdd 0x12 0x34), (32, 0x39123400, .iredMin 0x12 0x34), (32, 0x3A123400, .iredMax 0x12 0x34),
  (32, 0x3B123400, .iscanAdd 0x12 0x34), (32, 0x3C123400, .lneq 0x12 0x34), (32, 0x40123456, .fadd 0x12 0x34 0x56),
  (32, 0x41123456, .fsub 0x12 0x34 0x56), (32, 0x42123456, .fmul 0x12 0x34 0x56), (32, 0x43123456, .fma 0x12 0x34 0x56),
  (32, 0x44123456, .fms 0x12 0x34 0x56), (32, 0x45123456, .fnma 0x12 0x34 0x56), (32, 0x46123456, .fmin 0x12 0x34 0x56),
  (32, 0x47123456, .fmax 0x12 0x34 0x56), (32, 0x48123400, .fabs 0x12 0x34), (32, 0x49123400, .fneg 0x12 0x34)] = true := by decide +kernel
theorem test_decode_Float_2 : decodesAll [
  (32, 0x4A123456, .fcmpEq 0x12 0x34 0x56), (32, 0x4B123456, .fcmpNe 0x12 0x34 0x56), (32, 0x4C123456, .fcmpLt 0x12 0x34 0x56),
  (32, 0x4D123456, .fcmpLe 0x12 0x34 0x56), (32, 0x4E123456, .fcmpUn 0x12 0x34 0x56), (32, 0x4F123400, .fclass 0x12 0x34),
  (32, 0x50123400, .frcp 0x12 0x34), (32, 0x51123400, .frsq 0x12 0x34), (32, 0x52123400, .fsqrt 0x12 0x34),
  (32, 0x53123456, .fdiv 0x12 0x34 0x56), (32, 0x54123400, .fexp2 0x12 0x34), (32, 0x55123400, .flog2 0x12 0x34),
  (32, 0x56123400, .fsin 0x12 0x34), (32, 0x57123400, .fcos 0x12 0x34), (32, 0x58123400, .ftanh 0x12 0x34),
  (32, 0x59123400, .fsigm 0x12 0x34), (32, 0x5A123400, .frnd 0x12 0x34), (32, 0x5B123456, .fdot2 0x12 0x34 0x56),
  (32, 0x5C123456, .fdot4 0x12 0x34 0x56), (32, 0x5D123456, .idot4 0x12 0x34 0x56), (32, 0x5E123400, .cvtF2i 0x12 0x34),
  (32, 0x5F123400, .cvtI2f 0x12 0x34), (32, 0x60123400, .cvtUpLo 0x12 0x34), (32, 0x61123400, .cvtUpHi 0x12 0x34)] = true := by decide +kernel
theorem test_decode_Float_3 : decodesAll [
  (32, 0x62123456, .cvtDn 0x12 0x34 0x56), (32, 0x63123456, .cvtDn4 0x12 0x34 0x56), (32, 0x64123400, .qblk 0x12 0x34),
  (32, 0x65123456, .dqblk 0x12 0x34 0x56), (32, 0x66123456, .nibpk 0x12 0x34 0x56), (32, 0x67123400, .fredAdd 0x12 0x34),
  (32, 0x68123400, .fredMax 0x12 0x34), (32, 0x69123400, .fscanAdd 0x12 0x34), (32, 0x6A123456, .argmax 0x12 0x34 0x56),
  (32, 0x6B120000, .rand 0x12), (32, 0x6C120000, .randf 0x12), (32, 0x6D123400, .smxup 0x12 0x34)] = true := by decide +kernel
theorem test_decode_Matrix : decodesAll [
  (32, 0x80123456, .mcolAlloc 0x12 0x34 0x56), (32, 0x81120000, .mcolFree 0x12),
  (64, 0x0A00800782123456, .mtileLd 0x12 0x34 0x56 0x0A008007#32), (64, 0x0A00800783123456, .mtileSt 0x12 0x34 0x56 0x0A008007#32),
  (32, 0x84123400, .mtileHdr 0x12 0x34), (64, 0x0A00800785123400, .mwload 0x12 0x34 0x0A008007#32),
  (64, 0x0A00800786120000, .mwswap 0x12 0x0A008007#32), (64, 0x0A00800787123456, .mma 0x12 0x34 0x56 0x0A008007#32),
  (64, 0x0A00800788123456, .mmaSp 0x12 0x34 0x56 0x0A008007#32), (64, 0x0A00800789123400, .maccZero 0x12 0x34 0x0A008007#32),
  (64, 0x0A0080078A123456, .maccRd 0x12 0x34 0x56 0x0A008007#32), (32, 0x8B003400, .mcfg 0x34)] = true := by decide +kernel
theorem test_decode_Memory_1 : decodesAll [
  (32, 0xA0123456, .ld 0x12 0x34 0x56), (32, 0xA1123456, .ldX2 0x12 0x34 0x56), (32, 0xA2123456, .ldX4 0x12 0x34 0x56),
  (32, 0xA3123456, .st 0x12 0x34 0x56), (32, 0xA4123456, .stX2 0x12 0x34 0x56), (32, 0xA5123456, .stX4 0x12 0x34 0x56),
  (32, 0xA6123456, .lds 0x12 0x34 0x56), (32, 0xA7123456, .ldsX4 0x12 0x34 0x56), (32, 0xA8123456, .sts 0x12 0x34 0x56),
  (32, 0xA9123456, .stsX4 0x12 0x34 0x56), (32, 0xAA123456, .ldAcq 0x12 0x34 0x56), (32, 0xAB123456, .stRel 0x12 0x34 0x56),
  (32, 0xAC123456, .atomAdd 0x12 0x34 0x56), (32, 0xAD123456, .atomMin 0x12 0x34 0x56), (32, 0xAE123456, .atomMax 0x12 0x34 0x56),
  (32, 0xAF123456, .atomAnd 0x12 0x34 0x56), (32, 0xB0123456, .atomOr 0x12 0x34 0x56), (32, 0xB1123456, .atomXor 0x12 0x34 0x56),
  (32, 0xB2123456, .atomXchg 0x12 0x34 0x56), (32, 0xB3123456, .atomCas 0x12 0x34 0x56), (32, 0xB4123456, .atomFadd 0x12 0x34 0x56),
  (32, 0xB5003456, .redAdd 0x34 0x56), (32, 0xB6123456, .atomsAdd 0x12 0x34 0x56), (32, 0xB7123456, .atomsCas 0x12 0x34 0x56)] = true := by decide +kernel
theorem test_decode_Memory_2 : decodesAll [
  (32, 0xB8000000, .fence), (32, 0xB9000000, .fenceBank), (32, 0xBA123456, .stashMap 0x12 0x34 0x56),
  (32, 0xBB003456, .stashWb 0x34 0x56), (32, 0xBC003456, .stashInv 0x34 0x56), (32, 0xBD003400, .mdead 0x34),
  (32, 0xBE003456, .pref 0x34 0x56)] = true := by decide +kernel
theorem test_decode_Commands : decodesAll [
  (64, 0x0A008007BF123456, .movCpy 0x12 0x34 0x56 0x0A008007#32), (64, 0x0A008007C0123456, .movGth 0x12 0x34 0x56 0x0A008007#32),
  (64, 0x0A008007C1123456, .movSct 0x12 0x34 0x56 0x0A008007#32), (64, 0x0A008007C2123456, .putCmd 0x12 0x34 0x56 0x0A008007#32),
  (64, 0x0A008007C3123456, .getCmd 0x12 0x34 0x56 0x0A008007#32), (64, 0x0A008007C4123456, .ratom 0x12 0x34 0x56 0x0A008007#32),
  (64, 0x0A008007C5123456, .bopAdd 0x12 0x34 0x56 0x0A008007#32), (64, 0x0A008007C6123456, .bopAxpy 0x12 0x34 0x56 0x0A008007#32),
  (64, 0x0A008007C7123456, .bopMax 0x12 0x34 0x56 0x0A008007#32), (64, 0x0A008007C8123456, .bopCvt 0x12 0x34 0x56 0x0A008007#32),
  (64, 0x0A008007C9120056, .bopFill 0x12 0x56 0x0A008007#32), (64, 0x0A008007CA123456, .collAr 0x12 0x34 0x56 0x0A008007#32),
  (64, 0x0A008007CB123456, .collAg 0x12 0x34 0x56 0x0A008007#32), (64, 0x0A008007CC123456, .collRs 0x12 0x34 0x56 0x0A008007#32),
  (64, 0x0A008007CD123456, .collA2a 0x12 0x34 0x56 0x0A008007#32), (64, 0x0A008007CE123456, .collBc 0x12 0x34 0x56 0x0A008007#32)] = true := by decide +kernel
theorem test_decode_Control : decodesAll [
  (32, 0xD0123456, .mode 0x123456#24), (32, 0xD1123456, .lit 0x123456#24), (32, 0xD2000056, .lith 0x56#8),
  (32, 0xD3123456, .bra 0x123456#24), (32, 0xD4123456, .call 0x123456#24), (32, 0xD5000000, .ret), (32, 0xD6003400, .jmp 0x34),
  (32, 0xD7120000, .cbarSet 0x12), (32, 0xD8120000, .cbarWait 0x12), (32, 0xD9123456, .callm 0x12 0x34 0x56),
  (32, 0xDA003456, .mstore 0x34 0x56), (64, 0x0A008007DB123456, .suspGroup 0x123456#24 0x0A008007#32),
  (64, 0x0A008007DC123456, .syncGroup 0x123456#24 0x0A008007#32), (32, 0xDD120000, .arrive 0x12),
  (64, 0x0A008007DE000000, .endGroup 0x0A008007#32), (32, 0xDF000000, .yieldGroup)] = true := by decide +kernel
theorem test_decode_Tasks : decodesAll [
  (32, 0xE0123400, .chOpen 0x12 0x34), (32, 0xE1123400, .chClose 0x12 0x34), (32, 0xE2123400, .semaAdd 0x12 0x34),
  (32, 0xE3123400, .semaRd 0x12 0x34), (64, 0x0A008007E4123456, .taskPost 0x12 0x34 0x56 0x0A008007#32),
  (32, 0xE5003456, .taskDep 0x34 0x56), (32, 0xE6003456, .taskSig 0x34 0x56), (32, 0xE7123456, .taskPull 0x12 0x34 0x56),
  (64, 0x0A008007E8123456, .launch 0x12 0x34 0x56 0x0A008007#32), (32, 0xE9123400, .tokNew 0x12 0x34),
  (32, 0xEA123456, .tokRd 0x12 0x34 0x56), (32, 0xEB123456, .tokWr 0x12 0x34 0x56), (32, 0xEC003400, .tokNext 0x34),
  (64, 0x0A008007ED003456, .tokSend 0x34 0x56 0x0A008007#32), (32, 0xEE003400, .tokRet 0x34)] = true := by decide +kernel
theorem test_decode_System : decodesAll [
  (32, 0xF0123456, .trap 0x123456#24), (32, 0xF1000000, .rte), (32, 0xF2123400, .sregRd 0x12 0x34), (32, 0xF3003456, .sregWr 0x34 0x56),
  (32, 0xF4123400, .opreg 0x12 0x34), (32, 0xF5123400, .beltSet 0x12 0x34), (32, 0xF6123400, .traySet 0x12 0x34),
  (32, 0xF7123400, .genRaise 0x12 0x34), (64, 0x0A008007F8123456, .ctxSave 0x12 0x34 0x56 0x0A008007#32),
  (64, 0x0A008007F9123456, .ctxLoad 0x12 0x34 0x56 0x0A008007#32), (32, 0xFA000000, .halt), (32, 0xFB123456, .census 0x12 0x34 0x56),
  (32, 0xFC120000, .pmcSnap 0x12)] = true := by decide +kernel

/-! ### Well-formedness: one ill-formed instruction for each check -/

theorem test_wf_good : Instr.wf (.movCpy 0x10 0x20 0x30 0x00000006#32) false = false ∧
    Instr.wf (.movCpy 0x10 0x20 0x30 0x0A008007#32) false = true ∧ Instr.wf (.add64 0x10 0xFE 0x12) false = true ∧
    Instr.wf (.illegalOpcode 0xFF123456#32) false = true := by decide +kernel
/-- A pair at an odd code (R45); a predicate field that names a register (R103). -/
theorem test_wf_class : Instr.wf (.add64 0x11 0x12 0x14) false = false ∧ Instr.wf (.cmpEq 0x10 0x11 0x12) false = false ∧
    Instr.wf (.cmpEq 0xF1 0x11 0x12) true = false := by decide +kernel
/-- Bits of a wait that is not enabled (R37), of the barrier selector of a SYNC (R40). -/
theorem test_wf_sync : Instr.wf (.putCmd 0x10 0x20 0x30 0x00004001#32) false = false ∧ Instr.wf (.syncGroup 0 0x80000000#32) false = false ∧
    Instr.wf (.endGroup 0x00000002#32) false = false := by decide +kernel
/-- A good opcode is no reserved one (R53). -/
theorem test_wf_opcode : Instr.wf (.illegalOpcode 0x03123456#32) false = false := by decide +kernel
/-- A step of the device is no word. -/
theorem test_wf_event : Instr.wf (.taskKill 0) false = false := by decide +kernel

/-! ### Worked values of the manual -/

def laneReg (o : Host.Outcome State Fault Refusal) (c : Nat) : Option Nat := match o with
  | .next t => some (rd t 0 0 c)
  | _ => none
def laneStat (o : Host.Outcome State Fault Refusal) : Option Nat := match o with
  | .next t => some (t.lane 0 0).astat.toNat
  | _ => none
def sat (s : State) : State := s.onLanes 0 [0] fun _ y => { y with mode := y.mode ||| 0x100#32 }
/-- R14: 0x7FFFFFFF + 1, wrapped and saturated. -/
theorem test_add : laneReg (exec (.add 0x10 0x11 0x12) (regs [(0x11, 0x7FFFFFFF), (0x12, 1)] base)) 0x10 = some 0x80000000 ∧
    laneReg (exec (.add 0x10 0x11 0x12) (sat (regs [(0x11, 0x7FFFFFFF), (0x12, 1)] base))) 0x10 = some 0x7FFFFFFF := by decide +kernel
/-- R98: the int8x4 case of its table, DIV and REM. -/
theorem test_div : laneReg (exec (.div 0x10 0x11 0x12) (typed 4 (regs [(0x11, 0x64F90780), (0x12, 0x000202FF)] base))) 0x10 = some 0xFFFD0380 ∧
    laneReg (exec (.div 0x10 0x11 0x12) (sat (typed 4 (regs [(0x11, 0x64F90780), (0x12, 0x000202FF)] base)))) 0x10 = some 0xFFFD037F := by decide +kernel
theorem test_rem : laneReg (exec (.rem 0x10 0x11 0x12) (typed 4 (regs [(0x11, 0x64F90780), (0x12, 0x000202FF)] base))) 0x10 = some 0x64FF0100 := by
  decide +kernel
/-- R97: MULH int32 of -1 and 1. -/
theorem test_mulh : laneReg (exec (.mulh 0x10 0x11 0x12) (regs [(0x11, 0xFFFFFFFF), (0x12, 1)] base)) 0x10 = some 0xFFFFFFFF := by decide +kernel
/-- R101: POS = 28 with WID = 8 extracts bits 31 to 28. -/
theorem test_bfx : laneReg (exec (.bfx 0x10 0x11 0x12) (regs [(0x11, 0xA2345678), (0x12, 28 + 8 * 256)] base)) 0x10 = some 0xA := by decide +kernel
/-- R102: k = 0x053 reverses A's bytes; k = 0xE0000 sign-extends A's byte 0. -/
theorem test_bmix : laneReg (exec (.bmix 0x10 0x11 0x12) (regs [(0x11, 0x12345678), (0x12, 0), (0xFF, 0x053)] base)) 0x10 = some 0x78563412 ∧
    laneReg (exec (.bmix 0x10 0x11 0x12) (regs [(0x11, 0x12345698), (0x12, 0), (0xFF, 0xE0000)] base)) 0x10 = some 0xFFFFFF98 := by decide +kernel
/-- R51: 0x12345678 is LIT 0x345678 followed by LITH 0x12. -/
theorem test_lith : laneReg (exec (.lit 0x800000#24) base) 0xFF = some 0xFF800000 ∧
    laneReg (exec (.lith 0x12#8) (regs [(0xFF, 0x00345678)] base)) 0xFF = some 0x12345678 := by decide +kernel
/-- R132's case, its first SMXUP in one lane: the maximum 3, the sum 1 (2^0). -/
theorem test_smxup : laneReg (exec (.smxup 0x0A 0x02) (typed 8 (regs [(0x0A, 0xFF800000), (0x0B, 0), (0x02, 0x40400000)] base))) 0x0A = some 0x40400000 ∧
    laneReg (exec (.smxup 0x0A 0x02) (typed 8 (regs [(0x0A, 0xFF800000), (0x0B, 0), (0x02, 0x40400000)] base))) 0x0B = some 0x3F800000 := by decide +kernel
/-- R98: a zero divisor sets IZ. -/
theorem test_iz : laneStat (exec (.div 0x10 0x11 0x12) (regs [(0x11, 5)] base)) = some flagIZ := by decide +kernel
/-- R34, R287: the lane goes on to the next word. -/
theorem test_step_moves_on : (match step (State.reset.withFetchWord 32 0x03100B0C) with
    | .next t => (t.lane 0 0).pc == 0x1004#56
    | _ => false) = true := by decide +kernel
/-- R53, R405: an opcode with no meaning, fetched and issued, enters the handler at TRAPENT with ILLEGAL_OP. -/
theorem test_step_illegal : (match step (State.reset.withFetchWord 32 0xFF000000) with
    | .next t => (t.lane 0 0).pc == 0x8000#56 && (t.grp 0).tcause.toNat == cILLEGAL_OP && (t.lane 0 0).resumePc == 0x1000#64
    | _ => false) = true := by decide +kernel

/-! ### Witnesses: per-lane instructions -/

/-- The last register of four banks, s31 and k; pairs below them. -/
theorem wit_BitStringAndPairResults :
    allReady [] base [.mov 0x3F 0xDF, .sel 0x3F 0xDF 0xFF, .bAnd 0x3F 0xDF 0xFF, .bOr 0x3F 0xDF 0xFF, .bXor 0x3F 0xDF 0xFF, .bNot 0x3F 0xDF,
      .andn 0x3F 0xDF 0xFF, .shl 0x3F 0xDF 0xFF, .shr 0x3F 0xDF 0xFF, .sar 0x3F 0xDF 0xFF, .rot 0x3F 0xDF 0xFF, .popc 0x3F 0xDF, .clz 0x3F 0xDF,
      .ctz 0x3F 0xDF, .brev 0x3F 0xDF, .bfx 0x3F 0xDF 0xFF, .bfi 0x3F 0xDF 0xFF, .bmix 0x3F 0xDF 0xFF, .lea 0x3F 0xDF 0xFF, .nibpk 0x3F 0xDF 0xFF] = true ∧
    allReady [] base [.add64 0x3E 0xDE 0xFE, .sub64 0x3E 0xDE 0xFE, .lea64 0x3E 0xDE 0xFE] = true ∧
    readies base [0, 1] [.mulw 0x3E 0xDE 0xFE] = true := by decide +kernel
theorem wit_ElementResults : readies base [0, 1, 2, 3, 4, 5] [.add 0x3F 0xDF 0xFF, .sub 0x3F 0xDF 0xFF, .mul 0x3F 0xDF 0xFF, .mulh 0x3F 0xDF 0xFF,
    .mad 0x3F 0xDF 0xFF, .div 0x3F 0xDF 0xFF, .rem 0x3F 0xDF 0xFF, .imin 0x3F 0xDF 0xFF, .imax 0x3F 0xDF 0xFF, .abs 0x3F 0xDF, .neg 0x3F 0xDF] = true := by
  decide +kernel
theorem wit_CompareResults : readies base [0, 1, 6, 7] [.cmpEq 0xF6 0x3E 0xDE, .cmpNe 0xF6 0x3E 0xDE, .cmpLt 0xF6 0x3E 0xDE, .cmpLe 0xF6 0x3E 0xDE,
    .cmpGt 0xF6 0x3E 0xDE, .cmpGe 0xF6 0x3E 0xDE] = true ∧
    allReady [] base [.pand 0xF6 0xF7 0xF0, .por 0xF6 0xF7 0xF0, .pxor 0xF6 0xF7 0xF0, .pnot 0xF6 0xF7, .p2v 0x3F, .v2p 0x3F] = true := by decide +kernel
theorem wit_ExchangeAndReductionResults :
    allReady [] crowd [.xchIdx 0x3F 0xDF 0xFF, .xchXor 0x3F 0xDF 0xFF, .xchUp 0x3F 0xDF 0xFF, .xchDn 0x3F 0xDF 0xFF, .lnany 0xF6 0xDF, .lnall 0xF6 0xDF,
      .lnmask 0x3E 0xDF, .lneq 0x3E 0xDF, .rdlane 0x3F 0xDF 0xFF, .wrlane 0x3F 0xDF 0xFF] = true ∧
    (issuing crowd).getLsbD (rdA crowd (lowest (issuing crowd)) 0xFF % 64) = true ∧ mixedTypes crowd (issuing crowd) = false ∧
    mixedTypes (typed 5 base) (issuing base) = false ∧
    readies base [0, 1, 2, 3, 4, 5] [.iredAdd 0x3F 0xDF, .iredMin 0x3F 0xDF, .iredMax 0x3F 0xDF, .iscanAdd 0x3F 0xDF] = true := by decide +kernel
theorem wit_FloatResults : readies base [8, 9, 10] [.fadd 0x3F 0xDF 0xFF, .fsub 0x3F 0xDF 0xFF, .fmul 0x3F 0xDF 0xFF, .fma 0x3F 0xDF 0xFF,
    .fms 0x3F 0xDF 0xFF, .fnma 0x3F 0xDF 0xFF, .fmin 0x3F 0xDF 0xFF, .fmax 0x3F 0xDF 0xFF, .fabs 0x3F 0xDF, .fneg 0x3F 0xDF, .frcp 0x3F 0xDF,
    .frsq 0x3F 0xDF, .fsqrt 0x3F 0xDF, .fexp2 0x3F 0xDF, .flog2 0x3F 0xDF, .fsin 0x3F 0xDF, .fcos 0x3F 0xDF, .ftanh 0x3F 0xDF, .fsigm 0x3F 0xDF,
    .fdiv 0x3F 0xDF 0xFF, .frnd 0x3F 0xDF] = true := by decide +kernel
theorem wit_FloatCompares : readies base [8] [.fcmpEq 0xF6 0xDF 0xFF, .fcmpNe 0xF6 0xDF 0xFF, .fcmpLt 0xF6 0xDF 0xFF, .fcmpLe 0xF6 0xDF 0xFF,
    .fcmpUn 0xF6 0xDF 0xFF] = true ∧ readies base [8, 9, 10] [.fclass 0x3F 0xDF] = true ∧ readies base [9, 10] [.fdot2 0x3F 0xDF 0xFF] = true ∧
    readies base [11, 12] [.fdot4 0x3F 0xDF 0xFF] = true ∧ readies base [4, 5] [.idot4 0x3F 0xDF 0xFF] = true := by decide +kernel
theorem wit_ConversionResults : (lanes base).all (fun l => !isSto (laneMode base l)) = true ∧
    readies base [0, 1, 6, 7] [.cvtF2i 0x3E 0xDF, .cvtI2f 0x3F 0xDE] = true ∧
    readies base [2, 3, 4, 5, 9, 10, 11, 12] [.cvtUpLo 0x3F 0xDF, .cvtUpHi 0x3F 0xDF] = true ∧ readies base [2, 3, 9, 10] [.cvtDn 0x3F 0xDF 0xFF] = true ∧
    readies base [4, 5, 11, 12] [.cvtDn4 0x3F 0x3E 0xDE] = true ∧ allReady [] base [.qblk 0x3B 0x20, .dqblk 0x3F 0x3B 0xFF] = true := by decide +kernel
theorem wit_RandomAndFloatReductionResults : allReady [] base [.rand 0x3F, .randf 0x3F, .nop] = true ∧ mixedTypes (typed 8 base) (issuing base) = false ∧
    readies base [8, 9, 10] [.fredAdd 0x3F 0xDF, .fscanAdd 0x3F 0xDF, .fredMax 0x3F 0xDF] = true ∧
    readies base [8] [.argmax 0x3E 0xDF 0xFF, .smxup 0x3E 0xDF] = true := by decide +kernel

/-! ### Witnesses: control -/

def lane0s (f : Lane → Lane) (s : State) : State := s.onLanes 0 [0] fun _ y => f y
theorem wit_ModeAndLiteralResults : base.cur.lanes ≠ 0 ∧ modeReserved 0x8F8000#24 = true ∧
    modeInvalid 0xFFDBEC#24 = false ∧ modeReserved 0xFFDBEC#24 = false ∧ allReady [] base [.lit 0x800000#24, .lith 0xFF#8] = true := by decide +kernel
/-- A macro of two entries at index 63: ADD, then BRA -1. -/
def stored : State := { base with store := [(63 * 32, 0x03101112#39), (63 * 32 + 1, 0x1D3FFFFFF#39)] }
def inMacro : State :=
  lane0s (fun y => { y with mac := some ⟨63, 1, 0xD9000000#32⟩ }) { stored with cur := { stored.cur with mac := some ⟨63, 1, 0xD9000000#32⟩ } }
def called : State := lane0s (fun y => { y with ret := [0x2000#56] }) base
theorem wit_TransferAndConvergenceResults : allReady [] base [.bra 0x7FFFFF#24, .call 0x800000#24, .jmp 0x10, .cbarSet 0x07, .cbarWait 0x07] = true ∧
    base.cur.mac = none ∧ (∀ l ∈ lanes base, ((begun base 1).lane 0 l).mac = none) ∧ (∀ l ∈ lanes base, (base.lane 0 l).ret.length < 16) ∧
    (ready (.bra 0xFFFFFF#24) [] inMacro = true ∧ inMacro.cur.mac = some ⟨63, 1, 0xD9000000#32⟩ ∧
      (∀ l ∈ lanes inMacro, ((begun inMacro 1).lane 0 l).mac = some ⟨63, 1, 0xD9000000#32⟩) ∧ 0 ≤ (1 : Int) + (0xFFFFFF#24).toInt ∧
      (1 : Int) + (0xFFFFFF#24).toInt ≤ (macLast inMacro 0 63).getD 31) ∧
    (ready .ret [] called = true ∧ ∀ l ∈ lanes called, (called.lane 0 l).ret ≠ [] ∧
      ((called.lane 0 l).inHandler = true → (called.lane 0 l).savedDepth < (called.lane 0 l).ret.length)) ∧
    (∀ l ∈ lanes base, rdP base l 0x10 < 2 ^ 56 ∧ rdP base l 0x10 % 4 = 0) ∧ ((base.grp 0).cb 7).arrived = 0 ∧ Tab.has base.groups 0 = true := by decide +kernel
/-- A group of the DCC, core 16 of die 0, whose group keys begin at 16 * 32. -/
def dcc : State :=
  { base with cur := { base.cur with g := 512 }, lanes := [(512 * 64, { pc := 0x1000#56 })],
              groups := [(512, { task := 0, ctx := 1, team := 1, banks := 4, active := 1#64 })] }
def dccRegs (rs : List (Nat × Nat)) : State := rs.foldl (fun s r => wr s 512 0 r.1 r.2) dcc
theorem wit_MacroResults : (let s := regs [(0xFF, 63)] stored;
      ready (.callm 0xFF 0xFF 0xFF) [] s = true ∧ anyHandler s = false ∧ (∀ l ∈ lanes s, laneK s l % 64 = 63) ∧ (macLast s 0 63).isSome = true) ∧
    (let s := dccRegs [(0x10, 0x03101112), (0x11, 0x01201F3F)];
      ready (.mstore 0x10 0x11) [] s = true ∧ isDcc s.cur.g = true ∧ bitsOf 0x01201F3F 7 6 = 0 ∧ bitsOf 0x01201F3F 15 13 = 0 ∧ bitsOf 0x01201F3F 23 22 = 0 ∧
      bitsOf 0x01201F3F 31 25 = 0 ∧ rdA s 0 0x10 = 0x03101112 ∧ rdA s 0 0x11 = 0x01201F3F ∧ reservedOp 3 = false ∧ l24Op 3 = false ∧ macBanned 3 = false) ∧
    (inMacro.cur.mac = some ⟨63, 1, 0xD9000000#32⟩ ∧ decodeWords (substWord (storeEntry inMacro 0 63 1) 0xD9000000#32) 0 = .ok (.bra 0xFFFFFF#24)) := by decide +kernel
theorem wit_BoundaryResults : anyHandler base = false ∧ anyHandler crowd = false ∧ ready (.suspGroup 0x7FFFFF#24 0x0A008007#32) [] base = true ∧
    syncFine base .command 0x0A008007#32 (firstMeet base) = true ∧ ready (.syncGroup 0 0x0000003D#32) [] base = true ∧
    syncFine base .sync 0x0000003D#32 (firstMeet base) = true ∧ barDenied base 0 (wSem 0x0000003D#32) = false ∧
    ready (.endGroup 0x0000003D#32) [] base = true ∧ syncFine base .endOf 0x0000003D#32 (firstMeet base) = true ∧ allReady [] base [.yieldGroup, .arrive 0x1F] = true ∧
    issuing base = liveLanes base 0 ∧ barDenied base 0 0x1F = false ∧
    (let s := { base with lbars := [(lbarKey 3 31 (lbarPlace 3 0), { en := true, ctx := 1 })] };
      ready (.arrive 0x7F) [] s = true ∧ anyHandler s = false ∧ issuing s = liveLanes s 0 ∧ barDenied s 0 0x7F = false ∧
      (s.lbar (lbarKey 3 31 (lbarPlace 3 0))).brk = false) := by decide +kernel

/-! ### Witnesses: traps and system instructions -/

/-- A lane in the handler, about to return to 0x1004. -/
def handling : State :=
  { lane0s (fun y => { y with inHandler := true, resumePc := 0x1004#64, savedMode := 0x00070000#32, ret := [0x2000#56], savedDepth := 1 }) base with
    groups := [(0, { task := 0, ctx := 1, team := 1, banks := 4, active := 1#64, inHandler := true, amask := 1#64 })], credits := [(0, 1)] }
theorem wit_TrapsEnterTheHandler : anyHandler base = false ∧ (base.ctxOf (base.grp 0).ctx).trapent ≠ 0 ∧ (base.grp 0).inHandler = false ∧
    creditsFree base 0 = true ∧ ready (.trap 0xFFFFFF#24) [] base = true ∧ ready (.illegalOpcode 0xFF123456#32) [] base = true := by decide +kernel
theorem wit_InstructionsTrapByCause :
    (issuing base ≠ 0 ∧ ∀ i ∈ ([.add64 0x11 0xF0 0xFD, .sub64 0x11 0xF0 0xFD, .lea64 0x11 0xF0 0xFD, .ld 0x11 0xF1 0xFD, .st 0x11 0xF0 0xFD, .jmp 0xF1,
      .cmpEq 0x11 0xF0 0xFD, .pand 0x11 0xF0 0xFD, .tokNew 0x11 0xF0] : List Instr), opndsOk i (anyWide base (issuing base)) = false) ∧
    (let s := regs [(0x10, 0x12342), (0x12, 0x12342), (0x14, 0)] base;
      ∀ p ∈ ([(.ld 0x10 0x12 0x14, fun l => globalVa s l 0x12 (offOf s l 0x14), 4), (.st 0x10 0x12 0x14, fun l => globalVa s l 0x10 (offOf s l 0x14), 4),
        (.ldX2 0x10 0x12 0x14, fun l => globalVa s l 0x12 (offOf s l 0x14), 8), (.stX4 0x10 0x12 0x14, fun l => globalVa s l 0x10 (offOf s l 0x14), 16),
        (.mdead 0x12, fun l => globalVa s l 0x12 0, 65536)] : List (Instr × (Nat → Nat) × Nat)),
        fits p.1 s = true ∧ ∀ l ∈ lanes s, p.2.1 l % p.2.2 ≠ 0) ∧
    (syncFine base .command 0x0A008007#32 1 = true ∧ matrixTogether base (issuing base) = false ∧
      ∀ i ∈ ([.mwload 0x01 0x02 0x0A008007#32, .mma 0x01 0x00 0x02 0x0A008007#32, .maccRd 0x30 0x01 0x02 0x0A008007#32, .mtileHdr 0x01 0x3C, .mcolFree 0x01] :
        List Instr), fits i base = true) := by decide +kernel
theorem wit_RteRestores : ready .rte [] handling = true ∧ allHandler handling (issuing handling) = true ∧ issuing handling = handlerLanes handling 0 ∧
    ((lanes handling).all fun l => (handling.lane 0 l).resumePc.toNat % 4 == 0) = true ∧ (handling.grp 0).cbars = [] ∧
    (handling.grp 0).amask = (handling.grp 0).active ∧ isDcc handling.cur.g = false := by decide +kernel
/-- A context's register, a handler's, and the steward's. -/
theorem wit_SystemRegisterResults :
    (let s := regs [(0x10, 0x37F), (0x11, 1)] base;
      allReady [] s [.sregRd 0x3F 0x10, .sregWr 0x10 0x11] = true ∧ sregContext 0x37F = true ∧ sregSteward 0x37F = false ∧ sregHandler 0x37F = false ∧
      rdA s (lowest (issuing s)) 0x10 = 0x37F) ∧
    (let s := regs [(0x10, 0x2E), (0x11, 1)] handling;
      allReady [] s [.sregRd 0x3F 0x10, .sregWr 0x10 0x11] = true ∧ sregHandler 0x2E = true ∧ sregSteward 0x2E = false ∧ allHandler s (issuing s) = true ∧
      rdA s (lowest (issuing s)) 0x11 < 2) ∧
    (let s := dccRegs [(0x10, 0x40)];
      allReady [] s [.sregRd 0x3F 0x10, .sregWr 0x10 0x11] = true ∧ sregSteward 0x40 = true ∧ sregHandler 0x40 = false ∧ isDcc s.cur.g = true) := by decide +kernel
theorem wit_StewardInstructionsArePrivileged : issuing base ≠ 0 ∧ isDcc base.cur.g = false ∧ anyHandler base = false ∧
    (base.ctxOf (base.grp 0).ctx).trapent ≠ 0 ∧ (base.grp 0).inHandler = false ∧ creditsFree base 0 = true := by decide +kernel
/-- A readable record at 0x8000; one that is misaligned. -/
theorem wit_RegistrationResults :
    (let s := dccRegs [(0x10, 0x8000)];
      let t := writeBackCore (begun s 1) (ckOf s.cur.g);
      isDcc s.cur.g = true ∧ rdP s (lowest (issuing s)) 0x10 = 0x8000 ∧ (ctxWords t 0 (issueAsid t) 0x8000 8).isSome = true ∧
      (ctxWords t 0 (issueAsid t) 0x8000 4).isSome = true ∧ ctxWords t 0 (issueAsid t) 0x8000 8 = some (List.replicate 8 0) ∧
      allReady [] s [.opreg 0x3F 0x10, .traySet 0x3F 0x10, .beltSet 0x3F 0x10] = true) ∧
    (let s := dccRegs [(0x10, 0x8020)];
      rdP s (lowest (issuing s)) 0x10 % 64 ≠ 0 ∧ allReady [] s [.opreg 0x3F 0x10, .traySet 0x3F 0x10, .beltSet 0x3F 0x10] = true) := by decide +kernel
theorem wit_SystemResults :
    (let s := dccRegs [(0x10, 1)];
      ready (.genRaise 0x3F 0x10) [] s = true ∧ isDcc s.cur.g = true ∧ rdA s 0 0x10 < 65536 ∧ descOf s 0 1 = some programDesc ∧
      nextGen programDesc.curgen ≠ programDesc.floor ∧ raiseHolds s 1 = false) ∧
    (let s := { dccRegs [(0x10, 0x8000)] with grants := [(16 * 16, { task := 0 })] };
      ready (.ctxSave 0x3E 0x10 0x12 0x0000003D#32) [] s = true ∧ ready (.ctxLoad 0x3F 0x10 0x12 0x0000003D#32) [] s = true ∧ rdP s 0 0x10 < 2 ^ 56 ∧
      rdP s 0 0x10 % 64 = 0 ∧ teamWordBad (rdA s 0 0x12) = false ∧ syncFine s .command 0x0000003D#32 1 = true) ∧
    (let s := { base with ctxs := [(1, { programCtx with words := programCtx.words.set 2 0x0008FFFF#32 })] };
      ready .halt [] s = true ∧ isDcc s.cur.g = false ∧ (s.ctxOf (s.grp 0).ctx).dbg = true) ∧
    (ready .halt [] dcc = true ∧ isDcc dcc.cur.g = true) ∧
    (∀ v ∈ [0, 16, 32, 48, 1, 2], let s := dccRegs [(0x10, 1023), (0x11, v)];
      ready (.census 0x3F 0x10 0x11) [] s = true ∧ isDcc s.cur.g = true ∧ rdA s 0 0x11 = v) ∧
    ready (.pmcSnap 0x3F) [] base = true := by decide +kernel

/-- R46: a store takes one row of the channel that it names, and its lane's element of it. -/
theorem test_st_pops_channel :
    (let s := { regs [(0x10, 0x8000)] base with chans := [(15, { ctx := 1, prods := [0], cons := [0], rows := [[7], [8]] })] };
      match exec (.st 0x10 0xEF 0xFE) s with
      | .next t => (t.chan 0 15).rows == [[8]] && t.accs.map (fun a => a.2.data) == [7]
      | _ => false) = true := by decide +kernel

/-! ### Witnesses: memory, scratchpad and fences -/

/-- The last word, pair and run below 2^56, and a page below it. -/
def edge (d a b : Nat) : State := regs [(0x10, d % 2 ^ 32), (0x11, d / 2 ^ 32), (0x12, a % 2 ^ 32), (0x13, a / 2 ^ 32), (0x14, b)] base
theorem wit_AccessesLeaveTheCore :
    (∀ w ∈ [4, 8, 16], let s := edge (2 ^ 56 - w) (2 ^ 56 - w) 0;
      ∀ l ∈ lanes s, globalVa s l 0x12 (offOf s l 0x14) % w = 0 ∧ globalVa s l 0x12 (offOf s l 0x14) < 2 ^ 56 ∧
        globalVa s l 0x10 (offOf s l 0x14) % w = 0 ∧ globalVa s l 0x10 (offOf s l 0x14) < 2 ^ 56) ∧
    (let s := edge (2 ^ 56 - 65536) (2 ^ 56 - 65536) 0;
      (∀ l ∈ lanes s, globalVa s l 0x12 0 % 65536 = 0 ∧ globalVa s l 0x12 0 < 2 ^ 56) ∧
      allReady [] s [.ld 0x3F 0x12 0x14, .ldAcq 0x3F 0x12 0x14, .ldX2 0x3E 0x12 0x14, .ldX4 0x3C 0x12 0x14, .st 0x10 0x3F 0x14, .stRel 0x10 0x3F 0x14,
        .stX2 0x10 0x3E 0x14, .stX4 0x10 0x3C 0x14, .mdead 0x12] = true ∧
      readies s [0, 1, 6, 7] [.atomAdd 0x3E 0x12 0xDE, .atomMin 0x3E 0x12 0xDE, .atomMax 0x3E 0x12 0xDE, .atomAnd 0x3E 0x12 0xDE, .atomOr 0x3E 0x12 0xDE,
        .atomXor 0x3E 0x12 0xDE, .atomXchg 0x3E 0x12 0xDE, .atomCas 0x3E 0x12 0xDC, .redAdd 0x12 0xDE] = true ∧
      readies s [8] [.redAdd 0x12 0xDE] = true ∧ readies s [8, 9, 10] [.atomFadd 0x3F 0x12 0xDF] = true) := by decide +kernel
/-- The last word and run of a window of 16 KiB; and the same window with its last line mapped to 0x8000 and owned. -/
def winEdge : State := regs [(0x10, 16380), (0x11, 16368), (0x12, 0)] base
def mappedEdge : State :=
  { winEdge with teams := [(1, { programTeam with stash := [{ off := 16320, addr := 0x8000, len := 64 }] })]
                 stash := [(stashKey 1 255, { addr := 0x8000, ctx := 1, owned := true, bytes := List.replicate 64 1, dirty := 1#64 })] }
theorem wit_ScratchpadAndFenceResults :
    (∀ s ∈ [winEdge, mappedEdge],
      allReady [] s [.lds 0x3F 0x10 0x12, .ldsX4 0x3C 0x11 0x12, .sts 0x10 0x3F 0x12, .stsX4 0x11 0x3C 0x12] = true ∧
      (∀ l ∈ lanes s, rdA s l 0x10 % 4 = 0 ∧ rdA s l 0x10 + 4 ≤ (s.team 1).win ∧ needsFill s 1 (rdA s l 0x10) true = false ∧
        rdA s l 0x11 % 16 = 0 ∧ rdA s l 0x11 + 16 ≤ (s.team 1).win ∧ needsFill s 1 (rdA s l 0x11) true = false) ∧ s.l1 = [] ∧ s.l1sets = []) ∧
    (rangeAt (mappedEdge.team 1) 16380).isSome = true ∧
    (let s := winEdge; lanes s = [0] ∧ rangeAt (s.team 1) 16380 = none ∧ rangeAt (s.team 1) 16368 = none ∧ (s.grp 0).team = 1 ∧
      readies s [0, 1] [.atomsAdd 0x3F 0x10 0x12, .atomsCas 0x3F 0x10 0xDE] = true) ∧
    (allReady [] base [.fence, .fenceBank] = true ∧ (lanes base).all (fun l => (fenceAccs base 0 l (laneMode base l)).isEmpty) = true ∧ bankCmds base 0 = []) ∧
    (let s := regs [(0x10, 16320), (0x12, 0x8000), (0x14, 64)] base;
      ready (.stashMap 0x10 0xFE 0x14) [] s = true ∧ ready (.stashMap 0x10 0x12 0x14) [] s = true ∧ rdA s 0 0x10 % 64 = 0 ∧ rdA s 0 0x14 % 64 = 0 ∧
      64 ≤ rdA s 0 0x14 ∧ rdA s 0 0x10 + rdA s 0 0x14 ≤ (s.team 1).win ∧ rdP s 0 0x12 % 64 = 0 ∧ rdP s 0 0x12 + rdA s 0 0x14 ≤ 2 ^ 56 ∧
      ((s.team 1).stash.filter fun r => !overlap r.off r.len (rdA s 0 0x10) (rdA s 0 0x14)).length < 16 ∧
      (stripesOf (rdP s 0 0x12) (rdA s 0 0x14)).map (fun p => locate s 0 (issueAsid s) p) =
        [.at (mkLoc 0 (2 ^ 52 + 2 ^ 50 + 7 * 2 ^ 43 + 6) 0x8000)] ∧ stashStuck (begun s 1) (goneLines s 1 (rdA s 0 0x10) (rdA s 0 0x14)) = none ∧
      (let u := { s with teams := mappedEdge.teams, stash := mappedEdge.stash };
        goneLines u 1 (rdA u 0 0x10) (rdA u 0 0x14) ≠ [] ∧ stashStuck (begun u 1) (goneLines u 1 (rdA u 0 0x10) (rdA u 0 0x14)) = none ∧
        stashIn u 1 255 256 ≠ [] ∧ stashStuck (begun u 1) (stashIn u 1 255 256) = none ∧ rdA u 0 0x10 / 64 = 255 ∧
        (rdA u 0 0x10 + rdA u 0 0x14 + 63) / 64 = 256 ∧ allReady [] u [.stashMap 0x10 0xFE 0x14, .stashWb 0x10 0x14, .stashInv 0x10 0x14] = true) ∧
      (let l := mkLoc 0 (2 ^ 52 + 2 ^ 50 + 7 * 2 ^ 43 + 6) 0x8000;
        fR l.leaf = true ∧ fHs l.leaf = false ∧ l.host = false ∧ l.obs = false ∧ pkgOf l.gd = pkgOf (gdOf s.cur.g)) ∧
      allReady [] s [.stashWb 0x10 0x14, .stashInv 0x10 0x14, .pref 0x12 0x14] = true) := by decide +kernel

/-! ### Witnesses: commands -/

/-- The task of all 64 lanes holds the array of quad 0, and handle 255 there has two columns. -/
def arrayed : State := { crowd with arrays := [(0, { grant := some 0 })], handles := [{ qk := 0, task := 0, index := 255, first := 510, count := 2 },
  { qk := 0, task := 0, index := 254, first := 0, count := 1 }] }
def arrayRegs (rs : List (Nat × Nat)) : State := rs.foldl (fun s r => wr s 0 0 r.1 r.2) arrayed
theorem wit_MatrixInstructionResults :
    (matrixTogether arrayed (issuing arrayed) = true ∧ hasArray arrayed = true ∧ syncFine arrayed .command 0x0A008007#32 1 = true ∧
      badRegion arrayed 0 = none ∧ (boundRun arrayed 0 255).isSome = true ∧ (boundRun arrayed 0 254).isSome = true ∧
      allReady [] arrayed [.mwload 0x00 0xFF 0x0A008007#32, .mwswap 0x00 0x0A008007#32, .mma 0xFF 0x00 0xFE 0x0A008007#32, .mmaSp 0xFF 0x00 0xFE 0x0A008007#32,
        .maccZero 0xFF 0x00 0x0A008007#32, .maccRd 0x30 0x00 0xFF 0x0A008007#32] = true) ∧
    (let s := arrayRegs [(0x10, 64)];
      matrixTogether s (issuing s) = true ∧ ready (.mcolAlloc 0x00 0x10 0xF6) [] s = true ∧ lane0 s 0x10 = 64 ∧ boundRun s 0 0 = none ∧ freeRun s 0 64 = some 1) ∧
    (let s := { arrayRegs [(0x10, 1)] with handles := [{ qk := 0, task := 0, index := 255, first := 0, count := 512 }] };
      ready (.mcolAlloc 0x00 0x10 0xF6) [] s = true ∧ boundRun s 0 0 = none ∧ freeRun s 0 1 = none) ∧
    allReady [] arrayed [.mcolFree 0xFF, .mtileHdr 0xFF 0x3C] = true ∧ boundRun arrayed 0 255 = some (510, 2) ∧
    (let s := arrayRegs [(0x10, 2 ^ 32 - 64), (0x11, 2 ^ 24 - 1), (0x12, 64)];
      allReady [] s [.mtileLd 0xFF 0x10 0x12 0x0A008007#32, .mtileSt 0x10 0xFF 0x12 0x0A008007#32] = true ∧ rd64 s 0 0 0x10 < 2 ^ 56 ∧ rd64 s 0 0 0x10 % 64 = 0 ∧
      (∀ w, w ∈ [false, true] → loaderTrap s w (rd64 s 0 0 0x10) (lane0 s 0x12) = none) ∧ lane0 s 0x12 = 64) ∧
    (let s := { arrayRegs [(0x10, 7)] with rings := [(2, { split := true, slots := [⟨0, 1, 0, 0, [], false⟩] }), (3, { split := true, slots := [⟨0, 1, 0, 0, [], false⟩] })] };
      ready (.mcfg 0x10) [] s = true ∧ hasArray s = true ∧ lane0 s 0x10 < 8 ∧ (bitOf 7 2 = true → bitOf 7 0 = true) ∧
      (∀ r < 2, bitOf 7 (1 + r) = true → ringReady s 0 r (bitOf 7 0) = true) ∧ changedRegions (cfgAhead s 0) 7 ≠ 0) := by decide +kernel
theorem wit_MoverCommandsIssue :
    (let s := edge 0x8000 0x9000 4;
      syncFine s .command 0x0A008007#32 1 = true ∧ overlap 0x8000 4 0x9000 4 = false ∧ issueHomed s 0x8000 4 = true ∧ issueHomed s 0x9000 4 = true ∧
      rdP s 0 0x10 = 0x8000 ∧ rdP s 0 0x12 = 0x9000 ∧ rdA s 0 0x14 = 4 ∧
      allReady [] s [.movCpy 0x10 0x12 0x14 0x0A008007#32, .putCmd 0x10 0x12 0x14 0x0A008007#32, .getCmd 0x10 0x12 0x14 0x0A008007#32] = true) ∧
    (let s := edge 0x8000 0x9000 256;
      allReady [] s [.movGth 0x10 0x12 0x14 0x0A008007#32, .movSct 0x12 0x10 0x14 0x0A008007#32, .ratom 0x3E 0x10 0x3C 0x0A008007#32] = true ∧
      rdA s 0 0x14 = 256 ∧ (∀ l ∈ lanes s, issueHomed s (0x8000 + l * 256) 256 = true ∧ issueHomed s (rdP s l 0x12) 256 = true ∧ rdP s l 0x12 % 4 = 0 ∧
        rdP s l 0x12 + 256 ≤ 2 ^ 56) ∧ laneK s 0 < 8) := by decide +kernel
/-- The mapped page pinned, k = 256; and a communicator 4095 of two ranks, the task being rank 0. -/
def pinned : State :=
  { regs [(0xFF, 256)] (edge 0x8000 0x8000 0) with mem := setBytes base.mem 0x50000 (leBytes (2 ^ 52 + 2 ^ 50 + 23 * 2 ^ 43 + 6) 8) }
def ranked : State :=
  { regs [(0xFF, 64), (0x16, 0xFFF00000)] (edge 0x8000 0x9000 0) with
    ctxs := [(1, { programCtx with words := programCtx.words.set 12 0x62000#32 })]
    mem := setBytes (setBytes base.mem (0x62000 + 16 * 4095) (leBytes 0x80000002 4 ++ leBytes 0 4 ++ leBytes 0x74000 8)) 0x74000 (leBytes 0 8 ++ leBytes (1 + 2 ^ 32) 8) }
theorem wit_BankAndCollectiveCommandsIssue :
    (let s := pinned;
      syncFine s .command 0x0A008007#32 1 = true ∧ isSto (laneMode s 0) = false ∧ bankTrap s [0x8000, 0x8000, 0x8000] 256 = none ∧
      bankTrap s [0x8000, 0x8000] 256 = none ∧ bankTrap s [0x8000] 256 = none ∧ partAlias s 0x8000 [0x8000, 0x8000] 256 = none ∧ laneK s 0 = 256 ∧
      rdP s 0 0x10 = 0x8000 ∧ cvtControlBad 0 (laneType s 0) = false ∧
      allReady [] s [.bopAdd 0x10 0x12 0x12 0x0A008007#32, .bopMax 0x10 0x12 0x12 0x0A008007#32, .bopCvt 0x10 0x12 0x14 0x0A008007#32,
        .bopFill 0x10 0x14 0x0A008007#32] = true ∧ isSto (laneMode (typed 8 s) 0) = false ∧ readies s [8, 9, 10] [.bopAxpy 0x10 0x12 0x14 0x0A008007#32] = true) ∧
    (let s := ranked;
      isSto (laneMode s 0) = false ∧ collRank s 0 1 4095 0 = some 0 ∧ (commRanks s 0 1 4095).map List.length = some 2 ∧ rdA s 0 0x16 = 0xFFF00000 ∧ laneK s 0 = 64 ∧
      overlap 0x8000 (2 * 64) 0x9000 (2 * 64) = false ∧ syncFine s .command 0x0A008007#32 1 = true ∧
      allReady [] s [.collAr 0x10 0x12 0x16 0x0A008007#32, .collAg 0x10 0x12 0x16 0x0A008007#32, .collRs 0x10 0x12 0x16 0x0A008007#32,
        .collA2a 0x10 0x12 0x16 0x0A008007#32, .collBc 0x10 0x12 0x16 0x0A008007#32] = true) := by decide +kernel

/-! ### Witnesses: channels, semaphores, tasks and records -/

theorem wit_ChannelAndTaskResults :
    (let s := regs [(0x10, 3)] base;
      isCh 0x10 = false ∧ rdA s 0 0x10 = 3 ∧ allReady [] s [.chOpen 0x0F 0x10] = true ∧ Tab.has s.chans (chanKey 0 15) = false) ∧
    (let s := { regs [(0x10, 1)] base with chans := [(15, { ctx := 1, prods := [0], cons := [0], rows := [[1]] })] };
      ready (.chClose 0x0F 0x10) [] s = true ∧ rdA s 0 0x10 = 1 ∧ Tab.find? s.chans (chanKey 0 15) = some { ctx := 1, prods := [0], cons := [0], rows := [[1]] }) ∧
    (let s := edge 0 (2 ^ 56 - 1) 65535;
      rdA s 0 0x14 < 65536 ∧ rdP s 0 0x12 < 2 ^ 56 ∧ syncFine s .command 0x0A008007#32 1 = true ∧ freeEntryOf s 0 = some 1 ∧ rootDie s 0 = 0 ∧
      allReady [] s [.taskPost 0x3F 0x12 0x14 0x0A008007#32, .launch 0x3F 0x12 0x14 0x0A008007#32] = true) ∧
    (let s := { regs [(0x10, 0), (0x11, 16383), (0x12, 1)] base with
                  entries := [(0, programEntry), (16383, { words := programEntry.words, ctx := 1, st := .waiting, dep := 65534 })] };
      allReady [] s [.taskDep 0x10 0x11, .taskSig 0x11 0x12] = true ∧ strayTask 0 0 = false ∧ strayTask 0 16383 = false ∧ entryOf 16383 = 16383 ∧
      (s.entry 16383).st = .waiting ∧ (s.entry 0).st = .running ∧ (s.entry 0).ctx = (s.grp 0).ctx ∧ (s.entry 16383).dep < 65535 ∧ rdA s 0 0x12 < 2) ∧
    (let s := regs [(0x10, 63)] base;
      ready (.taskPull 0x3F 0x10 0x11) [] s = true ∧ anyHandler s = false ∧ issuing s = liveLanes s 0 ∧ rdA s 0 0x10 < 64 ∧ dGroups (s.entry 0).words = 1) := by decide +kernel
/-- Semaphore 15 of the granted block. -/
theorem wit_SemaphoreReads : ready (.semaRd 0x3F 0x0F) [] base = true ∧ semGranted base 0 15 = true := by decide +kernel
theorem wit_SemaphoreResults : ∀ w ∈ [0x400, 0x3FF, 0x80000000], let s := { regs [(0x10, w)] base with sems := [(15, { count := if w = 0x400 then 1024 else 0 })] };
    ready (.semaAdd 0x0F 0x10) [] s = true ∧ semGranted s 0 15 = true ∧ rdA s 0 0x10 = w ∧ modeScope (laneMode s 0) = 0 ∧ undone s 0 (issuing s) = [] ∧
    (w = 0x400 → bitsOf w 29 11 = 0 ∧ bitOf w 31 = false ∧ semaDelta w = -1024 ∧ 0 ≤ ((s.sem 0 15).count : Int) + semaDelta w) ∧
    (w = 0x3FF → bitsOf w 29 11 = 0 ∧ semaDelta w = 1023 ∧ ((s.sem 0 15).count : Int) + (s.sem 0 15).pending + semaDelta w ≤ 1023) := by decide +kernel
/-- A lane whose task holds record 65535. -/
def holder : State :=
  { regs [(0x10, 65535), (0x11, 15), (0x12, 0)] base with recs := [(65535, { st := .held 0, words := List.replicate 16 0 })], trays := [(63, { oper := 0 })] }
theorem wit_TokenInstructionResults : lanes holder = [0] ∧ handleRec holder 0 (rdA holder 0 0x10) = some 65535 ∧ freeSlot holder 0 = some 0 ∧
    trayOf holder 0 (recOper (holder.recAt 65535)) = some 63 ∧ rdA holder 0 0x12 < 65536 ∧ syncFine holder .command 0x0A008007#32 1 = true ∧
    kindOf (((List.range 16).map fun i => rd holder 0 0 (0x20 + i)).getD 3 0) ≠ 3 ∧ rdA holder 0 0x11 % 16 ≠ 3 ∧
    allReady [] holder [.tokNew 0x3F 0x20, .tokRd 0x3F 0x10 0x11, .tokWr 0x10 0x12 0x11, .tokRet 0x10, .tokNext 0x10, .tokSend 0x10 0x12 0x0A008007#32] = true := by
  decide +kernel

/-! ### Witnesses: events of groups, accesses and commands -/

/-- Group 0 with some of its fields as a function gives them. -/
def grp0 (f : Group → Group) (s : State) : State := s.modGrp 0 f
def atBound (i : Instr) (w : BitVec 32) (n : Nat) : State := standAt i w (begun base n) (issuing base)
/-- Two lanes wait at two barriers, each for the other. -/
def stuck2 : State :=
  { base with lanes := [(0, { pc := 0x1000#56, stand := .cbar 0 }), (1, { pc := 0x1010#56, stand := .cbar 1 })]
              groups := [(0, { task := 0, ctx := 1, team := 1, banks := 4, active := 3#64, cbars := [(0, ⟨3#64, 1#64⟩), (1, ⟨3#64, 2#64⟩)] })] }
theorem wit_GroupAndConvergenceEvents :
    (∀ j ∈ lanesIn (pathWith base 0 0), (base.lane 0 j).waitUntil ≤ base.cycle) ∧ 64 ≤ ((grp0 (fun x => { x with runCount := 64 }) base).grp 0).runCount ∧
    256 ≤ ((grp0 (fun x => { x with waited := 256 }) base).grp 0).waited ∧
    boundaryReady (atBound .yieldGroup 0 1) 0 = some (0x1000#56, .yieldGroup) ∧
    (∀ j ∈ lanesIn (liveLanes (atBound .yieldGroup 0 1) 0), ((atBound .yieldGroup 0 1).lane 0 j).failed = []) ∧
    (boundaryReady (atBound (.suspGroup 0x7FFFFF#24 0x00004002#32) 0x00004002#32 2) 0 = some (0x1000#56, .suspGroup 0x7FFFFF#24 0x00004002#32) ∧
      sEn 0x00004002#32 = false) ∧
    (let s := atBound (.endGroup 0x0000003D#32) 0x0000003D#32 2;
      boundaryReady s 0 = some (0x1000#56, .endGroup 0x0000003D#32) ∧ wbFailOf s 0 (s.ctxOf (s.grp 0).ctx).asid = none ∧
      ∀ j ∈ lanesIn (liveLanes s 0), (s.lane 0 j).failed = []) ∧
    (let s := atBound (.syncGroup 0 0x0000003D#32) 0x0000003D#32 2;
      boundaryReady s 0 = some (0x1000#56, .syncGroup 0 0x0000003D#32) ∧ coreClean (writeBackCore s 0) 0 = true ∧
      wbFailOf (writeBackCore s 0) 0 (s.ctxOf (s.grp 0).ctx).asid = none) ∧
    contReady (grp0 (fun x => { x with susp := some { cont := 0x2000#56 } }) base) 0 = some { cont := 0x2000#56 } ∧
    (stalled stuck2 0 = true ∧ (∀ l ∈ lanesIn (liveLanes stuck2 0), (stuck2.lane 0 l).inHandler = false) ∧
      (stuck2.ctxOf (stuck2.grp 0).ctx).trapent ≠ 0 ∧ creditsFree stuck2 0 = true) := by decide +kernel
theorem wit_FiringStarts : (liveLanes crowd 0).getLsbD 0 = true ∧ (liveLanes crowd 0).getLsbD 63 = true := by decide +kernel
/-- The leaves that map page 0 of ASID 1. -/
def leaf6 : Nat := 2 ^ 52 + 2 ^ 50 + 7 * 2 ^ 43 + 6
/-- A load of the word at 0x8000 that has issued, and the answer in the caches of its die and home. -/
def load0 : Acc := { op := .load, g := 0, ck := 0, ctx := 1, asid := 1, task := 0, lane := 0, hold := 5, pc := 0x1000#56, va := 0x8000, width := 4, dst := [0x10],
                     scope := 3 }
def loading : State :=
  { lane0s (fun y => { y with stand := .held }) base with
    accs := [(7, load0)], hlb := [(hlbKey 0 1 0x8000, { gen := 1, leaf := 2#64 })], ctc := [(ctcKey 0 1 0x8000, { gen := 1, leaf := BitVec.ofNat 64 leaf6 })] }
/-- A load or store of 0x8000 on its way to its home, and one that has been performed there. -/
def going (f : Acc → Acc) : State := { loading with accs := [(7, f { load0 with home := 0, key := 0x8000, leaf := leaf6, stage := .going, sent := true })] }
def store0 (a : Acc) : Acc := { a with op := .store, data := 0xAABBCCDD, enable := 0xF, ret := false, dst := [] }
def done0 (a : Acc) : Acc := { a with stage := .done, value := 0x1234 }
theorem wit_TranslationEvents : raiseHolds base 1 = false ∧ walkHome base 0 1 0xFFFF = .ok 2 ∧ (∀ il < 8, walkFrame base 0 1 il 0xFFFF = .ok leaf6) ∧
    (let es := holdAccs loading 0 5;
      let w := es.foldl answerOne { s := loading };
      es ≠ [] ∧ accGated loading 0 = false ∧ (∀ e ∈ es, accAns loading e.2 ≠ .wait) ∧ movedAccs loading es = [] ∧ absentOf loading es = none ∧ w.missed = [] ∧ w.trapped = [] ∧ w.served = [0]) ∧
    (accAns loading load0 = .go 0 0x8000 leaf6 ∧ leaf6 ≠ 0 ∧ load0.scope ≠ 0 ∧
      let b : Acc := { load0 with home := 0, key := 0x8000, leaf := leaf6, stage := .going, sent := true, sentAt := loading.cycle, route := routeDies loading 0 0 }
      accTrap loading b b.loc = none) := by decide +kernel
/-- The access of a state above; and a dirty line that a stash owns. -/
def acc7 (s : State) : Acc := (Tab.find? s.accs 7).getD load0
def blocked (s : State) : State := { s with l1sets := [(l1SetKey 0 0x8000, [{ asid := 1, line := 0x200, first := 0, words := 1, leaf := leaf6 }])] }
def near0 (a : Acc) : Acc := { a with scope := 0 }
def owned0 (d : BitVec 64) : StashLine := { addr := 0x8000, ctx := 1, owned := true, bytes := List.replicate 64 1, dirty := d }
def stashed (x : StashLine) : State := { base with stash := [(stashKey 1 255, x)] }
def back0 (x : StashLine) (s : State) : Option State := backTo s x.ck (s.ctxOf x.ctx).asid x.ctx x.addr x.dirty.toNat (x.bytes.map BitVec.toNat) [x.task]
theorem wit_AccessAndStashEvents :
    (let s := { going store0 with dead := [(pageKey 0 6, true)] }; isDead s 0 6 = true ∧ writeWaits s 0 6 = true) ∧
    (∀ f ∈ ([id, store0] : List (Acc → Acc)), let s := going f; canPerform s 7 (acc7 s) = true ∧ isNear s (acc7 s) = false ∧ wholeRun s (acc7 s) = [] ∧
      (performAcc s (acc7 s) (wasHeld s 7)).isSome = true) ∧
    (let s := blocked (going near0); canPerform s 7 (acc7 s) = true ∧ isNear s (acc7 s) = true ∧ (acc7 s).op = .load ∧ nearServe s (acc7 s) = none ∧ wholeRun s (acc7 s) = [] ∧
      (performAcc s (acc7 s) (wasHeld s 7)).isSome = true) ∧
    (let s := blocked (going fun a => near0 (store0 a)); canPerform s 7 (acc7 s) = true ∧ isNear s (acc7 s) = true ∧ (nearServe s (acc7 s)).isSome = true) ∧
    (∀ d ∈ [0x10, 0xBF], let s := going fun a => { done0 a with dst := [d] }; answerable s (acc7 s) = true ∧ (acc7 s).ret = true ∧ dstChan (acc7 s) = none ∧ d < 0xC0 ∧
      (acc7 s).dst = [d] ∧ (acc7 s).mute = false ∧ (acc7 s).flags = 0) ∧
    (let s := going fun a => { done0 a with dst := [0xEF] }; answerable s (acc7 s) = true ∧ (acc7 s).ret = true ∧ dstChan (acc7 s) = some 15 ∧ rowReady s (acc7 s) = true) ∧
    (let s := going fun a => done0 (store0 a); answerable s (acc7 s) = true ∧ (acc7 s).ret = false) ∧
    (∀ x, Tab.find? (stashed x).stash (stashKey 1 255) = some x) ∧ (∀ d, (owned0 d).owned = true) ∧ (owned0 1#64).dirty ≠ 0 ∧
    (back0 (owned0 1#64) ((stashed (owned0 1#64)).event 0 0 43 1)).isSome = true ∧
    (back0 (owned0 1#64) ({ stashed (owned0 1#64) with descs := [] }.event 0 0 43 1)).isNone = true := by
  refine ⟨?_, ?_, ?_, ?_, ?_, ?_, ?_, fun x => rfl, fun d => rfl, ?_, ?_, ?_⟩ <;> decide +kernel
theorem wit_AccessFailureEvents :
    (∀ c ∈ [cDATA_LOST, cPROTECTION], let s := going fun a => { a with stage := .failed c };
      accGated s (acc7 s).g = false ∧ Tab.has s.groups (acc7 s).g = true ∧ (acc7 s).stage = .failed c) ∧
    (let s := going id; accGated s (acc7 s).g = false ∧ Tab.has s.groups (acc7 s).g = true ∧ (acc7 s).stage = .going ∧ (acc7 s).op.isAtomic = false) ∧
    (let s := going fun a => { a with op := .add }; (acc7 s).stage = .going ∧ (acc7 s).op.isAtomic = true ∧ (acc7 s).sent = true ∧ hostLost s (acc7 s) = false) ∧
    (∀ f ∈ ([id, fun a => { a with op := .add }] : List (Acc → Acc)),
      let s := { going fun a => { done0 (f a) with home := 64 } with pkgs := [(0, { booted := true, lostPkgs := [1] })] };
      answerLate s (acc7 s) = true ∧ accGated s (acc7 s).g = false ∧ Tab.has s.groups (acc7 s).g = true ∧ hostLost s (acc7 s) = false ∧ (acc7 s).sent = true) ∧
    (let s := going fun a => { a with home := 64 }; (acc7 s).stage = .going ∧ stewardAsid s (acc7 s).asid = false ∧
      (firstDrop s 0 64).map (fun d => d.2.1) = some 4) ∧
    (let s := going fun a => { done0 a with home := 64 }; answerDropped s (acc7 s) = true ∧ (firstDrop s 64 0).map (fun d => d.2.1) = some 4) := by
  refine ⟨?_, ?_, ?_, ?_, ?_, ?_⟩ <;> decide +kernel
/-- A command of group 0, and a state in which it runs. -/
def cmd0 : Cmd := { op := .movCpy, g := 0, task := 0, ctx := 1, gd := 0, ck := 0, d := 0x8000, a := 0x9000, b := 64, mode := 0x00070000#32, issuedAt := 0 }
def running0 (c : Cmd) : State := { base with cmds := [(9, { c with started := true })] }
def live0 (c : Cmd) : Bool := cmdLive (running0 c) 9 { c with started := true }
theorem wit_CommandStartsAndSignals :
    (∀ k ∈ ([.movCpy, .put, .ratom, .bopAdd, .collBc, .taskPost, .ctxSave] : List CmdOp), let s := { base with cmds := [(9, { cmd0 with op := k })] };
      startable s 9 { cmd0 with op := k } = true ∧ waitMet s 0 0#32 = some true ∧ wEn 0#32 = false ∧ k.kind ∈ [.mover, .remote, .bank, .coll, .table, .image]) ∧
    (let c : Cmd := { cmd0 with sync := 0x00004002#32 };
      let s := { base with cmds := [(9, c)], sems := [(0, { fault := true })] }; startable s 9 c = true ∧ waitMet s c.ck c.sync = some false) ∧
    (∀ t ∈ ([none, some (0, true)] : List (Option (Nat × Bool))), let x : Sig := { ck := 0, sem := 15, delta := 1023, fset := false, g := 0, accs := [], wide := true, task := t };
      sigReady { base with sigs := [(9, x)] } x = true) ∧
    ((grp0 (fun x => { x with service := some (.dep 0 16384) }) base).grp 0).service = some (.dep 0 16384) ∧
    (Tab.find? ({ base with msgs := [(9, ⟨.depDec 0 16384 false, 0⟩)] } : State).msgs 9 = some ⟨.depDec 0 16384 false, 0⟩) := by decide +kernel
theorem wit_MemoryCommandsAndTrailingPuts :
    live0 cmd0 = true ∧ (copyRun (running0 cmd0) { cmd0 with started := true }).2.2.isNone = true ∧
    (∀ k ∈ ([.movGth, .movSct] : List CmdOp), let c : Cmd := { cmd0 with op := k, b := 4, lanes := [{ lane := 63, x := 0x9000 }] }; let s := running0 c;
      let place (v : LaneVal) : Nat := c.d + v.lane * c.b
      live0 c = true ∧ (match readMany c.gd c.ck (c.asid s) (c.lanes.map fun v => (if c.op = .movGth then v.x else place v, c.b)) s c.who with
        | .ok (t, bs) => decide (c.image = [] ∧ c.pos = 0 ∧ (writeList c.gd c.ck (c.asid t) (c.kslot t) ((c.lanes.zip (List.range c.lanes.length)).flatMap fun v =>
            cutPieces (if c.op = .movGth then place v.1 else v.1.x) ((bs.flatten.drop (v.2 * c.b)).take c.b)) t c.who).2.2.isNone = true)
        | .error _ => false) = true) ∧
    (∀ k ∈ ([.put, .get] : List CmdOp), let c : Cmd := { cmd0 with op := k, started := true };
      live0 c = true ∧ firstDropped (running0 c) c c.d c.b = none ∧ firstDropped (running0 c) c c.a c.b = none ∧ (copyRun (running0 c) c).2.2.isNone = true) ∧
    (let c : Cmd := { cmd0 with op := .ratom, d := 0x3E, dst := [(0x3E, 2)], lanes := [{ lane := 0, x := 0x8000, y := 1, z := 0 }], started := true };
      live0 c = true ∧ (ratomRun 9 c [] c.lanes (running0 c)).2.2.isNone = true ∧ grpLive (ratomRun 9 c [] c.lanes (running0 c)).1 c = true ∧ c.d ≠ 0xFE) ∧
    (let c : Cmd := { cmd0 with op := .bopAdd, a := 0x8000, b := 0x8000, k := 256, started := true }; let s := { pinned with cmds := [(9, c)], bankQs := [(1023, [(9, 0)])] };
      cmdLive s 9 c = true ∧ c.op.kind = .bank ∧ 1023 < 1024 ∧ Tab.get s.bankQs (c.bank.1 * 1024 + 1023) [] = [(9, 0)] ∧
      (match bankReads c.gd c.ck (c.asid s) ((bankSources c).flatMap fun a => pieces (a + 0) 256) s with
        | .ok (t, bs) => (match bankWrites c.gd c.ck (c.asid s) (c.kslot t) c.site (pieces (c.d + 0) 256) (bankPiece c (bs.take 256) (bs.drop 256)).1 t with
          | .ok _ => true
          | .error _ => false)
        | .error _ => false) = true) ∧
    (let c : Cmd := { cmd0 with op := .put, trailing := true, started := true }; live0 c = true ∧ (trailRun (running0 c) c).2.2.isNone = true) ∧
    (let c : Cmd := { cmd0 with op := .put, trailing := true, started := true }; let s := { running0 c with bad := [(0x69000 / 64, true)] };
      cmdLive s 9 c = true ∧ (match (trailRun s c).2.2 with
        | some (.cause k _ _) => decide (k ≠ cGUARD_DROP)
        | _ => false) = true) := by decide +kernel
/-- A legal descriptor of a CONSUMER task at 0x9000. -/
def posted (c : Cmd) (d0 : Nat) : State :=
  { running0 c with mem := setBytes base.mem 0x69000 (leBytes d0 4 ++ leBytes 0x00010000 4 ++ leBytes 0x1000 4 ++ leBytes 0 24 ++ leBytes 1 4) }
theorem wit_TaskCommandsComplete :
    (let c : Cmd := { cmd0 with op := .taskPost, d := 0x3F, a := 0x9000, b := 0, pos := 16383, started := true }; let s := posted c 0xA2020100;
      cmdLive s 9 c = true ∧ (match readRange s c.gd c.ck (c.asid s) c.a 64 c.who with
        | .ok (t, bs) => decide (coreClean (writeBackCore t c.ck) c.ck = true ∧ 2 ≤ dType (wordsOfBytes bs 16) ∧ dType (wordsOfBytes bs 16) ≤ 5 ∧ (heldSlots t c.task).length ≤ 64 ∧ descOk (t.ctxOf c.ctx) (wordsOfBytes bs 16) = true)
        | .error _ => false) = true) ∧
    (let c : Cmd := { cmd0 with op := .launch, d := 0x3F, a := 0x9000, b := 0, pos := 16383, started := true }; let s := posted c 0x02020100;
      cmdLive s 9 c = true ∧ (match readRange s c.gd c.ck (c.asid s) c.a 64 c.who with
        | .ok (t, bs) => decide (coreClean (writeBackCore t c.ck) c.ck = true ∧ dType (wordsOfBytes bs 16) = 0 ∧ descOk (t.ctxOf c.ctx) (wordsOfBytes bs 16) = true)
        | .error _ => false) = true) ∧
    (let c : Cmd := { cmd0 with op := .tokSend, d := 0, a := 65535, pos := 0, started := true };
      let s := { holder with cmds := [(9, c)], trays := [(63, { oper := 0, bufs := [{}] })] };
      cmdLive s 9 c = true ∧ coreClean (writeBackCore s c.ck) c.ck = true ∧ (writeBackCore s c.ck).recs = s.recs ∧ homeLost s c.gd c.d = false ∧
      routeOpen s c.gd c.d = true ∧ slotsOn s (c.asid s) c.gd c.d = true ∧ trayOf s c.d (recOper (s.recAt c.a)) = some 63 ∧ freeSlot s c.d = some 0 ∧ canTake s 63 = true) ∧
    (∀ n ∈ [1, 2], let c : Cmd := { cmd0 with op := .tokSend, a := 65535, pos := n, started := true }; let s := { holder with cmds := [(9, c)] };
      cmdLive s 9 c = true ∧ (s.entry c.task).st = .running) := by decide +kernel

/-! ### Witnesses: the array, collectives, tasks, Trays and Belts -/

/-- Handle 255 has columns 510 and 511, with a header of a tile of one row there and in the memory at 0x8000. -/
def arrayCmd (c : Cmd) : State :=
  { arrayed with cmds := [(9, { c with started := true })], banks := [(0, { hdr := [0, 0, 0, 0], bytes := [], scales := [] })] }
def acmd (op : CmdOp) : Cmd := { cmd0 with op := op, d := 255, a := 0x8000, b := 64, handles := [(255, 510, 2)], started := true }
theorem wit_ArrayCommandsAndConfiguration :
    (let c := { acmd .mtileLd with b := 128 };
      let s := { running0 c with mem := setBytes base.mem 0x68000 (leBytes (2 ^ 24 + 7) 4 ++ leBytes 16 4 ++ leBytes 0 8), handles := arrayed.handles };
      cmdLive s 9 c = true ∧ c.op = .mtileLd ∧ (match readRange s c.gd c.ck (c.asid s) c.a 16 c.who with
        | .ok (t, hb) =>
          let ws := (List.range 4).map fun i => leValue ((hb.drop (4 * i)).take 4)
          (parseHdr ws).okTile t c.qk c.task c.b (c.run c.d).2 && (match readRange t c.gd c.ck (c.asid t) (c.a + 64) (c.b - 64) c.who with
            | .ok _ => true
            | .error _ => false)
        | .error _ => false) = true) ∧
    (let c := { acmd .mtileSt with b := 128, image := [2 ^ 24 + 7, 16, 0, 0] }; let s := arrayCmd c;
      cmdLive s 9 c = true ∧ (writeRange s c.gd c.ck (c.asid s) (c.kslot s) c.a
        ((c.image.flatMap fun w => leBytes w 4) ++ List.replicate 48 0 ++ tileBytes s c.qk (c.run c.d).1 (parseHdr c.image)) c.who).2.isNone = true) ∧
    (∀ k ∈ ([.mwload, .mwswap, .mma, .mmaSp, .maccZero, .maccRd] : List CmdOp), let c := { acmd k with a := 0 }; let s := arrayCmd c;
      Tab.find? s.cmds 9 = some c ∧ cmdLive s 9 c = true ∧ (s.bank (bankKey c.qk c.a 0)).tile?.isSome = true ∧ grpLive s c = true) ∧
    (let c : Cmd := { acmd .mtileSt with loading := true }; let s : State := { arrayed with cmds := [(9, c)] };
      c.loading = true ∧ raiseHolds s (c.asid s) = false ∧ ((loaderLook s c.gd (c.asid s) c.a c.b).all fun f => match f.2 with
        | .at l => !l.absent && !l.obs && fR l.leaf && fWr l.leaf
        | _ => false) = true) ∧
    (∀ r ∈ [0, 1], let c : Cmd := { acmd .mcfg with a := 7, pos := 3 };
      let s : State := { arrayCmd c with arrays := [(0, { grant := some 0, inForce := 7 })], rings := [(ringKey 0 r true, {})] };
      queueTurn s 9 c = true ∧ bitOf c.pos r = true ∧ bitOf (s.array c.qk).inForce (1 + r) = true ∧
        Tab.find? s.rings (ringKey c.qk r (bitOf (s.array c.qk).inForce 0)) = some {}) := by decide +kernel
/-- Two commands of communicator 4095, of ranks 0 and 1. -/
def gathering (op : CmdOp) (k : Nat) : State :=
  let c : Cmd := { cmd0 with op := op, b := 0xFFF00000, k := k, started := true }
  { ranked with cmds := [(9, c), (10, { c with d := 0x8800, a := 0x9800, rank := 1 })] }
theorem wit_CollectiveEvents :
    (∀ k ∈ ([.collAr, .collBc] : List CmdOp), let s := gathering k 64; let comm := 4096 + 4095;
      let ms := members s comm; let rs := ranksOf s comm ms;
      collLive s ms rs = true ∧ collGuard s ms = none ∧ (match collRelease s ms with
        | none => false
        | some v => let t := (captureAll rs.length ms v).1;
          (captureAll rs.length ms v).2.isNone && (deliverAll (members t comm) (members t comm) t).2.isNone) = true) ∧
    (let s := { gathering .collAr 64 with cmds := (gathering .collAr 64).cmds.map fun e : Nat × Cmd => (e.1, { e.2 with aborted := true }) };
      (aborting s (4096 + 4095)).length = 2 ∧ (collRelease s (aborting s (4096 + 4095))).isSome = true) ∧
    (∀ p ∈ ([(.collAr, 1, 15), (.collRs, 0, 15), (.collAg, 1, 127), (.collBc, 0, 63)] : List (CmdOp × Nat × Nat)), let s := gathering p.1 64; let comm := 4096 + 4095;
      let ms := members s comm; let rs := ranksOf s comm ms; let src := p.2.1; let elem := p.2.2;
      (match Tab.find? s.cmds 9, collRelease s ms with
        | some c, some v => decide (cmdLive s 9 c = true ∧ c.op.isColl = true ∧ c.aborted = false ∧ c.image = [] ∧ commKey c = comm ∧ collLive s ms rs = true ∧
            (∀ m ∈ ms, m.2.image = []) ∧ elem + 1 = recvCount c rs.length ∧ src ∈ sources c rs.length elem ∧ (memberOf ms c.rank).map Prod.fst = some 9 ∧
            c.arrived.contains (src, elem) = false ∧ collGuard s ms = none ∧ c.a ≠ c.d) && (match memberOf (members v comm) src with
            | none => false
            | some m => match takeElem v m (sendOff c elem) with
              | .error _ => false
              | .ok t => match memberOf (members t comm) c.rank with
                | some (9, x) => (writeRange t x.gd x.ck (x.asid t) (x.kslot t) (x.d + collWidth x * elem) (recvElem (members t comm) x elem
                    (((x.arrived ++ [(src, elem)]).filter fun a : Nat × Nat => a.2 == elem).map Prod.fst)) x.who).2.isNone
                | _ => false)
        | _, _ => false) = true) := by
  refine ⟨?_, ?_, ?_⟩ <;> decide +kernel
/-- Entry 1 of die 0 from its descriptor's D0 (a Ready task of one group), with more as a function gives it. -/
def queued (d0 : Nat) (f : Entry → Entry) : State :=
  { base with dies := [(0, { up := true, partcfg := 0x80000000#32 }), (1, { up := true, partcfg := 0x80000000#32 })], entries := Tab.put base.entries 1 (f { words := [w32 d0, 0, 0x1000#32, 0, 0, 0, 0, 0, 0, 128#32, 0, 0, 0, 0, 0, 0], ctx := 1, st := .ready }) }
/-- Group 0 waits in TASK.PULL for any kind. -/
def pulling (s : State) : State := s.modGrp 0 fun x => { x with service := some (.pull 0x3D 63 5 100 1#64) }
def argsOk (a : Args) : Bool := match a with
  | .ok _ => true
  | _ => false
theorem wit_DispatchAndPullEvents :
    (let s := queued 0xA2020100 id; let x := s.entry 1; let t := readyState (passEarlier s 0 1) x;
      dType x.words ≠ 0 ∧ x.saves = [] ∧ needsDecision s 1 = false ∧ nextDispatch s 0 = some (1, 1, 0) ∧
        slotsOk t 1 0 (dCores x.words) (dGroups x.words) [31] = true ∧ argsOk (argsOf t 1) = true) ∧
    (let s := queued 0x02020100 fun x => { x with parts := [(0, 0), (0, 0), (0, 0), (0, 128)] }; let x := s.entry 1; let t := readyState (passEarlier s 0 1) x;
      dType x.words = 0 ∧ x.saves = [] ∧ nextDispatch s 0 = some (1, 3, 0) ∧ slotsOk t 3 0 (dCores x.words) (dGroups x.words) [0] = true ∧
        argsOk (argsOf t 1) = true) ∧
    (let x := ({ queued 0xA2020100 id with cycle := 65536 } : State).entry 1; x.st = .ready ∧ x.root = false ∧ x.level < 3 ∧ x.since + 65536 ≤ 65536) ∧
    (let s := { pulling (queued 0xA2020100 id) with cycle := 100 }; (s.grp 0).service = some (.pull 0x3D 63 5 100 1#64) ∧ s.cycle ≥ 100) ∧
    (let s := pulling (queued 0xA2020100 id); nextPull s (gdOf 0) = some (5, 0, 1) ∧ argsOk (argsOf s 1) = true) ∧
    (let x := (queued 0xA2020100 id).entry 1; x.rows = [] ∧ ([1, 2] : List Word).length ≤ 32) := by decide +kernel
theorem wit_RangeAndTaskEndEvents :
    (let s := queued 0x02020100 fun x => { x with root := true }; let x := s.entry 1; let ds := rangeDies s 1;
      let ps := ((splitRange (dBegin x.words) (dEnd x.words) (64 * dGroups x.words) ds.length).zip ds).filter fun p => decide (p.1.1 < p.1.2);
      x.st = .ready ∧ x.root = true ∧ argsOk (argsOf s 1) = true ∧ dBegin x.words < dEnd x.words ∧ 1 < ps.length) ∧
    (let s := queued 0x02020100 fun x => { x with root := true, st := .running, held := [(0, 0, 64), (0, 64, 128)] }; let x := s.entry 1;
      x.held[1]? = some (0, 64, 128) ∧ x.st = .running ∧ (makeChild s 1 0 64 128).isSome = true) ∧
    (let s := queued 0x02020100 fun x => { x with parts := [(0, 128), (0, 0), (0, 0), (0, 0)] }; let x := s.entry 1; let ns := x.parts.map (chunksOf 64);
      wants x = true ∧ dType x.words = 0 ∧ x.parts.length = 4 ∧ 3 % 5 < 4 ∧ 3 / 5 = 1 / 16384 ∧ ns.getD (3 % 5) 0 = 0 ∧ ns.getD (largest ns) 0 ≠ 0 ∧
        (baseFor s 1 x.words 3).isSome = true) ∧
    (let kid (e : Nat) (ps : List (Nat × Nat)) : Nat × Entry := (e, { words := [0x02020100#32], st := .running, parent := 1#32, parts := ps });
      let s := { queued 0x02020100 fun x => { x with root := true, st := .running } with
        entries := (queued 0x02020100 fun x => { x with root := true, st := .running }).entries ++
          [kid 2 [(0, 0), (0, 0), (0, 0), (0, 0)], kid 16384 [(0, 0), (0, 0), (0, 0), (0, 256)]] };
      let kids := (childrenOf s 1).filter fun c => (s.entry c).st == .ready || (s.entry c).st == .running;
      let left (c : Nat) : Nat := ((s.entry c).parts.map (chunksOf (64 * dGroups (s.entry 1).words))).sum;
      let v := kids.getD (largest (kids.map left)) 0;
      (kids.find? fun c => c / 16384 == 0) = some 2 ∧ (s.entry 1).st = .running ∧ left 2 = 0 ∧ (s.entry 2).fault = false ∧ (s.entry 2).parts.length = 4 ∧
        v ≠ 2 ∧ 4 ≤ left v ∧ (takeBack (64 * dGroups (s.entry 1).words) (s.entry v).parts (left v / 2)).2 = [(128, 256)]) ∧
    (∀ d0 ∈ [0xA2020100, 0x02020100], let x := (queued d0 fun x => { x with st := .faulted }).entry 1;
      x.st = .faulted ∧ x.parent = 0xFFFFFFFF ∧ x.root = false) ∧
    (let s := { queued 0xA2020100 fun x => { x with drained := some 7, victim := some 1 } with cycle := 7 }; let x := s.entry 1;
      x.drained = some 7 ∧ x.victim = some 1 ∧ x.retaken = false ∧ 7 ≤ s.cycle ∧ Tab.has s.teams 1 = true) := by decide +kernel
/-- Tray 63 of die 0 with one buffer, and record 65535 waiting in it. -/
def trayed (b : TBuf) (r : Rec) : State :=
  { base with trays := [(63, { oper := 65535, h0 := 4#32, h1 := 16#32, maxwait := 5, cols := 1, rescol := 1, bufs := [b] })]
              opers := [(65535, { ctx := 1, k := 16, n := 128 })], recs := [(65535, r)], cycle := 9 }
def rowRec : Rec := { st := .waiting, tray := 63, words := [0, 0, 0, 0, 0, 0, 0, 0, 0x8000#32, 0, 0, 0, 0, 0, 0xFF0000#32, 0] }
/-- The ring of region r of quad 0, SPLIT in force or not, with two slots. -/
def belted (r : Nat) (split : Bool) (f : Ring → Ring) : State :=
  let t := trayed { first := 0, rows := [65535], fired := true, firedNo := 1 } rowRec
  { t with arrays := [(0, { inForce := b2n split + 6 })]
           rings := [(ringKey 0 r split, f { ctx := 1, split := split, slots := [⟨0x8000, 1, 65535, 0, [], false⟩, ⟨0x8000, 4, 65535, 0, [], false⟩] })] }
def full0 : TBuf := { first := 0, rows := [65535], building := true, startedAt := 4, entry := 9 }
/-- A tile with one block to read out. -/
def leaving (last : Bool) : Rider := { tray := 63, buf := 0, out := [(0, 1, 128, [], 0)], last := last }
theorem wit_TrayAndBeltEvents :
    (let s := trayed {} rowRec; let r := s.recAt (recKey 0 65535); ∃ y, Tab.find? s.trays r.tray = some y ∧ bufForRow y = some 0 ∧ ungathered r = true ∧
      r.tray / 64 = 0 ∧ (match readRange s 0 16 (s.ctxOf (trayOper s r.tray).ctx).asid (pairAt r.words 8) ((parseHdr (trayHdr y 1)).areas.getD 0 0) with
        | .ok _ => true
        | .error _ => false) = true) ∧
    (let s := trayed full0 rowRec; buildingOf (s.tray 63) = some 0 ∧ timedOut s 63 0 = true ∧ mayFire s 63 = true) ∧
    (let s := { trayed full0 rowRec with opers := [(65535, { ctx := 1, span := true })] }; buildingOf (s.tray 63) = some 0 ∧ timedOut s 63 0 = true ∧ mayFire s 63 = false) ∧
    (let s := trayed { full0 with due := true } rowRec; buildingOf (s.tray 63) = some 0 ∧ ((s.tray 63).bufs.getD 0 {}).due = true ∧ mayFire s 63 = true) ∧
    ((trayed {} { rowRec with st := .steward }).recAt (recKey 0 65535)).st = .steward ∧
    (∀ r < 2, ∀ b ∈ [false, true],
      (∃ g, ringNow (belted r b id) 0 r = some (ringKey 0 r b, g) ∧ g.preloaded = false ∧ g.slots ≠ []) ∧
      (∃ g, ringNow (belted r b fun g => { g with preloaded := true, current := 0 }) 0 r = some (ringKey 0 r b, g) ∧ g.preloaded = true ∧ g.slots ≠ [] ∧
        spanFirst g ((g.current + 1) % g.slots.length) = false ∧ g.riders = []) ∧
      (∃ g, ringNow (belted r b fun g => { g with preloaded := true, current := 1, riders := [{ tray := 63, buf := 0 }] }) 0 r = some (ringKey 0 r b, g) ∧
        g.preloaded = true ∧ g.slots ≠ [] ∧ spanFirst g ((g.current + 1) % g.slots.length) = true) ∧
      (∀ last ∈ [false, true], (match ringNow (belted r b fun g => { g with riders := [leaving last] }) 0 r with
        | some (k, g) => decide (k = ringKey 0 r b ∧ readyRider g = some 0 ∧ g.riders = [leaving last] ∧ (leaving last).out = (0, 1, 128, [], 0) :: [] ∧
            (leaving last).last = last)
        | none => false) = true)) := by
  refine ⟨⟨_, rfl, by decide +kernel⟩, by decide +kernel, by decide +kernel, by decide +kernel, by decide +kernel, ?_⟩
  intro r hr b hb
  simp only [List.mem_cons, List.not_mem_nil, or_false] at hb
  rcases (by omega : r = 0 ∨ r = 1) with rfl | rfl <;> rcases hb with rfl | rfl <;>
    exact ⟨⟨_, rfl, by decide +kernel⟩, ⟨_, rfl, by decide +kernel⟩, ⟨_, rfl, by decide +kernel⟩, by decide +kernel⟩
/-! ### Witnesses: saved teams, images and submission

An image is longer than what a kernel evaluates byte by byte, so these states keep it in a 1 GiB page of host memory, at
0x40000000, where a piece is read and written without changing how the next is found. -/

def hostLeaf : Nat := 2 ^ 52 + 3 * 2 ^ 50 + 2 ^ 49 + 7 * 2 ^ 43
def hostedMem : List Host.Cell := setBytes (setBytes (setBytes base.mem 0xD000 (leBytes 2 8)) 0xD008 (leBytes 2 8)) 0x30008 (leBytes hostLeaf 8)
structure Hosted (s : State) : Prop where
  mem : s.mem = hostedMem
  descs : s.descs = [(1, programDesc)]
  dead : s.dead = []
  l1 : s.l1 = []
  stash : s.stash = []
  pkgs : s.pkgs = [(0, { booted := true })]
  part : (s.die 0).partcfg = 0
  cold : s.hlb = [] ∧ s.ctc = [] ∧ s.bad = [] ∧ s.stamps = [] ∧ s.l2 = [] ∧ s.l1sets = [] ∧ s.traces = []
theorem hosted_with {s : State} (h : Hosted s) (m : List Host.Cell) : Hosted { s with hostMem := m } :=
  ⟨h.mem, h.descs, h.dead, h.l1, h.stash, h.pkgs, h.part, h.cold⟩
theorem hosted_near {s : State} (h : Hosted s) (l : Loc) (hl : l.gd = 0) : peerLost s 0 l = false := by
  simp [peerLost, homeLost, dieLost, State.pkg, h.pkgs, hl, pkgOf, Tab.get, Tab.find?]
theorem hosted_open (s : State) : routeOpen s 0 0 = true := by
  have r : routeOf hopRow (dieOf 0) 16 (dieOf 0) = [] := by decide
  simp [routeOpen, firstDrop, dieRoute, r]
theorem hosted_slots {s : State} (h : Hosted s) : slotsOn s 1 0 0 = true := by simp [slotsOn, fabricServes, partOf, h.part, bitOf]
theorem hosted_entry {s : State} (h : Hosted s) (g a : Nat) : readEntry8 s g a = leValue (getBytes hostedMem (memKey g a) 8) := by
  obtain ⟨_, _, b, st, l2, _, _⟩ := h.cold
  simp [readEntry8, readTable, lineLost, isDead, h.dead, h.mem, b, st, l2, Tab.get, Tab.find?]
theorem hosted_desc {s : State} (h : Hosted s) : s.desc? 0 1 = some programDesc := by simp only [State.desc?, h.descs]; decide +kernel
theorem hosted_walkHome {s : State} (h : Hosted s) {va : Nat} (h1 : 0x40000000 ≤ va) (h2 : va < 0x40400000) : walkHome s 0 1 va = .ok 2 := by
  have i0 : bitsOf va 55 43 = 0 := by simp only [bitsOf]; omega
  have i1 : bitsOf va 42 32 = 0 := by simp only [bitsOf]; omega
  rcases (by simp only [bitsOf]; omega : bitsOf va 31 21 = 512 ∨ bitsOf va 31 21 = 513) with i2 | i2 <;>
    simp only [walkHome, hosted_desc h, i0, i1, i2, hmLevel, hosted_entry h] <;> decide +kernel
theorem hosted_entries :
    leValue (getBytes hostedMem (memKey 0 0x10000) 8) = 2 ^ 43 + 0x20000 ∧ leValue (getBytes hostedMem (memKey 0 0x20000) 8) = 2 ^ 43 + 0x30000 ∧
      leValue (getBytes hostedMem (memKey 0 0x30008) 8) = hostLeaf := by decide +kernel
theorem hosted_walkFrame {s : State} (h : Hosted s) {va : Nat} (h1 : 0x40000000 ≤ va) (h2 : va < 0x40400000) : walkFrame s 0 1 0 va = .ok hostLeaf := by
  have i0 : bitsOf va 55 47 = 0 := by simp only [bitsOf]; omega
  have i1 : bitsOf va 46 38 = 0 := by simp only [bitsOf]; omega
  have i2 : bitsOf va 37 30 = 1 := by simp only [bitsOf]; omega
  have ok : frameLeafOk s 0 1 2 0 hostLeaf = true := by
    have : ∀ b : Bool, ((fSz hostLeaf == 1 && 2 == 4 || fSz hostLeaf == 2 && 2 == 3 || fSz hostLeaf == 3 && 2 == 2) &&
      (fHm hostLeaf || (fSz hostLeaf != 2 || bitsOf hostLeaf 20 0 % 32 == 0) && (fSz hostLeaf != 3 || bitsOf hostLeaf 20 0 % 16384 == 0)) &&
      (0 == 0 || fSz hostLeaf == 1) && (!fHm hostLeaf || (dieOf 0 == 0 && !fHs hostLeaf && !fPin hostLeaf)) &&
      (fR hostLeaf || (!fW hostLeaf && !fX hostLeaf)) && (fHm hostLeaf || bitsOf hostLeaf 20 0 != Config.obsPage || b)) = true := by decide +kernel
    exact this _
  have v0 : (programDesc.fmroot.toNat) = 2 ^ 43 + 0x10000 := by decide
  have c : ∀ e ∈ [2 ^ 43 + 0x10000, 2 ^ 43 + 0x20000, 2 ^ 43 + 0x30000], fV e = true ∧ ¬(fSz e ≠ 0 ∨ bitsOf e 63 52 ≠ 0 ∨ bitsOf e 49 44 ≠ 0) ∧ fSz e = 0 := by decide
  have c0 := c (2 ^ 43 + 0x10000) (by simp)
  have c1 := c (2 ^ 43 + 0x20000) (by simp)
  have c2 := c (2 ^ 43 + 0x30000) (by simp)
  have f0 : fFrame (2 ^ 43 + 0x10000) % 2 ^ 37 + 8 * 0 = 0x10000 := by decide
  have f1 : fFrame (2 ^ 43 + 0x20000) % 2 ^ 37 + 8 * 0 = 0x20000 := by decide
  have f2 : fFrame (2 ^ 43 + 0x30000) % 2 ^ 37 + 8 * 1 = 0x30008 := by decide
  have l0 : fSz hostLeaf ≠ 0 ∧ fV hostLeaf = true ∧ fGen hostLeaf = programDesc.curgen := by decide
  obtain ⟨r0, r1, r2⟩ := hosted_entries
  simp only [walkFrame, hosted_desc h, i0, i1, i2, v0]
  rw [walkFrameAux, if_neg (by decide), if_neg c0.2.1]
  simp only [f0, hosted_entry h, r0, if_pos c1.2.2]
  rw [if_neg (by decide), walkFrameAux, if_neg (by decide), if_neg c1.2.1]
  simp only [f1, hosted_entry h, r1, if_pos c2.2.2]
  rw [if_neg (by decide), walkFrameAux, if_neg (by decide), if_neg c2.2.1]
  simp only [f2, hosted_entry h, r2, if_neg l0.1]
  rw [if_neg (by decide), if_neg (by decide), if_pos ok]
theorem hosted_locate {s : State} (h : Hosted s) {va : Nat} (h1 : 0x40000000 ≤ va) (h2 : va < 0x40400000) :
    locate s 0 1 va = .at (mkLoc 0 hostLeaf va) := by
  have hh : homeOf 2 va = (0, va) := by simp only [homeOf, show leafIl 2 = 0 by decide, if_true]; rfl
  obtain ⟨c1, c2, _⟩ := h.cold
  simp only [locate, homeLeaf, frameLeaf, eitherLeaf, hlbHit, ctcHit, c1, c2, Tab.find?, List.find?_nil, Option.map_none, hosted_walkHome h h1 h2, hh, show leafIl 2 = 0 by decide,
    hosted_walkFrame h h1 h2]
theorem hosted_piece {s : State} (h : Hosted s) {va : Nat} (h1 : 0x40000000 ≤ va) (h2 : va < 0x40400000) (w : Bool) :
    pieceAt s 0 1 va w = .ok (mkLoc 0 hostLeaf va) := by
  have a : (mkLoc 0 hostLeaf va).host = true := by show fHm hostLeaf = true; decide
  have f : (if w = true then fWr (mkLoc 0 hostLeaf va).leaf else fR (mkLoc 0 hostLeaf va).leaf) = true := by
    show (if w = true then fWr hostLeaf else fR hostLeaf) = true; cases w <;> decide
  have g : gatedDie s 0 = false := by simp [gatedDie, State.pkg, h.pkgs, pkgOf, Tab.get, Tab.find?]
  simp [pieceAt, hosted_locate h h1 h2, Loc.absent, Loc.obs, chanHeld, a, f, g, guardOpen, hosted_slots h, hosted_near h (mkLoc 0 hostLeaf va) rfl,
    show (mkLoc 0 hostLeaf va).gd = 0 from rfl, hosted_open s]
theorem hosted_back {s : State} (h : Hosted s) (ck asid va : Nat) : backLine s ck asid va = s := by
  have : dirtyIn s ck asid (va - va % 64) 0 64 = [] := by simp [dirtyIn, l1Byte, h.l1, Tab.find?]
  simp [backLine, backPart, this]
theorem hosted_flush {s : State} (h : Hosted s) (ck asid va : Nat) : flushLine s ck asid va = s := by
  obtain ⟨_, _, _, _, _, c, _⟩ := h.cold
  have l := h.l1
  simp only [flushLine, hosted_back h, l1Drop]
  cases s; simp_all
theorem hosted_ready {s : State} (h : Hosted s) (l : Loc) (ck asid va : Nat) (w d : Bool) : lineReady s l ck asid va w d = .ok s := by
  have r (x : Bool) : recallLine s asid (va - va % 64) x = s := by simp [recallLine, stashOf, h.stash]
  have n : lineDirty s ck asid va = false := by simp [lineDirty, h.l1]
  cases d <;> simp [lineReady, hosted_flush h, hosted_back h, r, n, stashOf, h.stash]
theorem hosted_ask {s : State} (h : Hosted s) (va : Nat) (q : Ask) (x y z : Bool) : homeAsk s (mkLoc 0 hostLeaf va) q x y z = s := by
  have a : (mkLoc 0 hostLeaf va).host = true := by show fHm hostLeaf = true; decide
  obtain ⟨_, _, _, _, _, _, t⟩ := h.cold
  simp [homeAsk, Loc.obs, a, logTrace, t, Tab.get, Tab.find?, bitOf]
theorem hosted_write {s : State} (h : Hosted s) {va : Nat} (h1 : 0x40000000 ≤ va) (h2 : va < 0x40400000) (ck ks en : Nat) (bs : List Nat) (who : Nat × Nat) :
    ∃ m, pieceWrite s 0 ck 1 ks va en bs who = .ok { s with hostMem := m } := by
  have a : (mkLoc 0 hostLeaf va).host = true := by show fHm hostLeaf = true; decide
  exact ⟨setBytesEn s.hostMem (mkLoc 0 hostLeaf va).hpa en bs, by simp [pieceWrite, hosted_piece h h1 h2, hosted_ready h, homePut, hosted_ask h, homeWrite, a]⟩
theorem hosted_read {s : State} (h : Hosted s) {va : Nat} (h1 : 0x40000000 ≤ va) (h2 : va < 0x40400000) (ck n : Nat) (who : Nat × Nat) :
    pieceRead s 0 ck 1 va n who = .ok (s, getBytes s.hostMem (va - 0x40000000) n) := by
  have a : (mkLoc 0 hostLeaf va).host = true := by show fHm hostLeaf = true; decide
  have p : (mkLoc 0 hostLeaf va).hpa = va - 0x40000000 := by
    show fFrame hostLeaf * 65536 + (if fSz hostLeaf = 1 then va % 2 ^ 16 else if fSz hostLeaf = 2 then va % 2 ^ 21 else va % 2 ^ 30) = _
    rw [show fFrame hostLeaf = 0 by decide, show fSz hostLeaf = 3 by decide]; simp; omega
  simp [pieceRead, hosted_piece h h1 h2, hosted_ready h, hosted_ask h, homeRead, a, p]
theorem hosted_writes (ck ks : Nat) (who : Nat × Nat) (ps : List (Nat × List Nat)) : ∀ s : State, Hosted s → (∀ p ∈ ps, 0x40000000 ≤ p.1 ∧ p.1 < 0x40400000) →
    ∃ m, writeList 0 ck 1 ks ps s who = ({ s with hostMem := m }, ps.length, none) := by
  induction ps with
  | nil => exact fun s _ _ => ⟨s.hostMem, rfl⟩
  | cons p ps ih =>
    intro s h hp
    obtain ⟨m, hm⟩ := hosted_write h (hp p (by simp)).1 (hp p (by simp)).2 ck ks (2 ^ p.2.length - 1) p.2 who
    obtain ⟨n, hn⟩ := ih _ (hosted_with h m) fun q hq => hp q (by simp [hq])
    exact ⟨n, by simp only [writeList, hm, hn, List.length_cons]⟩
theorem piecesAux_in (f : Nat) : ∀ va n, ∀ p ∈ piecesAux f va n, va ≤ p.1 ∧ p.1 < va + n := by
  induction f with
  | zero => intro va n p hp; simp [piecesAux] at hp
  | succ f ih =>
    intro va n p hp
    rw [piecesAux] at hp
    split at hp
    · simp at hp
    · rcases List.mem_cons.1 hp with rfl | hp
      · exact ⟨Nat.le_refl _, by simp; omega⟩
      · have := ih _ _ p hp
        omega
theorem hosted_reads (ck : Nat) (who : Nat × Nat) (ps : List (Nat × Nat)) : ∀ s : State, Hosted s → (∀ p ∈ ps, 0x40000000 ≤ p.1 ∧ p.1 < 0x40400000) →
    readPieces 0 ck 1 ps s who = .ok (s, ps.flatMap fun p => getBytes s.hostMem (p.1 - 0x40000000) p.2) := by
  induction ps with
  | nil => intro s _ _; rfl
  | cons p ps ih =>
    intro s h hp
    simp only [readPieces, hosted_read h (hp p (by simp)).1 (hp p (by simp)).2, ih s h fun q hq => hp q (by simp [hq]), List.flatMap_cons]
theorem hosted_many (ck : Nat) (who : Nat × Nat) (rs : List (Nat × Nat)) : ∀ s : State, Hosted s → (∀ r ∈ rs, 0x40000000 ≤ r.1 ∧ r.1 + r.2 ≤ 0x40400000) →
    readMany 0 ck 1 rs s who = .ok (s, rs.map fun r => (pieces r.1 r.2).flatMap fun p => getBytes s.hostMem (p.1 - 0x40000000) p.2) := by
  induction rs with
  | nil => intro s _ _; rfl
  | cons r rs ih =>
    intro s h hp
    have hr := hp r (by simp)
    have q := hosted_reads ck who (pieces r.1 r.2) s h fun p hp => by have := piecesAux_in _ _ _ p hp; omega
    simp only [readMany, readRange, q, ih s h fun q hq => hp q (by simp [hq]), List.map_cons]
theorem length_pad (n : Nat) (bs : List Nat) : (pad n bs).length = n := by simp [pad]; omega
theorem cutPieces_in {va : Nat} {bs : List Nat} {p : Nat × List Nat} (h : p ∈ cutPieces va bs) : va ≤ p.1 ∧ p.1 < va + bs.length := by
  simp only [cutPieces, List.mem_map] at h
  obtain ⟨q, hq, rfl⟩ := h
  exact piecesAux_in _ _ _ q hq
/-- The team of group 0 stopped, under a save whose image it was loaded from. -/
def saving : State :=
  { base with mem := hostedMem, teams := [(1, { programTeam with stopping := true, loaded := true, imageId := 5 })]
              cmds := [(9, { cmd0 with op := .ctxSave, d := 0, a := 0x40000000, b := 5, started := true })] }
theorem saving_hosted : Hosted saving := by constructor <;> decide +kernel
def savedRuns : List (Nat × List Nat) :=
  let s := saving
  let full := !((s.team 1).loaded && (s.team 1).imageId == 5)
  imageRuns (saveTeam s 1) (taskIdOf (s.team 1).task) (wordAt (s.entry (s.team 1).task).words 0) 5 full
    (fun g i => full || Tab.get s.dirtyBanks (g * 16 + i) false) (fun i => full || Tab.get s.dirtyLines (1 * 2 ^ 12 + i) false)
theorem savedRuns_in : ∀ r ∈ savedRuns, r.1 + r.2.length ≤ 0x400000 := by
  have g : ∀ r ∈ [(0x100, handleImage (saveTeam saving 1)), (0x1000, semImage (saveTeam saving 1))] ++
      ((saveTeam saving 1).groups.flatMap fun y => groupImage y fun i =>
        (!((saving.team 1).loaded && (saving.team 1).imageId == 5)) || Tab.get saving.dirtyBanks (y.g * 16 + i) false) ++
      (((List.range ((saveTeam saving 1).team.win / 256)).filter fun i =>
        (!((saving.team 1).loaded && (saving.team 1).imageId == 5)) || Tab.get saving.dirtyLines (1 * 2 ^ 12 + i) false).map fun i =>
        (0x220000 + 256 * i, (List.range 256).map fun o => (Tab.get (saveTeam saving 1).wins (256 * i + o) 0#8).toNat)) ++
      [(0x3B0000, columnImage (saveTeam saving 1))], r.1 + r.2.length ≤ 0x400000 := by decide +kernel
  intro r hr
  simp only [savedRuns, imageRuns, List.mem_append, List.mem_cons, List.not_mem_nil, or_false, List.mem_map (l := List.range 4)] at hr g
  rcases hr with ((((rfl | h) | h) | h) | ⟨i, hi, rfl⟩) | h
  · simp [headerImage, length_pad]
  · exact g r (.inl (.inl (.inl h)))
  · exact g r (.inl (.inl (.inr h)))
  · exact g r (.inl (.inr h))
  · have := List.mem_range.1 hi
    simp only [bankImage, List.length_append, length_pad]; omega
  · exact g r (.inr h)
theorem wit_ImageAndSubmissionEvents_save : ∃ c, Tab.find? saving.cmds 9 = some c ∧ cmdLive saving 9 c = true ∧ c.op = .ctxSave ∧ namedTeam saving c.gd c.d = some 1 ∧
    (saving.team 1).stopping = true ∧ teamQuiet saving 1 (some 9) = true ∧ c.b = 5 ∧
    ∃ t m, writeList c.gd c.ck (c.asid saving) (c.kslot saving) (savedRuns.flatMap fun r => cutPieces (c.a + r.1) r.2) saving c.who = (t, m, none) := by
  refine ⟨_, rfl, by decide +kernel, rfl, by decide +kernel, by decide +kernel, by decide +kernel, rfl, ?_⟩
  obtain ⟨m, hm⟩ := hosted_writes 0 ({ cmd0 with op := .ctxSave, d := 0, a := 0x40000000, b := 5, started := true : Cmd }.kslot saving) (1, 0)
    (savedRuns.flatMap fun r => cutPieces (0x40000000 + r.1) r.2) saving saving_hosted (by
      intro p hp
      obtain ⟨r, hr, hp⟩ := List.mem_flatMap.1 hp
      have := savedRuns_in r hr
      have := cutPieces_in hp
      omega)
  exact ⟨_, _, hm⟩
/-- Entry 1 was saved, with one group of four banks; its image's header stands at 0x40000000. -/
def lifted : SavedTeam :=
  { num := 5, team := { programTeam with task := 1, groups := [1], win := 0 }, groups := [⟨1, { task := 1, ctx := 1, team := 5, banks := 4 }, [], [], []⟩],
    wins := [], sems := [], runs := [], counts := [], banks := [], grant := false }
def loadCmd : Cmd := { cmd0 with op := .ctxLoad, d := 1, a := 0x40000000, b := 0x20, started := true }
def restoring : State :=
  { queued 0x02020100 fun x => { x with side := some lifted } with
    dies := base.dies, mem := hostedMem, cmds := [(9, loadCmd)]
    hostMem := setBytes [] 0 (leBytes magic 4 ++ leBytes 0x0100 4 ++ leBytes 3 4 ++ leBytes 1 4 ++ leBytes 1 4) }
theorem restoring_hosted : Hosted restoring := by constructor <;> decide +kernel
def head0 : List Nat := (pieces 0x40000000 0x2000).flatMap fun p => getBytes restoring.hostMem (p.1 - 0x40000000) p.2
def restRanges : List (Nat × Nat) := (imageRanges 1 4 0 (imgAt [(0, head0)] 32 4)).map fun r => (0x40000000 + r.1, r.2)
def restBytes : List (List Nat) := restRanges.map fun r => (pieces r.1 r.2).flatMap fun p => getBytes restoring.hostMem (p.1 - 0x40000000) p.2
theorem head0_length : head0.length = 8192 := by decide +kernel
theorem head0_zero : ∀ b ∈ (head0.drop 256).take 2048, b = 0 := by decide +kernel
theorem leValue_zero (bs : List Nat) (h : ∀ b ∈ bs, b = 0) : leValue bs = 0 := by
  induction bs with
  | nil => rfl
  | cons b bs ih =>
    have := h b (by simp)
    have := ih fun c hc => h c (by simp [hc])
    simp_all [leValue]
/-- Past its first words the image's first part is zero: no handle was bound. -/
theorem restored_counts (rest : List (Nat × List Nat)) : (teamFrom ([(0, head0)] ++ rest) 0 lifted).counts = [] := by
  have z (o : Nat) (h1 : 256 ≤ o) (h2 : o < 2304) : imgAt ([(0, head0)] ++ rest) o 1 = 0 := by
    have : imgAt ([(0, head0)] ++ rest) o 1 = leValue ((head0.drop (o - 0)).take 1) := by
      unfold imgAt
      rw [List.singleton_append, List.find?_cons_of_pos (by rw [head0_length, Bool.and_eq_true, decide_eq_true_eq, decide_eq_true_eq]; omega)]
    rw [this]
    refine leValue_zero _ fun b hb => head0_zero b ?_
    rw [show o - 0 = 256 + (o - 256) by omega, ← List.drop_drop, List.take_drop] at hb
    have := List.mem_of_mem_drop hb
    rw [show o - 256 + 1 = min (o - 256 + 1) 2048 by omega, ← List.take_take] at this
    exact List.mem_of_mem_take this
  simp only [teamFrom]
  refine List.filterMap_eq_nil_iff.2 fun i hi => ?_
  have := List.mem_range.1 hi
  show (if imgAt ([(0, head0)] ++ rest) (0x100 + 8 * i) 1 = 0 then none else some (i, imgAt ([(0, head0)] ++ rest) (0x100 + 8 * i) 1)) = none
  exact if_pos (z _ (by omega) (by omega))
theorem wit_ImageAndSubmissionEvents_load :
    let s := restoring; let c := loadCmd; let e := c.gd * 16384 + bitsOf c.d 13 0; let y := s.entry e;
    Tab.find? s.cmds 9 = some c ∧ cmdLive s 9 c = true ∧ c.op = .ctxLoad ∧ readRange s c.gd c.ck (c.asid s) c.a 0x2000 c.who = .ok (s, head0) ∧
    imgAt [(0, head0)] 0 4 = magic ∧ imgAt [(0, head0)] 4 4 = 0x0100 ∧ imgAt [(0, head0)] 12 4 = y.ctx ∧ imgAt [(0, head0)] 16 4 = taskIdOf e ∧
    y.side = some lifted ∧
    (let rs := imageRanges (dGroups y.words) (dBanks y.words) lifted.team.win (imgAt [(0, head0)] 32 4);
      readMany c.gd c.ck (c.asid s) (rs.map fun r => (c.a + r.1, r.2)) s c.who = .ok (s, restBytes) ∧
      let z := teamFrom ([(0, head0)] ++ (rs.zip restBytes).map fun r => (r.1.1, r.2)) c.gd lifted;
      let z : SavedTeam := { z with team := { z.team with edited := bitOf (imgAt [(0, head0)] 8 4) 0, loaded := true, imageId := imgAt [(0, head0)] 24 8 } };
      Tab.has s.teams z.num = false ∧ (restoreTeam s c.gd (bitsOf c.d 17 16) (bitsOf c.d 19 18) e z).isSome = true) := by
  have r1 : readRange restoring 0 0 1 0x40000000 0x2000 (1, 0) = .ok (restoring, head0) :=
    hosted_reads 0 _ _ restoring restoring_hosted fun p hp => by have := piecesAux_in _ _ _ p hp; omega
  have r2 : readMany 0 0 1 restRanges restoring (1, 0) = .ok (restoring, restBytes) :=
    hosted_many 0 _ _ restoring restoring_hosted (by decide +kernel)
  refine ⟨rfl, by decide +kernel, rfl, r1, by decide +kernel, by decide +kernel, by decide +kernel, by decide +kernel, by decide +kernel, r2, by decide +kernel, ?_⟩
  have hz (rest : List (Nat × List Nat)) : teamFrom ([(0, head0)] ++ rest) 0 lifted = { teamFrom ([(0, head0)] ++ rest) 0 lifted with counts := [] } := by
    rw [← restored_counts rest]
  change (restoreTeam restoring 0 _ _ _ { teamFrom ([(0, head0)] ++ _) 0 lifted with team := _ }).isSome = true
  rw [hz]
  decide +kernel
/-- An image of one code word, no task and no node. -/
def image0 : List Nat :=
  [0x49474258, 0x100, 3, 132, 0, 0, 0, 0, 0, 0, 0, 0, 0, 0, 0, 0, 1, 0, 128, 4, 2, 0, 128, 0, 4, 0, 128, 0, 0, 0, 0, 0, 0x12345678].flatMap fun w => leBytes w 4
def split0 : Image := { code := [0x12345678] }
theorem splitImage_image0 : splitImage image0 = split0 := by
  have hg : wordsN ((List.range ((wordsN (image0.take (64 + 16 * 16))).getD 2 0)).flatMap fun i =>
      if (wordsN (image0.take (64 + 16 * 16))).getD (16 + 4 * i) 0 = 4 then (image0.drop ((wordsN (image0.take (64 + 16 * 16))).getD (18 + 4 * i) 0)).take
        ((wordsN (image0.take (64 + 16 * 16))).getD (19 + 4 * i) 0) else []) = [] := by decide +kernel
  simp only [splitImage]
  simp only [hg, List.length_nil, Nat.zero_div, Nat.min_zero]
  decide +kernel
/-- Context 1 has a submission entry to be taken again. -/
def submitted (ws : List Word) (b : List Nat) : State :=
  { base with ctxs := [(1, { programCtx with words := programCtx.words.set 10 0x9000#32, again := [ws ++ List.replicate (16 - ws.length) 0] })]
              mem := setBytes base.mem 0x69000 b }
def padTo16 (ws : List Word) : List Word := ws ++ List.replicate (16 - ws.length) 0
def request0 : State := submitted [0x02000000#32] (leBytes 0xA2020100 4 ++ leBytes 0x00010000 4 ++ leBytes 0x1000 4 ++ leBytes 0 24 ++ leBytes 1 4)
def launchWords : List Word := padTo16 [0x01000000#32, 0, 0x9000#32]
def launch0 : State := submitted [0x01000000#32, 0, 0x9000#32] image0
def frames0 : List (Nat × Nat) := [(2 ^ 60, 0x200000), (2 ^ 60 + 1, 0x400000), (32, 20), (2 ^ 40, 21)]
def gotOf (r : SubRead) : State × List Nat := match r with
  | .got s bs => (s, bs)
  | _ => (base, [0])
def isGot (r : SubRead) : Bool := match r with
  | .got _ _ => true
  | _ => false
theorem got_of {r : SubRead} (h : isGot r = true) : r = .got (gotOf r).1 (gotOf r).2 := by cases r <;> simp_all [isGot, gotOf]
def loadedOk (r : Loaded) : Bool := match r with
  | .ok _ => true
  | _ => false
def opened0 : Nat × State := openJob launch0 1 launchWords
def readImage0 : SubRead := readImage opened0.2 1 (pairAt launchWords 2)
def readValues0 : SubRead := stewardRead (gotOf readImage0).1 1 (pairAt launchWords 4) (4 * wordAt launchWords 6)
theorem loads0 : loadedOk (loadImage (gotOf readValues0).1 1 opened0.1 image0 (wordsN (gotOf readValues0).2) frames0) = true := by
  delta loadImage
  rw [splitImage_image0]
  decide +kernel
theorem wit_ImageAndSubmissionEvents_submission :
    (let s := submitted [] []; nextSub s 1 = some (padTo16 []) ∧ subBad (padTo16 []) = some 0) ∧
    (let ws := padTo16 [0x02000000#32]; nextSub request0 1 = some ws ∧ subBad ws = none ∧ bitsOf (wordAt ws 0) 31 24 = 2 ∧
      (match requestTask (openJob request0 1 ws).2 1 with
        | .ok (t, _) => decide (freeEntryOf t (ctxRoot request0 1) = some 1)
        | .error _ => false) = true) ∧
    (let ws := launchWords; nextSub launch0 1 = some ws ∧ subBad ws = none ∧ bitsOf (wordAt ws 0) 31 24 = 1 ∧ ∃ t bs u vs,
      readImage (openJob launch0 1 ws).2 1 (pairAt ws 2) = .got t bs ∧ stewardRead t 1 (pairAt ws 4) (4 * wordAt ws 6) = .got u vs ∧
        loadedOk (loadImage u 1 (openJob launch0 1 ws).1 bs (wordsN vs) frames0) = true) ∧
    (let s := { base with jobs := [(3, { ctx := 1, words := List.replicate 16 0, doneAt := some 0 })] };
      (match Tab.find? s.jobs 3 with
        | some x => decide (x.ctx = 1 ∧ x.doneAt ≠ none)
        | none => false) = true ∧ complRoom s 1 = true) := by
  have h : (gotOf readImage0).2 = image0 := by decide +kernel
  refine ⟨by decide +kernel, by decide +kernel, ⟨by decide +kernel, by decide +kernel, by decide +kernel, _, _, _, _, got_of (r := readImage0) (by decide +kernel),
    got_of (r := readValues0) (by decide +kernel), ?_⟩, by decide +kernel⟩
  rw [h]
  exact loads0
/-! ### Witnesses: the host, links, translation, power and boot -/

/-- The mapped page is host-shared. -/
def shared0 : State := { base with mem := setBytes base.mem 0x50000 (leBytes (leaf6 + 2 ^ 48) 8) }
/-- Queue pair 7 of the port on die 56, with one work entry and one receive entry handed over. -/
def queue7 : Queue := { gd := 56, ctx := 1, recvQ := 0x9000, complQ := 0x8000, doorbell := 3, recvBell := 5, semaphore := 4 }
def netted : State :=
  { base with queues := [(7, queue7)], sems := [(semKey 0 3, { count := 1 }), (semKey 0 5, { count := 1 })], dies := [(0, { up := true }), (56, { up := true })]
              descs := [(1, programDesc), (56 * 2 ^ 16 + 1, programDesc)] }
/-- The port of the queue pair is another partition's. -/
def barred : State := { netted with dies := [(0, { up := true }), (56, { up := true, partcfg := 0x80000001#32 })] }
theorem wit_HostAndEthernetEvents :
    ((base.pkg 1023).cxlDown = false ∧ 2 ^ 56 - 1 < 2 ^ 56 ∧ hasBar2 base 1 = true ∧ hostUp base 1 = true ∧ sharedLoc base 1 (0x8000 - 0x8000 % 64) = none) ∧
    ((match sharedLoc shared0 1 0x8000 with
      | some l => !hostWaits shared0 1 0x8000 l && (homeRead shared0 l 64).isSome &&
          (homePut shared0 0 l (hostAsk shared0 1 0x8000 1) (hostEnable shared0 l 1) [5]).isSome
      | none => false) = true) ∧
    ((match sharedLoc { shared0 with bad := [(0x68000 / 64, true)] } 1 0x8000 with
      | some l => !hostWaits { shared0 with bad := [(0x68000 / 64, true)] } 1 0x8000 l && (homeRead { shared0 with bad := [(0x68000 / 64, true)] } l 64).isNone
      | none => false) = true) ∧
    (queueRuns netted 7 = true ∧ workWaits netted 7 false ≠ 0 ∧ workWaits netted 7 true ≠ 0 ∧ portServes netted (netted.queue 7) = true) ∧
    (ethComplete (takeWork netted 7 false) 7 0 false).isSome = true ∧
    (queueRuns barred 7 = true ∧ portServes barred (barred.queue 7) = false ∧ workWaits barred 7 false ≠ 0) ∧
    (ethComplete (takeWork (ethReport barred (barred.queue 7)) 7 false) 7 0x19 false).isSome = true ∧
    (let s : State := { netted with sems := [(semKey 0 3, { count := 1 })] };
      queueRuns s 7 = true ∧ ((failAll 7 false (workWaits s 7 false) s).bind fun t => failAll 7 true (workWaits t 7 true) t).isSome = true) ∧
    ((match readRange netted 56 (56 * 17 + 16) (netted.ctxOf 1).asid ((netted.queue 7).recvQ + 64 * (netted.queue 7).received) 64 with
      | .ok (t, e) => (writeRange t 56 (56 * 17 + 16) 1 2 (Config.ethAddr e) []).2.isNone && (ethComplete (takeWork t 7 true) 7 0 false).isSome
      | .error _ => false) = true) := by
  refine ⟨?_, ?_, ?_, ?_, ?_, ?_, ?_, ?_, ?_⟩ <;> decide +kernel
theorem wit_LinkAndLossEvents :
    (∀ b, (if b = true then Tab.get (base.die 0).retries 3 0 + 1 else 1) < 16) ∧ (3 < 4 ∧ base.tests = []) ∧ (0x59 ≠ 0x57 ∧ 0x59 ≠ 0x58) ∧
    ((base.pkg (pkgOf 0)).lostDies.contains 0 = false ∧ base.entries ≠ []) ∧
    unanswered { going (fun a => { a with home := 64 }) with cycle := 1300000 } 0 1 = true ∧
    noticed { base with pkgs := [(5, { lostPkgs := [1] })] } 0 1 = true := by decide +kernel
theorem wit_TranslationAndTierEvents :
    (∀ p ∈ [1, 3], Tab.find? ({ base with raises := [(65535, ⟨p, 4095⟩)] } : State).raises 65535 = some ⟨p, 4095⟩) ∧
    (let s := { base with raises := [(1, ⟨2, 2⟩)] }; Tab.find? s.raises 1 = some ⟨2, 2⟩ ∧ drained (drainAsid s 1) 1 = true) ∧
    epochDue { base with cycle := 65536 } 0 = true ∧ decayDue { base with cycle := 2 ^ 20 } 0 = true ∧
    (let s : State := { base with tiers := [(tierKey 0 0, { asked := some 4 })], counts := [(pageKey 0 4, 8 * 64)], descs := [] };
      (s.tier 0 (4 / 5)).asked = some (4 % 5) ∧ swapStarts s 0 4 = true) ∧
    (let s : State := { base with tiers := [(tierKey 0 0, { asked := some 4 })] }; (s.tier 0 (4 / 5)).asked = some (4 % 5) ∧ swapStarts s 0 4 = false) ∧
    (let s := { base with tiers := [(tierKey 0 9, { swapping := some (4, 0) })] }; (s.tier 0 9).swapping = some (4, 0) ∧ s.bad = []) := by decide +kernel
/-- Die 0 with its power ledger. -/
def powered (x : Power) (n : Nat) : State := { base with powers := [(0, x)], cycle := n }
theorem wit_PowerAndThrottleEvents :
    throttle 601 600 ≠ 0 ∧ windowDue (powered {} 1024) 0 = true ∧
    (let s := powered { budget := 720, borrowed := [(1, 8)] } 8192; let t := s.modPower 0 fun x => { x with exchange := x.exchange + 1 };
      exchangeDue s 0 = true ∧ wantsRepay t 0 = true ∧ repayTo t 0 = some 1) ∧
    (let s := powered { estimate := 601 } 8192; let t := s.modPower 0 fun x => { x with exchange := x.exchange + 1 };
      exchangeDue s 0 = true ∧ wantsRepay t 0 = false ∧ wantsBorrow t 0 = true ∧ (nextPeer t 0).isSome = true) ∧
    (let s := powered {} 8192; let t := s.modPower 0 fun x => { x with exchange := x.exchange + 1 };
      exchangeDue s 0 = true ∧ wantsRepay t 0 = false ∧ wantsBorrow t 0 = false) ∧
    (∀ m ∈ ([.borrow 0 1, .grant 0 1, .refuse 0 1, .repay 0 1] : List Msg), isCredit m = true ∧
      Tab.find? ({ base with msgs := [(9, ⟨m, 0⟩)], cycle := 16384 } : State).msgs 9 = some ⟨m, 0⟩) ∧
    borrowStale (powered { outstanding := some 0 } 49152) 0 = true ∧
    (∀ n ∈ [0, 2], let p : Pkg := { failedAuth := n }; (({ base with pkgs := [(1023, p)] } : State).pkg 1023).debugLocked = false ∧
      (({ base with pkgs := [(1023, p)] } : State).pkg 1023).failedAuth = n) := by decide +kernel
theorem wit_BootAndStewardEvents :
    (({ base with pkgs := [(1023, { svn := 5, floorSvn := 5 })] } : State).pkg 1023).floorSvn ≤ 5 ∧
    (let s := { base with dies := [] }; (s.pkg (pkgOf 63)).booted = true ∧ (s.die 63).up = false ∧ (s.pkg (pkgOf 63)).lostDies.contains 63 = false) ∧
    (∀ n ∈ [1, 5], (base.pkg 0).booted = true ∧ 1 ≤ n ∧ n ≤ 5) ∧ (∀ n ∈ [1, 255], 1 ≤ n ∧ n < 256) ∧
    (∀ n ∈ [0x440, 0x4FE], isLbar n = true ∧ bitOf (0x80000000#32).toNat 31 = true ∧ bitOf (0#32).toNat 31 = false) ∧
    ((grp0 (fun x => { x with inHandler := true }) base).grp 0).inHandler = true ∧
    (∀ n ∈ [0x43F, 0x500], (n < 0x440 ∨ 0x4FF < n) ∧ n ≠ 0xB0) ∧ bitsOf (0x3FFFFFFF#32).toNat 31 30 = 0 ∧
    (∀ n ∈ [0x441, 0x4FF], 0x440 ≤ n ∧ n ≤ 0x4FF ∧ n % 2 = 1) := by decide +kernel
/-- Context 1 has the debug right, and group 0 is halted. -/
def debugged : State := { grp0 (fun x => { x with halted := true }) base with ctxs := [(1, { programCtx with words := programCtx.words.set 2 0x0008FFFF#32 })] }
theorem wit_ReliabilityDebugAndScanEvents :
    (16 < 17 ∧ 0x0A ≠ 0x0B) ∧
    (let t : Test := { unit := 13, index := 16, loc := 0, startedAt := 0 };
      Tab.find? ({ base with tests := [(0 * 2 ^ 32 + 9, t)] } : State).tests (0 * 2 ^ 32 + 9) = some t) ∧
    (∀ n ∈ [0, 5 * 1024 + 1023], Tab.get ({ base with bad := [(locLine 0 n, true)] } : State).bad (locLine 0 n) false = true) ∧
    Tab.get base.bad (locLine 0 0) false = false ∧
    (grpDbg debugged 0 = true ∧ (debugged.grp 0).halted = true ∧ 63 < 64 ∧ Tab.has debugged.groups 0 = true) ∧
    (Tab.has debugged.ctxs 1 = true ∧ (∀ q ∈ debugged.pkgs, q.2.scanTag = none) ∧ (debugged.grp 0).ctx = 1 ∧ 3 ≤ (debugged.ctxOf 1).words.length) ∧
    ((debugged.pkg 0).debugLocked = false ∧ (debugged.pkg 0).scanTag = none ∧ partCtxs debugged 0 0 = [1] ∧ (∀ c ∈ partCtxs debugged 0 0, (debugged.ctxOf c).dbg = true)) ∧
    stopDue { base with pkgs := [(0, { booted := true, scanTag := some 0, stopen := 1, stopcyc := 0 })] } 0 = true ∧
    gatingDue { base with pkgs := [(0, { booted := true, scanTag := some 0, stopAt := some 0 })], cycle := 32 } 0 = some 0 ∧
    (({ base with pkgs := [(0, { scanTag := some 7 })] } : State).pkg 0).scanTag = some 7 := by decide +kernel
/-! ### Witnesses: steps and frames -/

/-- A state in which nothing but the next instruction's issue can happen. -/
def placed (w : Nat) (n : Nat) : State := State.reset.withFetchWord n w
def path0 (s : State) : Path := (pathsOf s 0).headD { lanes := 0, pc := 0, mac := none }
theorem issues_only {s : State} {t : State} {i : Instr} (h : (match choices s with
    | [.run u j] => decide (u = t ∧ j = i)
    | _ => false) = true) : nextChoice s = some (.run t i) := by
  unfold nextChoice
  split at h
  · rename_i u j he
    obtain ⟨rfl, rfl⟩ := of_decide_eq_true h
    rw [he]
  · exact absurd h (by decide)
theorem ok_of {r : Except Prob Nat} {n : Nat} (h : (match r with
    | .ok m => decide (m = n)
    | .error _ => false) = true) : r = .ok n := by
  cases r with
  | ok m => exact congrArg _ (of_decide_eq_true h)
  | error e => exact absurd h Bool.false_ne_true
def issued (s : State) (w : Nat) : State := let t := noteIssue s 0 (path0 s) false; { t with cur := { t.cur with word := w32 w } }
theorem wit_StepRunsTheDecodedInstruction :
    (∃ i is, ({ base with agenda := [.nop] } : State).agenda = i :: is) ∧
    (∃ n i rest, ({ base with inputs := [(0, .nop)] } : State).agenda = [] ∧ ({ base with inputs := [(0, .nop)] } : State).inputs = (n, i) :: rest ∧ n ≤ base.cycle) ∧
    (let s := placed 0x03100B0C 32; let p := path0 s; s.agenda = [] ∧ dueInput s = none ∧
      nextChoice s = some (issueChoice s 0 { path := p, fetched := fetchPlace s 0 p.pc p.mac, ready := .go } false) ∧ p.mac = none ∧
      fetchWord s 0 p.pc.toNat = .ok 0x03100B0C ∧ twoWords (opOf (w32 0x03100B0C)) = false ∧ decodeWords (w32 0x03100B0C) (w32 0) = .ok (.add 0x10 0x0B 0x0C)) ∧
    (let s := placed 0x00000001DE000000 64; let p := path0 s; s.agenda = [] ∧ dueInput s = none ∧
      nextChoice s = some (issueChoice s 0 { path := p, fetched := fetchPlace s 0 p.pc p.mac, ready := .go } false) ∧ p.mac = none ∧
      fetchWord s 0 p.pc.toNat = .ok 0xDE000000 ∧ twoWords (opOf (w32 0xDE000000)) = true ∧ fetchWord s 0 (p.pc + 4).toNat = .ok 1 ∧
      decodeWords (w32 0xDE000000) (w32 1) = .ok (.endGroup 1#32)) := by
  have a : nextChoice (placed 0x03100B0C 32) = some (.run (issued (placed 0x03100B0C 32) 0x03100B0C) (.add 0x10 0x0B 0x0C)) := issues_only (by decide +kernel)
  have b : nextChoice (placed 0x00000001DE000000 64) = some (.run (issued (placed 0x00000001DE000000 64) 0xDE000000) (.endGroup 1#32)) := issues_only (by decide +kernel)
  have fa : fetchPlace (placed 0x03100B0C 32) 0 (path0 (placed 0x03100B0C 32)).pc (path0 (placed 0x03100B0C 32)).mac = .instr (.add 0x10 0x0B 0x0C) (w32 0x03100B0C) := by
    decide +kernel
  have fb : fetchPlace (placed 0x00000001DE000000 64) 0 (path0 (placed 0x00000001DE000000 64)).pc (path0 (placed 0x00000001DE000000 64)).mac =
      .instr (.endGroup 1#32) (w32 0xDE000000) := by decide +kernel
  refine ⟨⟨_, _, rfl⟩, ⟨_, _, _, rfl, rfl, Nat.zero_le _⟩, ⟨by decide +kernel, by decide +kernel, ?_, by decide +kernel, ok_of (by decide +kernel), by decide, by decide⟩,
    ⟨by decide +kernel, by decide +kernel, ?_, by decide +kernel, ok_of (by decide +kernel), by decide, ok_of (by decide +kernel), by decide⟩⟩
  · rw [a]; simp only [issueChoice, fa]; rfl
  · rw [b]; simp only [issueChoice, fb]; rfl
def isNext (o : Host.Outcome State Fault Refusal) : Bool := match o with
  | .next _ => true
  | _ => false
theorem wit_StepsKeepMemoryCanonical_ClockAdvances : (placed 0x03100B0C 32).memOk = true ∧ isNext (step (placed 0x03100B0C 32)) = true := by decide +kernel
theorem wit_DecodeOfEncode_EncodeOfDecode : (∀ i ∈ ([.add 0x10 0x0B 0x0C, .mode 0xF80001#24, .endGroup 1#32, .movCpy 0x20 0x40 0x60 0x0A008007#32] : List Instr),
    i.wf false = true ∨ i.wf true = true) ∧ (∃ i, decodeWords 0x03100B0C#32 0 = .ok i) := ⟨by decide, _, rfl⟩
theorem wit_FrameOfLaneResults : let s := crowd; let f : Nat → LaneOut := fun l => { writes := [(0x10, l), (0x11, 5)], flags := 255, draws := 1 };
    (∀ l ∈ lanes s, ∀ w ∈ (f l).writes, w.1 ∈ [0x10, 0x11]) ∧ 0xFF ∉ [0x10, 0x11] ∧ (∀ j < 7, 0xF0 + j ∉ [0x10, 0x11]) ∧
      (0xC0 : Nat) < 0xE0 ∧ 63 < 64 ∧ 63 ∈ lanes s ∧ 0 = s.cur.g := by decide +kernel
theorem wit_StoresWriteTheirBytes : ∀ f ∈ ([id, store0] : List (Acc → Acc)),
    let s := going f; let a := f { load0 with home := 0, key := 0x8000, leaf := leaf6, stage := .going, sent := true };
    Tab.find? s.accs 7 = some a ∧ canPerform s 7 a = true ∧ s.l1 = [] ∧ s.stash = [] ∧ s.traces = [] ∧ s.bad = [] ∧ s.stamps = [] ∧ a.loc.host = false ∧
      a.loc.obs = false ∧ isDead s a.loc.gd a.loc.page = false ∧ a.scope ≠ 0 ∧ (a.op = .store ∨ a.op = .load) := by decide +kernel
theorem wit_RegisterFile : (63 < 64 ∧ 0 < 0xE0 ∧ 0xDF < 0xE0) ∧ (0xF0 ≤ 0xF6 ∧ 0xF6 < 0xF7) ∧ (0xF7 ≤ 0xFE ∧ 0xFE < 0xFF) ∧
    (0, 63, 0xBF) ≠ ((0, 63, 0xBE) : Nat × Nat × Nat) ∧ (0, 0xDF) ≠ ((0, 0xC0) : Nat × Nat) := by decide
theorem wit_HandlerEntrySavesState : 0 < 64 ∧ 63 < 64 ∧ (1#64 : Mask).getLsbD 0 = true ∧ (1#64 : Mask).getLsbD 63 = false := by decide
theorem wit_FrameOfIssues : 63 < 64 ∧ past 1 base (begun base 1) ∈ ([past 1 base (begun base 1)] : List State) := ⟨by decide, List.mem_singleton.2 rfl⟩

end Sys2Proof.Tests
end

/-! PROOFS. What one register write changes and what it leaves (R14, R43, R45). -/
namespace Sys2Proof.Machine

/-! ### What a write can do -/

theorem wr_v (s : State) (g l x : Nat) {c : Nat} (h : c < 0xC0) :
    wr s g l c x = { s with vregs := Tab.set s.vregs 0 (regKey g l c) (BitVec.ofNat 32 x),
                            dirtyBanks := Tab.put s.dirtyBanks (g * 16 + c / 16) true } := by
  simp only [wr, h, ↓reduceIte]
theorem wr_s (s : State) (g l x : Nat) {c : Nat} (h : 0xC0 ≤ c) (h' : c < 0xE0) :
    wr s g l c x = { s with sregs := Tab.set s.sregs 0 (g * 32 + (c - 0xC0)) (BitVec.ofNat 32 x) } := by
  simp only [wr, show ¬ c < 0xC0 by omega, h', ↓reduceIte]
/-- The rows of a channel are pushed whole, not by a register write (R46). -/
theorem wr_channel (s : State) (g l x : Nat) {c : Nat} (h : 0xE0 ≤ c) (h' : c < 0xF0) : wr s g l c x = s := by
  simp only [wr, show ¬ c < 0xC0 by omega, show ¬ c < 0xE0 by omega, h', ↓reduceIte]
theorem wr_pred (s : State) (g l x : Nat) {c : Nat} (h : 0xF0 ≤ c) (h' : c < 0xF7) :
    wr s g l c x = s.modLane g l fun y => y.setPred (c - 0xF0) (x % 2 == 1) := by
  simp only [wr, show ¬ c < 0xC0 by omega, show ¬ c < 0xE0 by omega, show ¬ c < 0xF0 by omega, h', ↓reduceIte]
theorem wr_k (s : State) (g l x : Nat) : wr s g l 0xFF x = s.modLane g l fun y => { y with k := BitVec.ofNat 32 x } := rfl
/-- The read-only codes discard what is written (R43). -/
theorem wr_discard (s : State) (g l x : Nat) {c : Nat} (h : 0xF7 ≤ c) (h' : c ≠ 0xFF) : wr s g l c x = s := by
  simp only [wr, show ¬ c < 0xC0 by omega, show ¬ c < 0xE0 by omega, show ¬ c < 0xF0 by omega, show ¬ c < 0xF7 by omega, h', ↓reduceIte]
/-- What one write does, by the class of its code. -/
theorem wr_cases (s : State) (g l c x : Nat) :
    (c < 0xC0 ∧ wr s g l c x = { s with vregs := Tab.set s.vregs 0 (regKey g l c) (BitVec.ofNat 32 x),
                                        dirtyBanks := Tab.put s.dirtyBanks (g * 16 + c / 16) true }) ∨
    ((0xC0 ≤ c ∧ c < 0xE0) ∧ wr s g l c x = { s with sregs := Tab.set s.sregs 0 (g * 32 + (c - 0xC0)) (BitVec.ofNat 32 x) }) ∨
    ((0xF0 ≤ c ∧ c < 0xF7) ∧ wr s g l c x = s.modLane g l fun y => y.setPred (c - 0xF0) (x % 2 == 1)) ∨
    (c = 0xFF ∧ wr s g l c x = s.modLane g l fun y => { y with k := BitVec.ofNat 32 x }) ∨
    (0xE0 ≤ c ∧ wr s g l c x = s) := by
  have split : c < 0xC0 ∨ (0xC0 ≤ c ∧ c < 0xE0) ∨ (0xE0 ≤ c ∧ c < 0xF0) ∨ (0xF0 ≤ c ∧ c < 0xF7) ∨ c = 0xFF ∨ (0xF7 ≤ c ∧ c ≠ 0xFF) := by omega
  rcases split with h | ⟨h, h'⟩ | ⟨h, h'⟩ | ⟨h, h'⟩ | rfl | ⟨h, h'⟩
  · exact .inl ⟨h, wr_v s g l x h⟩
  · exact .inr (.inl ⟨⟨h, h'⟩, wr_s s g l x h h'⟩)
  · exact .inr (.inr (.inr (.inr ⟨h, wr_channel s g l x h h'⟩)))
  · exact .inr (.inr (.inl ⟨⟨h, h'⟩, wr_pred s g l x h h'⟩))
  · exact .inr (.inr (.inr (.inl ⟨rfl, wr_k s g l x⟩)))
  · exact .inr (.inr (.inr (.inr ⟨by omega, wr_discard s g l x h h'⟩)))
theorem wr_vregs (s : State) (g l x : Nat) {c : Nat} (h : 0xC0 ≤ c) : (wr s g l c x).vregs = s.vregs := by
  rcases wr_cases s g l c x with ⟨hv, -⟩ | ⟨-, e⟩ | ⟨-, e⟩ | ⟨-, e⟩ | ⟨-, e⟩
  · omega
  all_goals exact (congrArg State.vregs e).trans rfl
theorem wr_sregs (s : State) (g l x : Nat) {c : Nat} (h : ¬ (0xC0 ≤ c ∧ c < 0xE0)) : (wr s g l c x).sregs = s.sregs := by
  rcases wr_cases s g l c x with ⟨-, e⟩ | ⟨hs, -⟩ | ⟨-, e⟩ | ⟨-, e⟩ | ⟨-, e⟩
  case inr.inl => exact absurd hs h
  all_goals exact (congrArg State.sregs e).trans rfl
theorem wr_mem (s : State) (g l c x : Nat) : (wr s g l c x).mem = s.mem := by
  rcases wr_cases s g l c x with ⟨-, e⟩ | ⟨-, e⟩ | ⟨-, e⟩ | ⟨-, e⟩ | ⟨-, e⟩
  all_goals exact (congrArg State.mem e).trans rfl

/-! ### Reads after a write -/

theorem regKey_inj {g h l j c d : Nat} (hl : l < 64) (hj : j < 64) (hc : c < 0xC0) (hd : d < 0xC0) (e : regKey g l c = regKey h j d) :
    (g, l, c) = (h, j, d) := by
  unfold regKey laneKey at e
  simp only [Prod.mk.injEq]
  omega
theorem rd_v (s : State) (g l : Nat) {c : Nat} (h : c < 0xC0) : rd s g l c = (Tab.get s.vregs (regKey g l c) 0).toNat := by simp [rd, h]
theorem rd_s (s : State) (g l : Nat) {c : Nat} (h : 0xC0 ≤ c) (h' : c < 0xE0) :
    rd s g l c = (Tab.get s.sregs (g * 32 + (c - 0xC0)) 0).toNat := by
  simp [rd, h', show ¬ c < 0xC0 by omega]
theorem rd_pred (s : State) (g l : Nat) {c : Nat} (h : 0xF0 ≤ c) (h' : c ≤ 0xF7) : rd s g l c = b2n ((s.lane g l).pred (c - 0xF0)) := by
  simp [rd, h', show ¬ c < 0xC0 by omega, show ¬ c < 0xE0 by omega, show ¬ c < 0xF0 by omega]
theorem rd_k (s : State) (g l : Nat) : rd s g l 0xFF = (s.lane g l).k.toNat := rfl

/-- A vector or scalar register reads as it was last written (R14). -/
theorem rd_wr_same (s : State) (g l x : Nat) {c : Nat} (hc : c < 0xE0) : rd (wr s g l c x) g l c = x % 2 ^ 32 := by
  by_cases hv : c < 0xC0
  · rw [rd_v _ _ _ hv, wr_v _ _ _ _ hv, Tab.get_set_same, BitVec.toNat_ofNat]
  · have hs : 0xC0 ≤ c := by omega
    rw [rd_s _ _ _ hs hc, wr_s _ _ _ _ hs hc, Tab.get_set_same, BitVec.toNat_ofNat]
/-- A write to any other register leaves a vector register of a lane as it was. -/
theorem rd_v_wr_other (s : State) (x : Nat) {g h l j c d : Nat} (hl : l < 64) (hj : j < 64) (hd : d < 0xC0) (hn : (h, j, d) ≠ (g, l, c)) :
    rd (wr s g l c x) h j d = rd s h j d := by
  rw [rd_v _ _ _ hd, rd_v _ _ _ hd]
  by_cases hc : c < 0xC0
  · rw [wr_v _ _ _ _ hc, Tab.get_set_other _ _ _ _ fun e => hn (regKey_inj hl hj hc hd e).symm]
  · rw [wr_vregs _ _ _ _ (by omega)]
/-- A write to any other register leaves a scalar register of a group as it was. -/
theorem rd_s_wr_other (s : State) (l x j : Nat) {g h c d : Nat} (hd : 0xC0 ≤ d) (hd' : d < 0xE0) (hn : (h, d) ≠ (g, c)) :
    rd (wr s g l c x) h j d = rd s h j d := by
  rw [rd_s _ _ _ hd hd', rd_s _ _ _ hd hd']
  by_cases hc : 0xC0 ≤ c ∧ c < 0xE0
  · have hk : g * 32 + (c - 0xC0) ≠ h * 32 + (d - 0xC0) := fun e => hn (by simp only [Prod.mk.injEq]; omega)
    rw [wr_s _ _ _ _ hc.1 hc.2, Tab.get_set_other _ _ _ _ hk]
  · rw [wr_sregs _ _ _ _ hc]

@[simp] theorem lane_modLane_same (s : State) (g l : Nat) (f : Lane → Lane) : (s.modLane g l f).lane g l = f (s.lane g l) :=
  lane_setLane_same s g l _
/-- A predicate reads as written, and every other predicate as before. -/
theorem preds_setPred (y : Lane) (b : Bool) (i : Nat) {j : Nat} (hj : j < 7) :
    (y.setPred i b).preds.getLsbD j = if i = j then b else y.preds.getLsbD j := by
  unfold Lane.setPred
  by_cases h7 : i = 7
  · rw [if_pos h7, if_neg (by omega)]
  · have hbit : (1#7 <<< i).getLsbD j = decide (i = j) := by
      rw [← BitVec.twoPow_eq, BitVec.getLsbD_twoPow]
      by_cases e : i = j <;> simp [e, hj]
    rw [if_neg h7]
    cases b
    case false => by_cases e : i = j <;> simp only [Bool.false_eq_true, if_false, BitVec.getLsbD_and, BitVec.getLsbD_not, hbit, hj, e] <;> simp [hj]
    case true => by_cases e : i = j <;> simp only [if_true, BitVec.getLsbD_or, hbit, e] <;> simp [hj]
theorem pred_setPred_same (y : Lane) (b : Bool) {i : Nat} (hi : i < 7) : (y.setPred i b).pred i = b := by
  rw [Lane.pred, if_neg (by omega), preds_setPred y b i hi, if_pos rfl]
theorem rd_wr_pred (s : State) (g l x : Nat) {c : Nat} (h : 0xF0 ≤ c) (h' : c < 0xF7) : rd (wr s g l c x) g l c = x % 2 := by
  rw [rd_pred _ _ _ h (by omega), wr_pred _ _ _ _ h h', lane_modLane_same, pred_setPred_same _ _ (by omega)]
  rcases Nat.mod_two_eq_zero_or_one x with e | e <;> simp [e, b2n]
theorem rd_wr_k (s : State) (g l x : Nat) : rd (wr s g l 0xFF x) g l 0xFF = x % 2 ^ 32 := by
  rw [rd_k, wr_k, lane_modLane_same, BitVec.toNat_ofNat]

/-- Settles O60: each class of codes reads back by its own lemma, and other registers have other keys. -/
theorem registerFile : Obligations.RegisterFile := by
  unfold Obligations.RegisterFile
  intro s g l c x hl
  refine ⟨rd_wr_same s g l x, rd_wr_pred s g l x, rd_wr_k s g l x, fun h h' => wr_discard s g l x h (by omega), rfl, rfl, rfl, Nat.mod_eq_of_lt hl, ?_, ?_, wr_mem s g l c x⟩
  · exact fun h j d hj hd _ hn => rd_v_wr_other s x hl hj hd hn
  · exact fun h d hd hd' _ hn j => rd_s_wr_other s l x j hd hd' hn

end Sys2Proof.Machine

/-! PROOFS. The frame of a per-lane instruction: what one state `after` shares with the state before (R13, R14, R89).
Each fact is about a part of the state, given as a function of it; a part that no stage of the instruction changes
is unchanged by the whole. -/
namespace Sys2Proof.Machine

theorem foldl_keep {α β : Type} {p : State → β} {f : State → α → State} {as : List α} (h : ∀ s, ∀ a ∈ as, p (f s a) = p s) (s : State) :
    p (as.foldl f s) = p s := by
  induction as generalizing s with
  | nil => rfl
  | cons a as ih =>
    rw [List.foldl_cons, ih fun s b hb => h s b (List.mem_cons_of_mem a hb), h s a List.mem_cons_self]
/-- Of steps that are each taken once, where only one changes a part of the state, that part changes as by this one. -/
theorem foldl_once {α β : Type} {p : State → β} {c : β → β} {f : State → α → State} {as : List α} {a : α} (hn : as.Nodup) (ha : a ∈ as)
    (hc : ∀ s, p (f s a) = c (p s)) (h : ∀ s, ∀ b ∈ as, b ≠ a → p (f s b) = p s) (s : State) : p (as.foldl f s) = c (p s) := by
  induction as generalizing s with
  | nil => exact absurd ha List.not_mem_nil
  | cons b as ih =>
    obtain ⟨hb, hn⟩ := List.nodup_cons.1 hn
    rw [List.foldl_cons]
    rcases List.mem_cons.1 ha with rfl | ha
    · rw [foldl_keep fun s d hd => h s d (List.mem_cons_of_mem a hd) fun e => hb (e ▸ hd), hc]
    · rw [ih hn ha fun s d hd => h s d (List.mem_cons_of_mem b hd), h s b List.mem_cons_self fun e => hb (e ▸ ha)]

/-! ### The parts of a state that issuing does not touch -/

/-- A part of the state that holds no channel, no performance counter and no place of a lane: what an issue changes
beside its results. -/
structure OffIssue {β : Type} (p : State → β) : Prop where
  chans : ∀ s cs, p { s with chans := cs } = p s
  pmcs : ∀ s ps, p { s with pmcs := ps } = p s
  advance : ∀ s g n m, p (advance s g n m) = p s

namespace OffIssue
variable {β : Type} {p : State → β} (hp : OffIssue p)
include hp

theorem event (s : State) (ck sl e n : Nat) : p (s.event ck sl e n) = p s := by
  obtain ⟨ps, h⟩ := event_frame s ck sl e n
  rw [h, hp.pmcs]
theorem popChan (s : State) (g c : Nat) : p (popChan s g c) = p s := by
  unfold Machine.popChan
  extract_lets x y
  cases closeCheck false y <;> exact hp.chans s _
theorem pushChan (s : State) (g c : Nat) (row : List Word) : p (pushChan s g c row) = p s := hp.chans s _
theorem counted (s : State) (n : Nat) (m : Mask) : p (counted s n m) = p s := by
  simp only [Machine.counted, countIssue, hp.event, hp.advance]
/-- Committing changes it only as the lanes' results do. -/
theorem commit (s : State) (i : Instr) (outs : List (Nat × LaneOut)) :
    ∃ t, p t = p s ∧ p (commit s i outs) = p (outs.foldl (fun t o => noteLane (writeAll t s.cur.g o.1 o.2.writes) s.cur.g o.1 o.2) t) := by
  refine ⟨(popsOf s s.cur.g s.cur.lanes i).foldl (fun t c => Machine.popChan t s.cur.g c) s,
    foldl_keep (fun t c _ => hp.popChan t s.cur.g c) s, ?_⟩
  simp only [Machine.commit, hp.event]
  exact foldl_keep (fun t c _ => hp.pushChan t s.cur.g c (rowOf outs c)) _

end OffIssue

/-- What one lane's result does to the state: its writes, then its flags and draws (R14). -/
def giveLane (g : Nat) (f : Nat → LaneOut) (s : State) (l : Nat) : State := noteLane (writeAll s g l (f l).writes) g l (f l)

/-- A per-lane instruction changes such a part only as the results of its lanes do, one lane after another. -/
theorem OffIssue.after {β : Type} {p : State → β} (hp : OffIssue p) (i : Instr) (s : State) (f : Nat → LaneOut) :
    ∃ t, p t = p s ∧ p (Claims.after i s f) = p ((Claims.lanes s).foldl (giveLane s.cur.g f) t) := by
  obtain ⟨t, ht, h⟩ := hp.commit (Claims.begun s 1) i ((Claims.lanes s).map fun l => (l, f l))
  refine ⟨t, ht.trans (hp.counted s 1 _), ?_⟩
  rw [Claims.after, Claims.past, hp.advance, h, List.foldl_map, Claims.cur_begun]
  rfl
/-- A part that no issuing lane's writes, flags or draws change is as before the instruction. -/
theorem OffIssue.after_keep {β : Type} {p : State → β} (hp : OffIssue p) (i : Instr) (s : State) (f : Nat → LaneOut)
    (hw : ∀ l ∈ Claims.lanes s, ∀ w ∈ (f l).writes, ∀ t, p (wr t s.cur.g l w.1 w.2) = p t)
    (hn : ∀ l ∈ Claims.lanes s, ∀ t, p (noteLane t s.cur.g l (f l)) = p t) : p (Claims.after i s f) = p s := by
  obtain ⟨t, ht, h⟩ := hp.after i s f
  rw [h, ← ht]
  refine foldl_keep (fun u l hl => ?_) t
  rw [giveLane, hn l hl]
  exact foldl_keep (fun v w hv => hw l hl w hv v) u

/-! ### All but lanes, registers and channels -/

/-- The state without what a per-lane instruction may change. -/
def State.sansResults (s : State) : State := { s with lanes := [], vregs := [], sregs := [], dirtyBanks := [], chans := [], pmcs := [] }

theorem offIssue_sansResults : OffIssue State.sansResults := ⟨fun _ _ => rfl, fun _ _ => rfl, fun _ _ _ _ => rfl⟩
theorem sansResults_wr (s : State) (g l c x : Nat) : (wr s g l c x).sansResults = s.sansResults := by
  rcases wr_cases s g l c x with ⟨-, e⟩ | ⟨-, e⟩ | ⟨-, e⟩ | ⟨-, e⟩ | ⟨-, e⟩
  all_goals exact (congrArg State.sansResults e).trans rfl
theorem sansResults_noteLane (s : State) (g l : Nat) (o : LaneOut) : (noteLane s g l o).sansResults = s.sansResults := by
  unfold noteLane; split <;> rfl
theorem sansResults_after (i : Instr) (s : State) (f : Nat → LaneOut) : (Claims.after i s f).sansResults = s.sansResults :=
  offIssue_sansResults.after_keep i s f (fun _ _ _ _ _ => sansResults_wr ..) fun _ _ _ => sansResults_noteLane ..

/-! ### Vector and scalar registers -/

theorem offIssue_rd (g l : Nat) {c : Nat} (hc : c < 0xE0) : OffIssue fun s => rd s g l c := by
  have key : ∀ s t : State, t.vregs = s.vregs → t.sregs = s.sregs → rd t g l c = rd s g l c := by
    intro s t hv hs
    by_cases h : c < 0xC0
    · rw [rd_v _ _ _ h, rd_v _ _ _ h, hv]
    · rw [rd_s _ _ _ (by omega) hc, rd_s _ _ _ (by omega) hc, hs]
  exact ⟨fun s _ => key s _ rfl rfl, fun s _ => key s _ rfl rfl, fun s _ _ _ => key s _ rfl rfl⟩
theorem rd_noteLane (s : State) (g h l j : Nat) (o : LaneOut) {c : Nat} (hc : c < 0xE0) : rd (noteLane s g l o) h j c = rd s h j c := by
  unfold noteLane
  split
  · rfl
  · simp [rd, hc]
theorem rd_v_after (i : Instr) (s : State) (f : Nat → LaneOut) {g l c : Nat} (hc : c < 0xC0) (hl : l < 64)
    (hn : g ≠ s.cur.g ∨ l ∉ Claims.lanes s ∨ ∀ w ∈ (f l).writes, w.1 ≠ c) : rd (Claims.after i s f) g l c = rd s g l c := by
  refine (offIssue_rd g l (by omega)).after_keep i s f (fun j hj w hw t => ?_) fun j _ t => rd_noteLane t _ _ _ _ _ (by omega)
  refine rd_v_wr_other t w.2 (lanesIn_lt hj) hl hc fun e => ?_
  obtain ⟨rfl, rfl, rfl⟩ : g = s.cur.g ∧ l = j ∧ c = w.1 := by simpa using e
  rcases hn with hn | hn | hn
  · exact hn rfl
  · exact hn hj
  · exact hn w hw rfl
theorem rd_s_after (i : Instr) (s : State) (f : Nat → LaneOut) (l : Nat) {g c : Nat} (hc : 0xC0 ≤ c) (hc' : c < 0xE0)
    (hn : g ≠ s.cur.g ∨ ∀ j ∈ Claims.lanes s, ∀ w ∈ (f j).writes, w.1 ≠ c) : rd (Claims.after i s f) g l c = rd s g l c := by
  refine (offIssue_rd g l hc').after_keep i s f (fun j hj w hw t => ?_) fun j _ t => rd_noteLane t _ _ _ _ _ hc'
  refine rd_s_wr_other t j w.2 l hc hc' fun e => ?_
  obtain ⟨rfl, rfl⟩ : g = s.cur.g ∧ c = w.1 := by simpa using e
  rcases hn with hn | hn
  · exact hn rfl
  · exact hn j hj w hw rfl

/-! ### Lanes -/

theorem advanceLane_keep {β : Type} {q : Lane → β} (hq : ∀ (y : Lane) pc mac, q { y with pc := pc, mac := mac } = q y) (s : State) (ck n : Nat)
    (y : Lane) : q (advanceLane s ck n y) = q y := by
  unfold advanceLane
  split
  · exact hq y _ y.mac
  · split
    · exact hq y _ _
    · exact hq y y.pc _
theorem offIssue_lane {β : Type} {q : Lane → β} (hq : ∀ (y : Lane) pc mac, q { y with pc := pc, mac := mac } = q y) (g l : Nat) :
    OffIssue fun s => q (s.lane g l) :=
  ⟨fun _ _ => rfl, fun _ _ => rfl, fun s _ _ _ => lane_onLanes_keep q _ _ _ (fun _ y => advanceLane_keep hq _ _ _ y) s g l⟩

theorem lane_modLane_keep {β : Type} {q : Lane → β} {f : Lane → Lane} (hf : ∀ y, q (f y) = q y) (s : State) (g l h j : Nat) :
    q ((s.modLane g l f).lane h j) = q (s.lane h j) :=
  lane_onLanes_keep q g [l] (fun _ => f) (fun _ => hf) s h j
theorem lane_wr_keep {β : Type} {q : Lane → β} {c : Nat} (hp : 0xF0 ≤ c → c < 0xF7 → ∀ (y : Lane) b, q (y.setPred (c - 0xF0) b) = q y)
    (hk : c = 0xFF → ∀ (y : Lane) w, q { y with k := w } = q y) (s : State) (g l x h j : Nat) :
    q ((wr s g l c x).lane h j) = q (s.lane h j) := by
  rcases wr_cases s g l c x with ⟨-, e⟩ | ⟨-, e⟩ | ⟨⟨hc, hc'⟩, e⟩ | ⟨hc, e⟩ | ⟨-, e⟩
  · exact (congrArg (fun t => q (t.lane h j)) e).trans rfl
  · exact (congrArg (fun t => q (t.lane h j)) e).trans rfl
  · rw [e]; exact lane_modLane_keep (fun y => hp hc hc' y _) s g l h j
  · rw [e]; exact lane_modLane_keep (fun y => hk hc y _) s g l h j
  · exact (congrArg (fun t => q (t.lane h j)) e).trans rfl
theorem lane_noteLane_keep {β : Type} {q : Lane → β} (hq : ∀ (y : Lane) a d, q { y with astat := a, drawctr := d } = q y) (s : State) (g l : Nat)
    (o : LaneOut) (h j : Nat) : q ((noteLane s g l o).lane h j) = q (s.lane h j) := by
  unfold noteLane
  split
  · rfl
  · exact lane_modLane_keep (fun y => hq y _ _) s g l h j
theorem lane_wr_other (s : State) (c x : Nat) {g h l j : Nat} (hl : l < 64) (hj : j < 64) (hn : (g, l) ≠ (h, j)) :
    (wr s g l c x).lane h j = s.lane h j := by
  rcases wr_cases s g l c x with ⟨-, e⟩ | ⟨-, e⟩ | ⟨-, e⟩ | ⟨-, e⟩ | ⟨-, e⟩
  · exact (congrArg (State.lane · h j) e).trans rfl
  · exact (congrArg (State.lane · h j) e).trans rfl
  · rw [e]; exact lane_setLane_other s _ hl hj hn
  · rw [e]; exact lane_setLane_other s _ hl hj hn
  · exact (congrArg (State.lane · h j) e).trans rfl
theorem lane_noteLane_other (s : State) (o : LaneOut) {g h l j : Nat} (hl : l < 64) (hj : j < 64) (hn : (g, l) ≠ (h, j)) :
    (noteLane s g l o).lane h j = s.lane h j := by
  unfold noteLane
  split
  · rfl
  · exact lane_setLane_other s _ hl hj hn
theorem lane_writeAll_other (s : State) (ws : List (Nat × Nat)) {g h l j : Nat} (hl : l < 64) (hj : j < 64) (hn : (g, l) ≠ (h, j)) :
    (writeAll s g l ws).lane h j = s.lane h j :=
  foldl_keep (p := fun t => t.lane h j) (fun t w _ => lane_wr_other t w.1 w.2 hl hj hn) s

/-- A lane without its place and without what a result may change of it. -/
def Lane.sansResults (y : Lane) : Lane := { y with pc := 0, mac := none, preds := 0, k := 0, astat := 0, drawctr := 0 }
theorem sansResults_setPred (y : Lane) (i : Nat) (b : Bool) : (y.setPred i b).sansResults = y.sansResults := by
  unfold Lane.setPred; split <;> rfl
theorem k_setPred (y : Lane) (i : Nat) (b : Bool) : (y.setPred i b).k = y.k := by
  unfold Lane.setPred; split <;> rfl

section
variable (i : Instr) (s : State) (f : Nat → LaneOut)

theorem lane_sansResults_after (g l : Nat) : ((Claims.after i s f).lane g l).sansResults = (s.lane g l).sansResults :=
  (offIssue_lane (q := Lane.sansResults) (fun _ _ _ => rfl) g l).after_keep i s f
    (fun j _ w _ t => lane_wr_keep (fun _ _ y b => sansResults_setPred y _ b) (fun _ _ _ => rfl) t s.cur.g j w.2 g l)
    fun j _ t => lane_noteLane_keep (fun _ _ _ => rfl) t s.cur.g j (f j) g l
theorem lane_k_after (g l : Nat) (hn : ∀ j ∈ Claims.lanes s, ∀ w ∈ (f j).writes, w.1 ≠ 0xFF) :
    ((Claims.after i s f).lane g l).k = (s.lane g l).k :=
  (offIssue_lane (q := Lane.k) (fun _ _ _ => rfl) g l).after_keep i s f
    (fun j hj w hw t => lane_wr_keep (fun _ _ y b => k_setPred y _ b) (fun e => absurd e (hn j hj w hw)) t s.cur.g j w.2 g l)
    fun j _ t => lane_noteLane_keep (fun _ _ _ => rfl) t s.cur.g j (f j) g l
theorem lane_pred_after (g l : Nat) {n : Nat} (h7 : n < 7) (hn : ∀ j ∈ Claims.lanes s, ∀ w ∈ (f j).writes, w.1 ≠ 0xF0 + n) :
    ((Claims.after i s f).lane g l).preds.getLsbD n = (s.lane g l).preds.getLsbD n := by
  refine (offIssue_lane (q := fun y => y.preds.getLsbD n) (fun _ _ _ => rfl) g l).after_keep i s f (fun j hj w hw t => ?_)
    fun j _ t => lane_noteLane_keep (q := fun y => y.preds.getLsbD n) (fun _ _ _ => rfl) t s.cur.g j (f j) g l
  have hne := hn j hj w hw
  refine lane_wr_keep (q := fun y => y.preds.getLsbD n) (fun _ _ y b => ?_) (fun _ _ _ => rfl) t s.cur.g j w.2 g l
  rw [preds_setPred y b _ h7, if_neg (by omega)]

/-- What a lane holds that results may change. -/
def Lane.results (y : Lane) : Word × Word × Word × BitVec 7 := (y.astat, y.drawctr, y.k, y.preds)
/-- The results of other lanes do not reach a lane. -/
theorem lane_results_after {g l : Nat} (hl : l < 64) (hn : g ≠ s.cur.g ∨ l ∉ Claims.lanes s) :
    ((Claims.after i s f).lane g l).results = (s.lane g l).results := by
  have hne : ∀ j ∈ Claims.lanes s, (s.cur.g, j) ≠ (g, l) := by
    rintro j hj e
    obtain ⟨rfl, rfl⟩ := Prod.mk.injEq .. ▸ e
    exact hn.elim (· rfl) (· hj)
  exact (offIssue_lane (q := Lane.results) (fun _ _ _ => rfl) g l).after_keep i s f
    (fun j hj w _ t => congrArg Lane.results (lane_wr_other t w.1 w.2 (lanesIn_lt hj) hl (hne j hj)))
    fun j hj t => congrArg Lane.results (lane_noteLane_other t (f j) (lanesIn_lt hj) hl (hne j hj))

end

/-! ### Flags and draws -/

/-- The flags and the draw counter of a lane. -/
def Lane.tally (y : Lane) : Word × Word := (y.astat, y.drawctr)
/-- A result's flags are joined to a lane's, and its draws counted (R14, R82). -/
def LaneOut.tally (o : LaneOut) (t : Word × Word) : Word × Word := (t.1 ||| w32 (o.flags % 256), t.2 + w32 o.draws)

theorem tally_setPred (y : Lane) (i : Nat) (b : Bool) : (y.setPred i b).tally = y.tally := by
  unfold Lane.setPred; split <;> rfl
theorem tally_writeAll (s : State) (g l h j : Nat) (ws : List (Nat × Nat)) : ((writeAll s g l ws).lane h j).tally = (s.lane h j).tally :=
  foldl_keep (p := fun t => (t.lane h j).tally)
    (fun t w _ => lane_wr_keep (fun _ _ y b => tally_setPred y _ b) (fun _ _ _ => rfl) t g l w.2 h j) s
theorem tally_noteLane_same (s : State) (g l : Nat) (o : LaneOut) : ((noteLane s g l o).lane g l).tally = o.tally (s.lane g l).tally := by
  unfold noteLane
  split
  next h => simp [Lane.tally, LaneOut.tally, h, w32]
  next => rw [lane_modLane_same]; rfl
theorem tally_after (i : Instr) (s : State) (f : Nat → LaneOut) {l : Nat} (hl : l ∈ Claims.lanes s) :
    ((Claims.after i s f).lane s.cur.g l).tally = (f l).tally (s.lane s.cur.g l).tally := by
  obtain ⟨t, ht, h⟩ := (offIssue_lane (q := Lane.tally) (fun _ _ _ => rfl) s.cur.g l).after i s f
  rw [h, ← ht]
  refine foldl_once (p := fun t => (t.lane s.cur.g l).tally) (lanesIn_nodup _) hl (fun u => ?_) (fun u j hj hne => ?_) t
  · rw [giveLane, tally_noteLane_same, tally_writeAll]
  · have hn : (s.cur.g, j) ≠ (s.cur.g, l) := fun e => hne (Prod.mk.inj e).2
    rw [giveLane, lane_noteLane_other _ _ (lanesIn_lt hj) (lanesIn_lt hl) hn, lane_writeAll_other _ _ (lanesIn_lt hj) (lanesIn_lt hl) hn]

/-- Settles O57: the rest of the state, the registers, the rest of a lane, and what a lane's own result changes. -/
theorem frameOfLaneResults : Obligations.FrameOfLaneResults := by
  unfold Obligations.FrameOfLaneResults
  intro i s f ds hds t
  have hne : ∀ c ∉ ds, ∀ j ∈ Claims.lanes s, ∀ w ∈ (f j).writes, w.1 ≠ c := fun c hc j hj w hw e => hc (e ▸ hds j hj w hw)
  have hrest : t.sansResults = s.sansResults := sansResults_after i s f
  have keep : ∀ {β : Type} (p : State → β), p t.sansResults = p s.sansResults := fun p => congrArg p hrest
  refine ⟨fun a => congrArg (getByte · a) (keep State.mem), keep State.hostMem, keep State.opmem, keep State.heads, keep State.wins,
    keep State.sems, keep State.accs, keep State.cmds, keep State.groups, keep State.entries, keep State.recs, keep State.ctxs,
    keep State.dies, keep State.pkgs, ?vector, ?scalar, ?lane⟩
  case vector =>
    intro g l c hc hn hl
    refine rd_v_after i s f hc hl (hn.imp_right fun h => ?_)
    by_cases hj : l ∈ Claims.lanes s
    · exact .inr (hne c (h.resolve_left (· hj)) l hj)
    · exact .inl hj
  case scalar => exact fun g l c hc hc' hn => rd_s_after i s f l hc hc' (hn.imp_right (hne c))
  case lane =>
    intro g l hl x y
    have hlane : y.sansResults = x.sansResults := lane_sansResults_after i s f g l
    have keepL : ∀ {β : Type} (q : Lane → β), q y.sansResults = q x.sansResults := fun q => congrArg q hlane
    refine ⟨keepL Lane.mode, keepL Lane.streamid, keepL Lane.ret, keepL Lane.inHandler, keepL Lane.savedMode, keepL Lane.savedK,
      keepL Lane.resumePc, keepL Lane.tinfo, keepL Lane.stand, fun hk => lane_k_after i s f g l (hne _ hk),
      fun j hj hp => lane_pred_after i s f g l hj (hne _ hp), fun hn => ?_, ?_⟩
    · simpa [Lane.results] using lane_results_after i s f hl hn
    · rintro rfl hl
      simpa [Lane.tally, LaneOut.tally] using tally_after i s f hl

end Sys2Proof.Machine

/-! PROOFS. What every step gives a state: time passes (R28, R43; log 1), and what reset gives it (R27). -/
namespace Sys2Proof.Machine

/-- Settles O52: what no table lists holds the default of its structure, and both memories are empty. -/
theorem resetState : Obligations.ResetState := by
  unfold Obligations.ResetState
  exact ⟨fun _ => rfl, fun _ => rfl, fun _ => rfl, fun _ => rfl, fun _ => rfl, fun _ _ => rfl, fun _ => rfl, fun _ => rfl, rfl, reset_memOk⟩

/-! ### Time -/

theorem countCores_agenda (s t : State) (n : Nat) : (countCores s t n).agenda = t.agenda := by
  unfold countCores
  refine foldl_keep (p := State.agenda) (fun u d _ => ?_) t
  exact foldl_keep (p := State.agenda) (fun _ _ _ => by rfl) u
theorem passTime_agenda (s t : State) : (passTime s t).agenda = t.agenda := by
  unfold passTime
  split
  · rfl
  · exact countCores_agenda s _ _
theorem passTime_tick (s t : State) : (passTime s t).tick = s.tick + 1 := by
  unfold passTime
  split <;> rfl
/-- No cycle passes while rows are left over from the step; else at least one does (log 1). -/
theorem passTime_cycle (s t : State) :
    (passTime s t).cycle = if t.agenda = [] then s.cycle + (1 + Config.elapsed s.tick) else s.cycle := by
  unfold passTime
  cases t.agenda <;> rfl
theorem timed_next {s t : State} {o : Out} (h : timed s o = .next t) : ∃ u, t = passTime s u := by
  cases o with
  | next u => exact ⟨u, (Host.Outcome.next.inj h).symm⟩
  | fault f => cases h
  | refused r => cases h
/-- Whatever a step does, it ends with the time that passes since the state it started from. -/
theorem step_next {s t : State} (h : step s = .next t) : ∃ u, t = passTime s u := by
  unfold step at h
  split at h
  · exact timed_next h
  · split at h
    · exact timed_next h
    · split at h <;> exact timed_next h

/-- Settles O56, by what passing time does to CLOCK, the step count and the agenda. -/
theorem clockAdvances : Obligations.ClockAdvances := by
  unfold Obligations.ClockAdvances
  intro s t h
  obtain ⟨u, rfl⟩ := step_next h
  rw [passTime_agenda, passTime_tick, passTime_cycle]
  refine ⟨?_, rfl, fun hu => ?_⟩
  · split <;> omega
  · rw [if_pos hu]; omega

end Sys2Proof.Machine

/-! PROOFS. Power windows, credits, temperature and alarms (R27 to R29, R330, R331, R398, R399). -/
namespace Sys2Proof.Machine

/-- The four levels, each with the comparisons that lead to it (R330). -/
theorem throttle_cases (est budget : Nat) :
    throttle est budget = 0 ∧ est * 4 ≤ 4 * budget ∨
    throttle est budget = 1 ∧ 4 * budget < est * 4 ∧ est * 3 ≤ 4 * budget ∨
    throttle est budget = 2 ∧ 4 * budget < est * 3 ∧ est * 2 ≤ 4 * budget ∨
    throttle est budget = 3 ∧ 4 * budget < est * 2 := by
  unfold throttle
  split
  · omega
  · split
    · omega
    · split <;> omega
theorem throttle_le (est budget : Nat) : throttle est budget ≤ 3 := by
  have h := throttle_cases est budget
  omega
theorem throttle_fits {est budget : Nat} (h : throttle est budget < 3) : est * (4 - throttle est budget) ≤ 4 * budget := by
  rcases throttle_cases est budget with ⟨e, hfit⟩ | ⟨e, -, hfit⟩ | ⟨e, -, hfit⟩ | ⟨e, -⟩
  · rwa [e]
  · rwa [e]
  · rwa [e]
  · omega
/-- Of a smaller level less is withheld, so it fits no better than the last one that was tried. -/
theorem throttle_least {est budget t : Nat} (h : t < throttle est budget) : 4 * budget < est * (4 - t) := by
  have hmono {k : Nat} (hk : k ≤ 4 - t) (hlt : 4 * budget < est * k) : 4 * budget < est * (4 - t) :=
    Nat.lt_of_lt_of_le hlt (Nat.mul_le_mul_left est hk)
  rcases throttle_cases est budget with ⟨e, -⟩ | ⟨e, hlt, -⟩ | ⟨e, hlt, -⟩ | ⟨e, hlt⟩
  · omega
  · exact hmono (by omega) hlt
  · exact hmono (by omega) hlt
  · exact hmono (by omega) hlt

/-! ### The rows where their condition holds -/

section
variable {s : State} {gd n : Nat}

theorem exec_powerWindow (h : windowDue s gd = true) : exec (.powerWindow gd n) s =
    .next (s.modPower gd fun x => { x with window := x.window + 1, estimate := n, theta := throttle n (usable s gd) }) := by
  simp [exec, execPowerWindow, h]

/-- The exchange is taken, before anything is asked or given back (R331). -/
def exchanged (s : State) (gd : Nat) : State := s.modPower gd fun x => { x with exchange := x.exchange + 1 }
theorem exec_sidebandExchange_repay {m : Nat} (h : exchangeDue s gd = true) (hw : wantsRepay (exchanged s gd) gd = true)
    (hm : repayTo (exchanged s gd) gd = some m) : exec (.sidebandExchange gd) s = .next (sendMsg (exchanged s gd) (.repay gd m)) := by
  unfold exchanged at *
  simp [exec, execSidebandExchange, h, hw, hm]
theorem exec_sidebandExchange_borrow {m : Nat} (h : exchangeDue s gd = true) (hr : wantsRepay (exchanged s gd) gd = false)
    (hw : wantsBorrow (exchanged s gd) gd = true) (hm : nextPeer (exchanged s gd) gd = some m) : exec (.sidebandExchange gd) s =
      .next (sendMsg ((exchanged s gd).modPower gd fun x => { x with asked := m + 1, outstanding := some (exchanged s gd).cycle }) (.borrow gd m)) := by
  unfold exchanged at *
  simp [exec, execSidebandExchange, h, hr, hw, hm]
theorem exec_sidebandExchange_idle (h : exchangeDue s gd = true) (hr : wantsRepay (exchanged s gd) gd = false)
    (hb : wantsBorrow (exchanged s gd) gd = false) : exec (.sidebandExchange gd) s = .next (exchanged s gd) := by
  unfold exchanged at *
  simp [exec, execSidebandExchange, h, hr, hb]

theorem exec_creditMessage {m : MsgRec} (h : Tab.find? s.msgs n = some m) (hc : isCredit m.msg = true) (ht : s.cycle ≤ m.sentAt + 16384) :
    exec (.creditMessage n) s = .next (creditEffect (takeMsg s n) m.msg) := by
  simp [exec, execCreditMessage, h, hc, Nat.not_lt.2 ht]
theorem exec_lostGrantReturn {m : MsgRec} {a b : Nat} (h : Tab.find? s.msgs n = some m) (hg : m.msg = .grant a b) (ht : m.sentAt + 16384 ≤ s.cycle) :
    exec (.lostGrantReturn n) s = .next (takeMsg s n) := by
  simp [exec, execLostGrantReturn, h, hg, ht]
theorem exec_borrowTimeout (h : borrowStale s gd = true) :
    exec (.borrowTimeout gd) s = .next (s.modPower gd fun x => { x with outstanding := none }) := by
  simp [exec, execBorrowTimeout, h]

/-- An authentication at an open port fails; the third failure raises DBGX (R398). -/
theorem exec_debugAuthFail (h : (s.pkg n).debugLocked = false) :
    let t := s.modPkg n fun p => { p with failedAuth := p.failedAuth + 1 }
    exec (.debugAuthFail n) s = .next (if (s.pkg n).failedAuth = 2 then raiseAlarm t n 3 else t) := by
  simp [exec, execDebugAuthFail, h]

end

/-- Settles O47: the throttle level by its four cases, and each row where its condition holds. -/
theorem powerAndThrottleEvents : Obligations.PowerAndThrottleEvents := by
  unfold Obligations.PowerAndThrottleEvents
  refine ⟨fun est budget => ⟨throttle_le est budget, throttle_fits, fun t => throttle_least⟩, fun s gd n => ?_⟩
  refine ⟨exec_powerWindow, ?exchange, fun m hm => ⟨?credit, ?lost⟩, exec_borrowTimeout,
    rfl, rfl, rfl, rfl, fun hopen hn => ?failed, fun hopen hn => ?locked⟩
  case exchange =>
    intro t hdue
    exact ⟨fun m => exec_sidebandExchange_repay hdue, fun m => exec_sidebandExchange_borrow hdue, exec_sidebandExchange_idle hdue⟩
  case credit => exact exec_creditMessage hm
  case lost => exact fun a b hg => exec_lostGrantReturn hm hg
  case failed => rw [exec_debugAuthFail hopen, if_neg hn]
  case locked => rw [exec_debugAuthFail hopen, if_pos hn]

end Sys2Proof.Machine

/-! PROOFS. Boot, attestation, and what the steward's writes do (R30, R302, R378, R386, R395 to R399, R408). -/
namespace Sys2Proof.Machine

/-! ### Boot -/

/-- Of a package, power-on keeps the fused floor and the image's SVN (R396; log 31). -/
theorem pkg_powerReset (s : State) (p : Nat) : (powerReset s p).pkg p = { svn := (s.pkg p).svn, floorSvn := (s.pkg p).floorSvn } := by
  simp only [State.pkg, powerReset, Tab.get_put_same]
  rfl
@[simp] theorem die_modPkg (s : State) (p gd : Nat) (f : Pkg → Pkg) : (s.modPkg p f).die gd = s.die gd := rfl
@[simp] theorem pkg_modDie (s : State) (p gd : Nat) (f : Die → Die) : (s.modDie gd f).pkg p = s.pkg p := rfl

/-- An image whose signatures hold and whose SVN is not below the floor boots (R30, R396). -/
theorem leads_powerOn {s : State} {p : Nat} (h : (s.pkg p).floorSvn ≤ (s.pkg p).svn) :
    Claims.leads (.powerOn p true true) s fun t => (t.pkg p).booted = true ∧ (t.die (p * 64)).up = true ∧ (t.pkg p).keys = [] := by
  simp [Claims.leads, exec, execPowerOn, pkg_powerReset, h]
/-- A die whose digest is the header's runs the body (R396). -/
theorem leads_dieBodyCheck {s : State} {gd : Nat} (hb : (s.pkg (pkgOf gd)).booted = true) (hu : (s.die gd).up = false)
    (hl : (s.pkg (pkgOf gd)).lostDies.contains gd = false) : Claims.leads (.dieBodyCheck gd true) s fun t => (t.die gd).up = true := by
  simp only [Claims.leads, exec, execDieBodyCheck, hb, hu, hl, Bool.not_true, Bool.or_self, Bool.false_eq_true, if_false, if_true,
    Host.Outcome.next.injEq, exists_eq_left']
  split <;> simp
theorem exec_spdmRequest {s : State} {p n : Nat} (hb : (s.pkg p).booted = true) (h1 : 1 ≤ n) (h5 : n ≤ 5) :
    exec (.spdmRequest p n) s = .next (s.modPkg p fun x => { x with measured := x.measured ++ [n] }) := by
  simp [exec, execSpdmRequest, hb, h1, h5]

/-! ### Keys (R386) -/

theorem leads_keyGenerate (s : State) (p : Nat) {n : Nat} (h1 : 1 ≤ n) (h : n < 256) :
    Claims.leads (.keyGenerate p n) s fun t => Tab.find? (t.pkg p).keys n = some ((s.pkg p).keyEpoch + 1) := by
  refine ⟨_, rfl, ?_⟩
  rw [keyFill, if_neg (by omega)]
  simp [Tab.find_put]
theorem leads_keyErase (s : State) (p n : Nat) : Claims.leads (.keyErase p n) s fun t => Tab.find? (t.pkg p).keys n = none := by
  refine ⟨_, rfl, ?_⟩
  simp [keyZero, Tab.find_del]

/-! ### Alarm policy (R398) -/

/-- The digits of a number written in four digits of base 4. -/
theorem digit_of_four {f : Nat → Nat} (hf : ∀ i, f i < 4) {i : Nat} (hi : i < 4) :
    (w32 ((List.range 4).foldl (fun x i => x + 4 ^ i * f i) 0)).toNat / 4 ^ i % 4 = f i := by
  have h0 := hf 0
  have h1 := hf 1
  have h2 := hf 2
  have h3 := hf 3
  simp only [w32, List.range_succ, List.range_zero, List.nil_append, List.foldl_append, List.foldl_cons, List.foldl_nil, BitVec.toNat_ofNat]
  rcases (by omega : i = 0 ∨ i = 1 ∨ i = 2 ∨ i = 3) with rfl | rfl | rfl | rfl <;> omega
/-- What a write of n makes of a policy field that holds o: it does not fall, and does not become 3. -/
def polField (o n : Nat) : Nat := if n = 3 ∨ n < o then o else n
theorem leads_alarmpolWrite (s : State) (p : Nat) (w : Word) {i : Nat} (hi : i < 4) :
    Claims.leads (.alarmpolWrite p w) s fun t =>
      (t.pkg p).policy.toNat / 4 ^ i % 4 = polField ((s.pkg p).policy.toNat / 4 ^ i % 4) (w.toNat / 4 ^ i % 4) := by
  refine ⟨_, rfl, ?_⟩
  simp only [alarmpolEffect, pkg_modPkg_same]
  refine digit_of_four (f := fun i => polField ((s.pkg p).policy.toNat / 4 ^ i % 4) (w.toNat / 4 ^ i % 4)) (fun i => ?_) hi
  unfold polField
  split <;> omega

/-! ### Registers -/

section
variable {s : State} {gd num : Nat} {w : Word}

theorem exec_lbarAllocate (h : isLbar num = true) (he : bitOf w.toNat 31 = true) :
    exec (.lbarAllocate gd num w) s = .next (lbarWrite s (lbarOf gd num) w) := by
  simp [exec, execLbarAllocate, h, he]
theorem exec_lbarFree (h : isLbar num = true) (he : bitOf w.toNat 31 = false) :
    exec (.lbarFree gd num w) s = .next (lbarWrite s (lbarOf gd num) w) := by
  simp [exec, execLbarFree, h, he]
theorem exec_hctlKill (h : (s.grp num).inHandler = true) :
    exec (.hctlKill num) s = .next (hctlEffect (s.modGrp num fun x => { x with hctl := 1 }) num) := by
  simp [exec, execHctlKill, h]
theorem exec_registerWrite_die (h : num < 0x440 ∨ 0x4FF < num) (hk : num ≠ 0xB0) :
    exec (.registerWrite gd num w) s = .next (dieRegWrite s gd num w) := by
  simp only [exec, execRegisterWrite]
  rw [if_neg (by omega), if_neg hk]
theorem exec_registerWrite_keycmd (h : bitsOf w.toNat 31 30 = 0) : exec (.registerWrite gd 0xB0 w) s =
    .next (s.modPkg (pkgOf gd) fun x => { x with keycmd := w &&& 0xC00000FF#32 }) := by
  simp [exec, execRegisterWrite, h]
theorem exec_registerWrite_lbctx (h : 0x440 ≤ num) (h' : num ≤ 0x4FF) (ho : num % 2 = 1) :
    exec (.registerWrite gd num w) s = .next (lbctxWrite s (lbarOf gd num) w) := by
  simp only [exec, execRegisterWrite]
  rw [if_pos ⟨h, h'⟩, if_pos ho]

end

/-- Settles O48, row by row. -/
theorem bootAndStewardEvents : Obligations.BootAndStewardEvents := by
  unfold Obligations.BootAndStewardEvents
  intro s p gd num w
  exact ⟨leads_powerOn, leads_dieBodyCheck, exec_spdmRequest, rfl, fun h1 h => ⟨leads_keyGenerate s p h1 h, leads_keyErase s p num⟩,
    exec_lbarAllocate, exec_lbarFree, exec_hctlKill, fun i hi => leads_alarmpolWrite s p w hi, exec_registerWrite_die,
    exec_registerWrite_keycmd, exec_registerWrite_lbctx⟩

end Sys2Proof.Machine

/-! PROOFS. Trays and Belts: gathers, firings, reclaims, and the ring's preloads, slots and readouts (R25, R145, R146, R150,
R323 to R325). -/
namespace Sys2Proof.Machine

/-! ### Census -/

theorem scanStop_frame (s : State) (gd n : Nat) : ∃ ps, scanStop s gd n = { s with pkgs := ps } := by
  unfold scanStop
  extract_lets
  split
  · exact ⟨_, rfl⟩
  · exact ⟨s.pkgs, rfl⟩
/-- Counting in the census may stop a scan, and changes nothing else (R449, R452). -/
theorem addCensus_frame (s : State) (gd idx tag : Nat) (c : Counts) :
    ∃ cs ps, addCensus s gd idx tag c = { s with census := cs, pkgs := ps } := by
  unfold addCensus
  split
  · exact ⟨s.census, s.pkgs, rfl⟩
  · extract_lets k w fresh coll put t0 t1 t2 t3 u
    split
    · obtain ⟨ps, h⟩ := scanStop_frame u gd 3
      exact ⟨t3, ps, h⟩
    · exact ⟨t3, s.pkgs, rfl⟩
theorem passCensus_keep {β : Type} {p : State → β} (hp : ∀ (s : State) cs ps, p { s with census := cs, pkgs := ps } = p s)
    (s : State) (q op i : Nat) : p (passCensus s q op i) = p s := by
  obtain ⟨cs, ps, h⟩ := addCensus_frame s (q / 5) (896 + (op + i) % 128) (2 ^ 31 + i * 2 ^ 16 + op) { hdr := 1 }
  rw [passCensus, h, hp]

/-! ### Trays and records -/

section
variable {s : State} {gd n b : Nat}

theorem exec_gatherComplete {x : Rec} {y : Tray} {t : State} {bs : List Nat} (hx : s.recAt (recKey gd n) = x)
    (hy : Tab.find? s.trays x.tray = some y) (hb : bufForRow y = some b) (hu : ungathered x = true) (hd : x.tray / 64 = gd)
    (hr : readRange s gd (gd * 17 + 16) (s.ctxOf (trayOper s x.tray).ctx).asid (pairAt x.words 8)
      ((parseHdr (trayHdr y 1)).areas.getD 0 0) = .ok (t, bs)) :
    exec (.gatherComplete gd n) s = .next (placeRow t gd n x.tray b bs) := by
  simp only [exec, execGatherComplete, hx, hy, hb, hu, hd, bne_self_eq_false, Bool.not_true, Bool.or_self, Bool.false_eq_true, if_false, hr]
/-- A building tile whose time is over fires, or is due until the seat limit lets it (R323, R324). -/
theorem exec_trayTimeout (hb : buildingOf (s.tray (gd * 64 + n)) = some b) (ht : timedOut s (gd * 64 + n) b = true) :
    exec (.trayTimeout gd n) s = .next (fireOrWait s (gd * 64 + n) b) := by
  simp [exec, execTrayTimeout, hb, ht]
theorem exec_deferredTileFire (hb : buildingOf (s.tray (gd * 64 + n)) = some b)
    (hd : ((s.tray (gd * 64 + n)).bufs.getD b {}).due = true) (hm : mayFire s (gd * 64 + n) = true) :
    exec (.deferredTileFire gd n) s = .next (fireTile s (gd * 64 + n) b) := by
  simp only [exec, execDeferredTileFire, hb, hd, hm, Bool.and_self, if_true]
theorem exec_stewardReclaim (h : (s.recAt (recKey gd n)).st = .steward) :
    exec (.stewardReclaim gd n) s = .next { s with recs := Tab.del s.recs (recKey gd n) } := by
  simp [exec, execStewardReclaim, h]

end

/-! ### The ring -/

/-- The slot that becomes active next. -/
def nextSlot (g : Ring) : Nat := (g.current + 1) % g.slots.length
/-- The banks swapped and the tiles that board at the next slot, which is where a span starts (R145, R149). -/
def boarding (s : State) (q r : Nat) (g : Ring) : State × List Rider :=
  if spanFirst g (nextSlot g) && !boardsNot (swapBanks s q r) q r then
    board (swapBanks s q r) (q / 5) (slotAt g (nextSlot g)).oper (slotAt g (nextSlot g)).seats
  else (swapBanks s q r, [])
/-- A rider of the slot's operator passes it; another rides on (R150). -/
def passing (t : State) (q r : Nat) (g : Ring) (x : Rider) : Rider :=
  if (t.tray x.tray).oper == (slotAt g (nextSlot g)).oper && !x.last then
    passSlot t g (nextSlot g) (Tab.get t.opers (operKey (q / 5) (slotAt g (nextSlot g)).oper) {}) (t.bank (bankKey q r 0)).tile? x
  else x

section
variable {s : State} {q r k : Nat} {g : Ring}

theorem exec_preloadComplete (h : ringNow s q r = some (k, g)) (hp : g.preloaded = false) (hs : g.slots ≠ []) :
    let p := preload s q r g (nextSlot g)
    exec (.preloadComplete q r) s = .next { p.1 with rings := Tab.put p.1.rings k { g with
      preloaded := true, slots := g.slots.set (nextSlot g) { slotAt g (nextSlot g) with faulted := p.2 } } } := by
  simp [exec, execPreloadComplete, h, hp, hs, nextSlot]

/-- The next slot becomes active with the ring's riders and those that board; but for the census of faulted passes, the
rest of the state is as it was after boarding. -/
theorem exec_beltSlotActive (h : ringNow s q r = some (k, g)) (hp : g.preloaded = true) (hs : g.slots ≠ []) :
    ∃ t : State, t.mem = (boarding s q r g).1.mem ∧ t.banks = (boarding s q r g).1.banks ∧
      exec (.beltSlotActive q r) s = .next { t with rings := Tab.put t.rings k { g with
        current := nextSlot g, preloaded := false, riders := (g.riders ++ (boarding s q r g).2).map (passing (boarding s q r g).1 q r g) } } := by
  generalize hall : g.riders ++ (boarding s q r g).2 = all
  generalize hfault : (all.filter fun x => ((boarding s q r g).1.tray x.tray).oper == (slotAt g (nextSlot g)).oper && !x.last &&
    passFault (boarding s q r g).1 g (nextSlot g) ((boarding s q r g).1.bank (bankKey q r 0)).tile? x) = faulted
  refine ⟨faulted.foldl (fun t _ => passCensus t q (slotAt g (nextSlot g)).oper (nextSlot g)) (boarding s q r g).1, ?_, ?_, ?_⟩
  · exact foldl_keep (p := State.mem) (fun t _ _ => passCensus_keep (fun _ _ _ => rfl) t q _ _) _
  · exact foldl_keep (p := State.banks) (fun t _ _ => passCensus_keep (fun _ _ _ => rfl) t q _ _) _
  · subst hfault hall
    simp only [exec, execBeltSlotActive, h, hp, List.isEmpty_eq_false_iff.2 hs, Bool.not_true, Bool.or_self, Bool.false_eq_true, if_false]
    rfl
/-- Inside a span nothing boards (R149). -/
theorem boarding_inside (h : spanFirst g (nextSlot g) = false) : boarding s q r g = (swapBanks s q r, []) := by
  simp [boarding, h]

/-- A block of results is written unless the tile is bad; the tile leaves with its last block, and signals (R139, R150). -/
theorem exec_readoutComplete {j : Nat} {x : Rider} {o : Nat × Nat × Nat × List Word × Nat} {rest : List (Nat × Nat × Nat × List Word × Nat)}
    (h : ringNow s q r = some (k, g)) (hj : readyRider g = some j) (hx : g.riders[j]? = some x) (ho : x.out = o :: rest) :
    let t := if x.bad then s else writeOut s x (trayOper s x.tray) o.1 o.2.1 o.2.2.1 o.2.2.2.1 o.2.2.2.2
    exec (.readoutComplete q r) s = .next (if rest.isEmpty && x.last then
        signalTile { t with rings := Tab.put t.rings k { g with riders := g.riders.eraseIdx j } } x
      else { t with rings := Tab.put t.rings k { g with riders := g.riders.set j { x with out := rest } } }) := by
  simp only [exec, execReadoutComplete, h, hj, hx, ho]
  split <;> rfl

end

/-- Settles O42: each row where its condition holds. -/
theorem trayAndBeltEvents : Obligations.TrayAndBeltEvents := by
  unfold Obligations.TrayAndBeltEvents
  refine ⟨fun s gd n => ⟨?gather, ?timer, exec_stewardReclaim⟩, fun s q r k g h => ⟨?preload, ?inside, ?active, ?readout⟩⟩
  case gather => exact fun y b t bs => exec_gatherComplete rfl
  case timer =>
    intro b k hb
    refine ⟨fun ht hm => ?_, fun ht hm => ?_, exec_deferredTileFire hb⟩
    · rw [exec_trayTimeout hb ht, fireOrWait, if_pos hm]
    · rw [exec_trayTimeout hb ht, fireOrWait, if_neg (by simp [k, hm])]
  case preload =>
    intro hp hs
    exact ⟨_, exec_preloadComplete h hp hs, by simp [Tab.find_put, nextSlot], rfl⟩
  case inside =>
    intro hp hs hspan hr
    obtain ⟨t, -, hbanks, he⟩ := exec_beltSlotActive h hp hs
    rw [boarding_inside hspan] at hbanks he
    exact ⟨_, he, by simp [Tab.find_put, hr, nextSlot], hbanks⟩
  case active =>
    intro hp hs
    obtain ⟨t, hmem, -, he⟩ := exec_beltSlotActive h hp hs
    exact ⟨_, he, hmem, by rw [Tab.find_put, if_pos rfl]; rfl⟩
  case readout =>
    intro j x o rest hj hx ho t
    have he := exec_readoutComplete h hj hx ho
    refine ⟨fun hn => ?_, fun hn hl => ?_⟩
    · rw [he, if_neg (by rcases hn with hn | hn <;> simp [hn])]
    · rw [he, if_pos (by simp [hn, hl])]

end Sys2Proof.Machine

/-! PROOFS. Random numbers and floating-point reductions (R82, R96, R129 to R132), and the shared rules behind them: from
`ready` to `after` for a per-lane instruction and for one that reads other lanes (R93, R113). -/
namespace Sys2Proof.Claims
open Sys2Proof Sys2Proof.Machine

/-! ### From `ready` to `after` -/

@[simp] theorem results_nil (s : State) (types : List Nat) : results s types [] := nofun
@[simp] theorem results_cons (s : State) (types : List Nat) (p : Instr × (Nat → LaneOut)) (ps : List (Instr × (Nat → LaneOut))) :
    results s types (p :: ps) ↔ (ready p.1 types s = true → exec p.1 s = .next (after p.1 s p.2)) ∧ results s types ps :=
  List.forall_mem_cons

section
variable {i : Instr} {t : Nat} {ts : List Nat} {s : State} {f : State → Mask → Nat → LaneOut} {g : Nat → LaneOut}

/-- An instruction of any TYPE with no checks of its own meets no cause when it is ready. -/
theorem noCause_laneRule (h : ready i [] s = true) : causesOf s (laneRule i) (issuing s) = [] ∧ issuing s ≠ 0 :=
  noCause_of_ready h rfl (.inl rfl) nofun nofun rfl nofun nofun rfl fun _ _ => rfl
/-- An instruction that reads other lanes meets no cause when it is ready and its lanes hold one TYPE (R113). -/
theorem noCause_sameTypeRule (hm : mixedTypes s (issuing s) = false) (h : ready i (t :: ts) s = true) :
    causesOf s (sameTypeRule i (some (t :: ts))) (issuing s) = [] ∧ issuing s ≠ 0 :=
  noCause_of_ready h rfl (.inr ⟨rfl, List.cons_ne_nil t ts⟩) nofun nofun rfl nofun nofun rfl fun _ _ => by simp [sameTypeRule, hm]

theorem laneOp_laneRule (hf : ∀ l, f (begun s 1) (issuing s) l = g l) (h : ready i [] s = true) :
    laneOp (laneRule i) s f = .next (after i s g) :=
  laneOp_of_noCause (noCause_laneRule h) rfl rfl hf
theorem laneOp_sameTypeRule (hm : mixedTypes s (issuing s) = false) (hf : ∀ l, f (begun s 1) (issuing s) l = g l)
    (h : ready i (t :: ts) s = true) : laneOp (sameTypeRule i (some (t :: ts))) s f = .next (after i s g) :=
  laneOp_of_noCause (noCause_sameTypeRule hm h) rfl rfl hf

end

theorem exec_nop {s : State} (h : ready .nop [] s = true) : exec .nop s = .next (past 1 s (begun s 1)) :=
  issue_of_noCause (noCause_laneRule h)

/-- Settles O8: RAND, RANDF and NOP meet no cause, nor do the reductions of lanes of one TYPE; what each lane writes is read
from the state before. -/
theorem randomAndFloatReductionResults : Obligations.RandomAndFloatReductionResults := by
  unfold Obligations.RandomAndFloatReductionResults
  simp only [results_cons, results_nil, and_true]
  refine ⟨fun s d => ⟨⟨?rand, ?randf⟩, exec_nop⟩, fun s d a b hm => ⟨⟨?fredAdd, ?fscanAdd, ?fredMax⟩, ?argmax, ?smxup⟩⟩
  case rand => exact laneOp_laneRule fun l => by rw [laneDraw_begun]
  case randf => exact laneOp_laneRule fun l => by rw [laneDraw_begun]
  case fredAdd => exact laneOp_sameTypeRule hm fun l => fredOut_begun s 1 l d a _ _
  case fscanAdd => exact laneOp_sameTypeRule hm fun l => fredOut_begun s 1 l d a _ _
  case fredMax => exact laneOp_sameTypeRule hm fun l => by simp only [laneType_begun, memberF_begun]; rfl
  case argmax => exact laneOp_sameTypeRule hm fun l => by simp only [f32Val_begun, rdA_begun]; rfl
  case smxup =>
    exact laneOp_sameTypeRule hm fun l => by
      simp only [rdP_begun, rdA_begun, f32Val_begun, laneRnd_begun, drawBits_begun, stoDraws_begun]; rfl

end Sys2Proof.Claims

/-! PROOFS. Integer, logic, predicate and lane instructions (R96 to R108, R128): the rules of checks that these instructions add
to those of `laneRule` and `sameTypeRule`, then one lemma for each shape of instruction. -/
namespace Sys2Proof.Claims
open Sys2Proof Sys2Proof.Machine

/-! ### From `ready` to `after`, for the other rules of this block -/

section
variable {i : Instr} {t : Nat} {ts : List Nat} {b : Code} {s : State} {f : State → Mask → Nat → LaneOut} {g : Nat → LaneOut}

/-- An instruction of listed TYPEs (R92). -/
theorem laneOp_typedRule (hf : ∀ l, f (begun s 1) (issuing s) l = g l) (h : ready i (t :: ts) s = true) :
    laneOp (laneRule i (some (t :: ts))) s f = .next (after i s g) :=
  laneOp_of_noCause
    (noCause_of_ready h rfl (.inr ⟨rfl, List.cons_ne_nil t ts⟩) nofun nofun rfl nofun nofun rfl fun _ _ => rfl) rfl rfl hf
/-- An exchange or vote (R93): that a cause would stop every lane does not matter where no lane meets one. -/
theorem laneOp_groupRule (hf : ∀ l, f (begun s 1) (issuing s) l = g l) (h : ready i [] s = true) :
    laneOp (groupRule i) s f = .next (after i s g) :=
  laneOp_of_noCause (noCause_of_ready h rfl (.inl rfl) nofun nofun rfl nofun nofun rfl fun _ _ => rfl) rfl rfl hf
/-- RDLANE and WRLANE where the lane they name issues (R107). -/
theorem laneOp_targetRule (ht : (issuing s).getLsbD (laneTarget s (issuing s) b) = true)
    (hf : ∀ l, f (begun s 1) (issuing s) l = g l) (h : ready i [] s = true) :
    laneOp (targetRule i b) s f = .next (after i s g) :=
  laneOp_of_noCause (noCause_of_ready h rfl (.inl rfl) nofun nofun rfl nofun nofun (if_pos ht) fun _ _ => rfl) rfl rfl hf

end

/-! ### More reads of `begun` -/

@[simp] theorem elemOut_begun (s : State) (n l : Nat) (d : Code) (x y z : Nat) (f : Int → Int → Int → Int × Nat) :
    elemOut (begun s n) l d x y z f = elemOut s l d x y z f := by
  simp only [elemOut, laneType_begun, laneSat_begun]
@[simp] theorem nonzeroMask_begun (s : State) (n : Nat) (m : Mask) (a : Code) : nonzeroMask (begun s n) m a = nonzeroMask s m a := by
  simp only [nonzeroMask, rdA_begun]
@[simp] theorem laneTarget_begun (s : State) (n : Nat) (m : Mask) (b : Code) : laneTarget (begun s n) m b = laneTarget s m b := by
  simp only [laneTarget, rdA_begun]

/-! ### The shapes of instructions

The function that tells the instructions of a shape apart is named, so that its application is not searched for. -/

section
variable {i : Instr} {d a b : Code} {s : State}

/-- Bit-string instructions of one operand (R96, R100, R101). -/
theorem bitOp1_ready (f : Nat → Nat) (h : ready i [] s = true) :
    bitOp1 i d a s f = .next (after i s fun l => out1 d (f (rdA s l a))) :=
  laneOp_laneRule (fun l => by rw [rdA_begun]) h
/-- Bit-string instructions of two operands (R100, R101). -/
theorem bitOp_ready (f : Nat → Nat → Nat) (h : ready i [] s = true) :
    bitOp i d a b s f = .next (after i s fun l => out1 d (f (rdA s l a) (rdA s l b))) :=
  laneOp_laneRule (fun l => by rw [rdA_begun, rdA_begun]) h
/-- Element instructions of two operands (R97). -/
theorem elem3_ready (f : Nat → Int → Int → Int → Int × Nat) (h : ready i [0, 1, 2, 3, 4, 5] s = true) :
    elem3 i d a b s f = .next (after i s fun l => elemOut s l d (rdA s l a) (rdA s l b) 0 (f (laneType s l))) :=
  laneOp_typedRule (fun l => by rw [elemOut_begun, rdA_begun, rdA_begun, laneType_begun]) h
/-- Compares (R103). -/
theorem cmpOp_ready (f : Int → Int → Bool) (h : ready i [0, 1, 6, 7] s = true) :
    cmpOp i d a b s f = .next (after i s fun l => out1 d (b2n (f (cmpVal s l a) (cmpVal s l b)))) :=
  laneOp_typedRule (fun l => by rw [cmpVal_begun, cmpVal_begun]) h
/-- Connectives of predicates (R104). -/
theorem predOp_ready (f : Bool → Bool → Bool) (h : ready i [] s = true) :
    predOp i d a b s f = .next (after i s fun l => out1 d (b2n (f (rdA s l a == 1) (rdA s l b == 1)))) :=
  laneOp_laneRule (fun l => by rw [rdA_begun, rdA_begun]) h
/-- What a lane receives in an exchange (R105). -/
def xchOut (kind : Nat) (d a b : Code) (s : State) (m : Mask) (l : Nat) : LaneOut :=
  out1 d (match xchSrc kind l (rdA s l b) with
    | some t => if m.getLsbD t then rdA s t a else 0
    | none => 0)
/-- Exchanges (R105). -/
theorem xchOp_ready (kind : Nat) (h : ready i [] s = true) :
    xchOp i kind d a b s = .next (after i s (xchOut kind d a b s (issuing s))) :=
  laneOp_groupRule (fun l => by simp only [rdA_begun]; rfl) h
/-- Reductions (R108). -/
theorem reduceOp_ready (f : List Int → Int) (hm : mixedTypes s (issuing s) = false)
    (h : ready i [0, 1, 2, 3, 4, 5] s = true) :
    reduceOp i d a s f = .next (after i s fun l => reduceOut s l d a (lanes s) f) :=
  laneOp_sameTypeRule hm (fun l => reduceOut_begun s 1 l d a _ f) h

end

/-- Settles O1: most are bit-string instructions of one or two operands; the others also read D, k or pairs, which counting
the issue leaves as they were. -/
theorem bitStringAndPairResults : Obligations.BitStringAndPairResults := by
  unfold Obligations.BitStringAndPairResults
  simp only [results_cons, results_nil, and_true]
  refine ⟨fun s d a b => ⟨bitOp1_ready id, ?sel, bitOp_ready (· &&& ·), bitOp_ready (· ||| ·), bitOp_ready (· ^^^ ·),
      bitOp1_ready (· ^^^ (2 ^ 32 - 1)), bitOp_ready fun x y => x &&& (y ^^^ (2 ^ 32 - 1)), bitOp_ready shlW, bitOp_ready shrW,
      bitOp_ready sarW, bitOp_ready rotW, bitOp1_ready popcW, bitOp1_ready clzW, bitOp1_ready ctzW, bitOp1_ready brevW, bitOp_ready bfxW,
      ?bfi, ?bmix, ?lea, ?nibpk⟩,
    fun s d a b => ⟨⟨?add64, ?sub64, ?lea64⟩, ?mulw⟩⟩
  case sel => exact laneOp_laneRule fun l => by simp only [rdA_begun]
  case bfi => exact laneOp_laneRule fun l => by simp only [rdA_begun]
  case bmix => exact laneOp_laneRule fun l => by simp only [rdA_begun, laneK_begun]
  case lea => exact laneOp_laneRule fun l => by simp only [rdA_begun, laneK_begun]
  case nibpk => exact laneOp_laneRule fun l => by simp only [rdA_begun]
  case add64 => exact laneOp_laneRule fun l => by simp only [rdP_begun]
  case sub64 => exact laneOp_laneRule fun l => by simp only [rdP_begun]
  case lea64 => exact laneOp_laneRule fun l => by simp only [rdP_begun, rdA_begun, laneK_begun]
  case mulw => exact laneOp_typedRule fun l => by simp only [laneType_begun, rdA_begun]

/-- Settles O2: instructions of A and B by their shape; MAD reads D as well, ABS and NEG read A alone. -/
theorem elementResults : Obligations.ElementResults := by
  unfold Obligations.ElementResults
  simp only [results_cons, results_nil, and_true]
  refine fun s d a b => ⟨elem3_ready fun _ x y _ => (x + y, 0), elem3_ready fun _ x y _ => (x - y, 0), elem3_ready fun _ x y _ => (x * y, 0),
    elem3_ready fun ty x y _ => (x * y / (2 ^ (elemsOf ty).2 : Nat), 0), ?mad, elem3_ready fun ty x y _ => divElem ty x y,
    elem3_ready fun _ x y _ => remElem x y, elem3_ready fun _ x y _ => (min x y, 0), elem3_ready fun _ x y _ => (max x y, 0), ?abs, ?neg⟩
  case mad => exact laneOp_typedRule fun l => by simp only [elemOut_begun, rdA_begun]
  case abs => exact laneOp_typedRule fun l => by simp only [elemOut_begun, rdA_begun]
  case neg => exact laneOp_typedRule fun l => by simp only [elemOut_begun, rdA_begun]

/-- Settles O3: compares and connectives by their shape; PNOT, P2V and V2P read one register or all predicates of a lane. -/
theorem compareResults : Obligations.CompareResults := by
  unfold Obligations.CompareResults
  simp only [results_cons, results_nil, and_true]
  refine fun s d a b => ⟨⟨cmpOp_ready fun x y => decide (x = y), cmpOp_ready fun x y => decide (x ≠ y), cmpOp_ready fun x y => decide (x < y),
      cmpOp_ready fun x y => decide (x ≤ y), cmpOp_ready fun x y => decide (y < x), cmpOp_ready fun x y => decide (y ≤ x)⟩,
    predOp_ready (· && ·), predOp_ready (· || ·), predOp_ready (· != ·), ?pnot, ?p2v, ?v2p⟩
  case pnot => exact laneOp_laneRule fun l => by simp only [rdA_begun]
  case p2v => exact laneOp_laneRule fun l => by simp only [cur_begun, preds_begun]
  case v2p => exact laneOp_laneRule fun l => by simp only [rdA_begun]

/-- Settles O4: exchanges by their shape, votes from the set of lanes whose A is not zero, RDLANE and WRLANE where the lane they
name issues, reductions where the lanes hold one TYPE. -/
theorem exchangeAndReductionResults : Obligations.ExchangeAndReductionResults := by
  unfold Obligations.ExchangeAndReductionResults
  simp only [results_cons, results_nil, and_true]
  refine ⟨fun s d a b => ⟨⟨xchOp_ready 0, xchOp_ready 1, xchOp_ready 2, xchOp_ready 3, ?lnany, ?lnall, ?lnmask, ?lneq⟩,
      fun ht => ⟨?rdlane, ?wrlane⟩⟩,
    fun s d a hm => ⟨reduceOp_ready sumI hm, reduceOp_ready leastI hm, reduceOp_ready greatestI hm, ?iscanAdd⟩⟩
  case lnany => exact laneOp_groupRule fun l => by rw [nonzeroMask_begun]; rfl
  case lnall => exact laneOp_groupRule fun l => by rw [nonzeroMask_begun]; rfl
  case lnmask => exact laneOp_groupRule fun l => by rw [nonzeroMask_begun]; rfl
  case lneq => exact laneOp_groupRule fun l => by simp only [rdA_begun, laneK_begun]
  case rdlane => exact laneOp_targetRule ht fun l => by rw [laneTarget_begun, rdA_begun]; rfl
  case wrlane => exact laneOp_targetRule ht fun l => by rw [laneTarget_begun, rdA_begun]; rfl
  case iscanAdd => exact laneOp_sameTypeRule hm fun l => reduceOut_begun s 1 l d a _ sumI

end Sys2Proof.Claims

/-! PROOFS. Floating-point arithmetic, compares, classes, dot products and conversions (R111, R115 to R127): one lemma for each
shape of instruction, from `ready` to what its lanes write. -/
namespace Sys2Proof.Claims
open Sys2Proof Sys2Proof.Machine

@[simp] theorem runReg_begun (s : State) (n l : Nat) (c : Code) (i : Nat) : runReg (begun s n) l c i = runReg s l c i := by
  rw [runReg, cur_begun, rd_begun, ← runReg]

/-! ### The shapes of instructions -/

section
variable {i : Instr} {d a b : Code} {t : Nat} {ts : List Nat} {s : State}

/-- Functions of A, rounded once (R111, R119). -/
theorem flt1_ready (f : FVal → XRes) (h : ready i [8, 9, 10] s = true) :
    flt1 i d a s f = .next (after i s fun l => fltOut s l d (rdA s l a) 0 0 fun _ x _ _ => f x) :=
  laneOp_typedRule (fun l => by rw [fltOut_begun, rdA_begun]) h
/-- Functions of A and B, rounded once (R111, R115). -/
theorem flt2_ready (f : Nat → FVal → FVal → XRes) (h : ready i [8, 9, 10] s = true) :
    flt2 i d a b s f = .next (after i s fun l => fltOut s l d (rdA s l a) (rdA s l b) 0 fun rm x y _ => f rm x y) :=
  laneOp_typedRule (fun l => by rw [fltOut_begun, rdA_begun, rdA_begun]) h
/-- Functions of A, B and D, rounded once (R111, R115). -/
theorem flt3_ready (f : Nat → FVal → FVal → FVal → XRes) (h : ready i [8, 9, 10] s = true) :
    flt3 i d a b s f = .next (after i s fun l => fltOut s l d (rdA s l a) (rdA s l b) (rdA s l d) f) :=
  laneOp_typedRule (fun l => by rw [fltOut_begun, rdA_begun, rdA_begun, rdA_begun]) h
/-- What a lane writes in a compare (R117); the flag NV is for any NaN, or for a signalling one alone. -/
def fcmpOut (s : State) (d a b : Code) (anyNv : Bool) (f : FVal → FVal → Bool) (l : Nat) : LaneOut :=
  let x := f32Val s l (rdA s l a)
  let y := f32Val s l (rdA s l b)
  { writes := [(d.toNat, b2n (f x y))], flags := nvIf (if anyNv then anyNan [x, y] else anySnan [x, y]) }
/-- Compares (R117). -/
theorem fcmpOp_ready (anyNv : Bool) (f : FVal → FVal → Bool) (h : ready i [8] s = true) :
    fcmpOp i d a b s anyNv f = .next (after i s (fcmpOut s d a b anyNv f)) :=
  laneOp_typedRule (fun l => by simp only [f32Val_begun, rdA_begun]; rfl) h
/-- What a lane writes in a dot product: the exact sum rounded once into the accumulator D (R122). -/
def fdotOut (s : State) (d a b : Code) (l : Nat) : LaneOut :=
  packRes 32 d [finish .f32 (laneRnd s l) (drawBits s l 0) (fDot (laneRnd s l).rm (f32Val s l (rdA s l d))
    ((List.range (elemsOf (laneType s l)).1).map fun i => (elemF s l (rdA s l a) i, elemF s l (rdA s l b) i)))] (stoDraws s l 1)
/-- Dot products of floating-point elements (R122). -/
theorem fdotOp_ready (h : ready i (t :: ts) s = true) :
    fdotOp i d a b (t :: ts) s = .next (after i s (fdotOut s d a b)) :=
  laneOp_typedRule (fun l => by
    simp only [laneType_begun, laneRnd_begun, drawBits_begun, f32Val_begun, rdA_begun, elemF_begun, stoDraws_begun]; rfl) h
/-- CVT.F2I's own check is the rounding mode: where no lane's is STO, no lane meets a cause (R123). -/
theorem noCause_cvtF2i (hs : (lanes s).all (fun l => !isSto (laneMode s l)) = true) (h : ready (.cvtF2i d a) [0, 1, 6, 7] s = true) :
    causesOf s { instr := .cvtF2i d a, types := wideTypes, noSto := true } (issuing s) = [] ∧ issuing s ≠ 0 :=
  noCause_of_ready h rfl (.inr ⟨rfl, List.cons_ne_nil _ _⟩) nofun nofun rfl (fun _ => hs) nofun rfl fun _ _ => rfl

end

/-- Settles O5: instructions by their shape; FMIN, FMAX, FABS and FNEG give a value unrounded, FRND rounds at the units place. -/
theorem floatResults : Obligations.FloatResults := by
  unfold Obligations.FloatResults
  simp only [results_cons, results_nil, and_true]
  refine ⟨fun s d a b => ⟨flt2_ready fAdd, flt2_ready fun rm x y => fAdd rm x y.negate, flt2_ready fun _ => fMul,
      flt3_ready fun rm => fFma rm false false, flt3_ready fun rm => fFma rm false true, flt3_ready fun rm => fFma rm true false,
      ?fmin, ?fmax, ?fabs, ?fneg⟩,
    fun s d a b => ⟨flt1_ready fRcp, flt1_ready fRsq, flt1_ready fSqrt, flt1_ready fExp2, flt1_ready fLog2,
      flt1_ready (fSinCos false), flt1_ready (fSinCos true), flt1_ready fTanh, flt1_ready fSigm, flt2_ready fun _ => fDiv, ?frnd⟩⟩
  case fmin => exact laneOp_typedRule fun l => by rw [exactOut_begun, rdA_begun, rdA_begun]
  case fmax => exact laneOp_typedRule fun l => by rw [exactOut_begun, rdA_begun, rdA_begun]
  case fabs => exact laneOp_typedRule fun l => by rw [exactOut_begun, rdA_begun]; rfl
  case fneg => exact laneOp_typedRule fun l => by rw [exactOut_begun, rdA_begun]; rfl
  case frnd => exact laneOp_typedRule fun l => by simp only [laneType_begun, laneRnd_begun, drawBits_begun, elemF_begun, rdA_begun, stoDraws_begun]

/-- Settles O6: compares and dot products by their shape; FCLASS and IDOT4 read the elements of their operands. -/
theorem floatCompares : Obligations.FloatCompares := by
  unfold Obligations.FloatCompares
  simp only [results_cons, results_nil, and_true]
  refine fun s d a b => ⟨⟨fcmpOp_ready false fun x y => ordered x y && !numLt x y && !numLt y x,
      fcmpOp_ready false fun x y => !ordered x y || numLt x y || numLt y x, fcmpOp_ready true fun x y => ordered x y && numLt x y,
      fcmpOp_ready true fun x y => ordered x y && !numLt y x, fcmpOp_ready false fun x y => !ordered x y⟩,
    ?fclass, fdotOp_ready, fdotOp_ready, ?idot4⟩
  case fclass => exact laneOp_typedRule fun l => by simp only [laneType_begun, elemF_begun, rdA_begun]
  case idot4 => exact laneOp_typedRule fun l => by simp only [laneType_begun, laneSat_begun, rdA_begun]

/-- Settles O7: CVT.F2I where no lane rounds by STO; the others from their TYPEs alone, QBLK and DQBLK from runs of registers. -/
theorem conversionResults : Obligations.ConversionResults := by
  unfold Obligations.ConversionResults
  simp only [results_cons, results_nil, and_true]
  refine fun s d a b => ⟨?f2i, ?i2f, ⟨?upLo, ?upHi⟩, ?dn, ?dn4, ?qblk, ?dqblk⟩
  case f2i =>
    exact fun hs h => laneOp_of_noCause (noCause_cvtF2i hs h) rfl rfl fun l => by
      simp only [laneType_begun, laneRnd_begun, f32Val_begun, rdA_begun]
  case i2f =>
    exact laneOp_typedRule fun l => by
      simp only [laneType_begun, laneRnd_begun, drawBits_begun, rdA_begun, rdP_begun, stoDraws_begun]
  case upLo => exact laneOp_typedRule fun l => by rw [cvtUp_begun, rdA_begun]
  case upHi => exact laneOp_typedRule fun l => by rw [cvtUp_begun, rdA_begun]
  case dn => exact laneOp_typedRule fun l => by rw [cvtDown_begun, rdA_begun, rdA_begun]
  case dn4 => exact laneOp_typedRule fun l => by simp only [cvtDown_begun, rdP_begun]
  case qblk => exact laneOp_laneRule fun l => by simp only [f32Val_begun, runReg_begun]; rfl
  case dqblk =>
    exact laneOp_laneRule fun l => by simp only [rdA_begun, runReg_begun, laneRnd_begun, drawBits_begun, stoDraws_begun]; rfl

end Sys2Proof.Claims

/-! PROOFS. Array commands at their completion: tiles, banks, products, accumulators, the stream loader's answer, and
configurations (R145, R160, R166 to R168, R173 to R180, R372). -/
namespace Sys2Proof.Machine

/-! ### What a configuration changes -/

theorem bank_setBank (s : State) (k j : Nat) (b : Bank) : (setBank s k b).bank j = if k = j then b else s.bank j :=
  Tab.get_set _ _ _ _ _
theorem bankKey_inj {qk r q b d : Nat} (hb : b < 2) (hd : d < 2) (h : bankKey qk r b = bankKey qk q d) : r = q ∧ b = d := by
  unfold bankKey at h; omega

/-- Both banks of a region hold no tile. -/
def clearRegion (s : State) (qk r : Nat) : State := setBank (setBank s (bankKey qk r 0) {}) (bankKey qk r 1) {}
/-- The banks of the regions of a set hold no tile. -/
def clearRegions (s : State) (qk pos : Nat) : State :=
  (List.range 2).foldl (fun t r => if bitOf pos r then clearRegion t qk r else t) s
theorem bank_clearRegion_same (s : State) (qk r : Nat) {b : Nat} (hb : b < 2) : (clearRegion s qk r).bank (bankKey qk r b) = {} := by
  rcases (by omega : b = 0 ∨ b = 1) with rfl | rfl <;> simp [clearRegion, bank_setBank]
theorem bank_clearRegion_other (s : State) (qk : Nat) {r q b : Nat} (hb : b < 2) (h : r ≠ q) :
    (clearRegion s qk r).bank (bankKey qk q b) = s.bank (bankKey qk q b) := by
  have hne (d : Nat) (hd : d < 2) : bankKey qk r d ≠ bankKey qk q b := fun e => h (bankKey_inj hd hb e).1
  rw [clearRegion, bank_setBank, if_neg (hne 1 (by omega)), bank_setBank, if_neg (hne 0 (by omega))]
theorem bank_clearRegions (s : State) (qk pos : Nat) {r b : Nat} (hr : r < 2) (hb : b < 2) :
    (clearRegions s qk pos).bank (bankKey qk r b) = if bitOf pos r then {} else s.bank (bankKey qk r b) := by
  refine foldl_once (p := fun t => t.bank (bankKey qk r b)) (c := fun x => if bitOf pos r then {} else x) List.nodup_range
    (List.mem_range.2 hr) (fun t => ?_) (fun t q _ hq => ?_) s
  · split
    · exact bank_clearRegion_same t qk r hb
    · rfl
  · split
    · exact bank_clearRegion_other t qk hb hq
    · rfl
theorem clearRegions_keep {β : Type} {p : State → β} (hp : ∀ (t : State) bs, p { t with banks := bs } = p t) (s : State) (qk pos : Nat) :
    p (clearRegions s qk pos) = p s := by
  refine foldl_keep (fun t r _ => ?_) s
  split
  · exact (hp _ _).trans (hp t _)
  · rfl
/-- Steps that change the rings alone change, one after another, the rings alone. -/
theorem foldl_rings {f : State → Nat → State} (h : ∀ t r, ∃ xs, f t r = { t with rings := xs }) (rs : List Nat) (s : State) :
    ∃ xs, rs.foldl f s = { s with rings := xs } := by
  induction rs generalizing s with
  | nil => exact ⟨s.rings, rfl⟩
  | cons r rs ih =>
    obtain ⟨xs, hx⟩ := h s r
    obtain ⟨ys, hy⟩ := ih (f s r)
    exact ⟨ys, by rw [List.foldl_cons, hy, hx]⟩

/-- The state with a configuration in force in the regions of its command, their banks without a tile. -/
def configured (s : State) (c : Cmd) : State :=
  clearRegions { s with arrays := Tab.put s.arrays c.qk { s.array c.qk with inForce := mergeCfg (s.array c.qk).inForce c.a c.pos } } c.qk c.pos
theorem array_configured (s : State) (c : Cmd) :
    (configured s c).array c.qk = { s.array c.qk with inForce := mergeCfg (s.array c.qk).inForce c.a c.pos } := by
  rw [configured, clearRegions_keep (p := fun t => t.array c.qk) fun _ _ => rfl]
  exact Tab.get_put_same _ _ _ _

/-! ### Rows -/

section
variable {s : State} {id : Nat} {c : Cmd}

theorem onCmd_of_live {p : Cmd → Bool} {k : Cmd → Out} (hc : Tab.find? s.cmds id = some c) (hl : cmdLive s id c = true) (hp : p c = true) :
    onCmd s id p k = k c := by
  simp [onCmd, hc, hp, hl]

/-- The header words at the start of an image. -/
def imageHead (hb : List Nat) : List Nat := (List.range 4).map fun i => leValue ((hb.drop (4 * i)).take 4)
/-- A tile whose header may be loaded comes to stand in its columns, its head slot last (R166). -/
theorem loadTile_of_reads {t u : State} {hb bs : List Nat} (hh : readRange s c.gd c.ck (c.asid s) c.a 16 c.who = .ok (t, hb))
    (hok : (parseHdr (imageHead hb)).okTile t c.qk c.task c.b (c.run c.d).2 = true)
    (hb' : readRange t c.gd c.ck (c.asid t) (c.a + 64) (c.b - 64) c.who = .ok (u, bs)) :
    loadTile s id c = .next (completeCmd
      (setHead (setTileBytes u c.qk (c.run c.d).1 (parseHdr (imageHead hb)) bs) c.qk (c.run c.d).1 (imageHead hb)) id c false) := by
  unfold imageHead at hok ⊢
  simp only [loadTile, hh, hok, hb', Bool.not_true, Bool.false_eq_true, if_false]
/-- A tile that is written without a failure is stored (R167). -/
theorem storeTile_of_write {t : State} (hw : writeRange s c.gd c.ck (c.asid s) (c.kslot s) c.a
    ((c.image.flatMap fun w => leBytes w 4) ++ List.replicate 48 0 ++ tileBytes s c.qk (c.run c.d).1 (parseHdr c.image)) c.who = (t, none)) :
    storeTile s id c = .next (completeCmd t id c false) := by
  simp only [storeTile, hw]

/-- A page that the stream loader finds present, with the right that the tile command needs. -/
def LoaderFinds (write : Bool) (f : Nat × Found) : Prop :=
  ∃ l : Loc, f.2 = .at l ∧ l.absent = false ∧ l.obs = false ∧ (if write then fWr l.leaf else fR l.leaf) = true
theorem LoaderFinds.not_lacks {write : Bool} {f : Nat × Found} (h : LoaderFinds write f) : loaderLacks write f = false := by
  obtain ⟨l, hf, -, hobs, hright⟩ := h
  simp [loaderLacks, hf, hobs, hright]
/-- The group of a tile command goes on after the instruction once its whole range is translated and allowed (R168, R372). -/
theorem exec_streamLoaderAnswer_allowed (hc : Tab.find? s.cmds id = some c) (hld : c.loading = true) (hr : raiseHolds s (c.asid s) = false)
    (hf : ∀ f ∈ loaderLook s c.gd (c.asid s) c.a c.b, LoaderFinds (c.op == .mtileSt) f) :
    exec (.streamLoaderAnswer id) s =
      .next ((advance ((setCmd s id { c with loading := false }).modGrp c.g fun x => { x with service := none }) c.g 2 c.mask).onLanes
        c.g (lanesIn c.mask) fun _ y => { y with stand := .run }) := by
  have hlacks : (loaderLook s c.gd (c.asid s) c.a c.b).find? (loaderLacks (c.op == .mtileSt)) = none := by
    simpa using fun a b h => (hf (a, b) h).not_lacks
  simp only [exec, execStreamLoaderAnswer, hc, hld, hr, Bool.not_true, Bool.or_self, Bool.false_eq_true, if_false]
  rw [List.findSome?_eq_none_iff.2, hlacks]
  · dsimp only
    rw [List.findSome?_eq_none_iff.2]
    intro f hm
    obtain ⟨l, hl, -⟩ := hf f hm
    rw [hl]
  · intro f hm
    obtain ⟨l, hl, ha, -⟩ := hf f hm
    simp [hl, ha]

/-- A configuration whose earlier commands have completed, and whose Belts have no tile, takes effect; beside what is
configured, only rings change. -/
theorem exec_mcfgEffect (hc : Tab.find? s.cmds id = some c) (hop : c.op = .mcfg) (hq : queueTurn s id c = true)
    (hd : ∀ r < 2, bitOf c.pos r = true → bitOf (s.array c.qk).inForce (1 + r) = true →
      ∀ g, Tab.find? s.rings (ringKey c.qk r (bitOf (s.array c.qk).inForce 0)) = some g → g.riders = []) :
    ∃ xs, exec (.mcfgEffect id) s = .next (completeCmd { configured s c with rings := xs } id c false) := by
  simp only [exec, execMcfgEffect, hc]
  rw [if_neg]
  case hnc =>
    simp only [hop, hq, bne_self_eq_false, Bool.not_true, Bool.false_or, Bool.not_eq_true', Bool.not_eq_false, List.all_eq_true, List.mem_range]
    intro r hr
    cases hp : bitOf c.pos r with
    | false => rfl
    | true =>
      simp only [Bool.not_true, Bool.false_or]
      split
      next g hg =>
        cases hb : bitOf (s.array c.qk).inForce (1 + r) with
        | false => rfl
        | true => simp [hd r hr hp hb g hg]
      next => rfl
  refine (foldl_rings (fun t r => ?_) (List.range 2) (configured s c)).imp fun _ h =>
    congrArg (fun t => Host.Outcome.next (completeCmd t id c false)) h
  split
  · split
    · exact ⟨_, rfl⟩
    · exact ⟨t.rings, rfl⟩
  · exact ⟨t.rings, rfl⟩

end

/-- Settles O38: a live command meets its row's condition, so that each row is its own body; a range that the loader finds
allowed meets none of its stops, and a configuration's parts follow from the banks it clears and the rings it starts. -/
theorem arrayCommandsAndConfiguration : Obligations.ArrayCommandsAndConfiguration := by
  unfold Obligations.ArrayCommandsAndConfiguration
  refine ⟨fun s id c hc => ⟨fun hl => ⟨?load, ?store, ?mwload, ?swap, ?mma, ?zero, ?read⟩, ?loader⟩, ?config⟩
  case load =>
    intro t u hb bs hop hh ws hok hbs
    have hk : c.op.kind = .tile := by rw [hop]; rfl
    exact (onCmd_of_live hc hl (by simp [hk])).trans ((if_pos hop).trans (loadTile_of_reads hh hok hbs))
  case store =>
    intro t hop hw
    have hk : c.op.kind = .tile := by rw [hop]; rfl
    exact (onCmd_of_live hc hl (by simp [hk])).trans ((if_neg (by simp [hop])).trans (storeTile_of_write hw))
  case mwload => exact fun hop => onCmd_of_live hc hl (by simp [hop])
  case swap => exact fun hop => onCmd_of_live hc hl (by simp [hop])
  case mma => exact fun a hop ha => (onCmd_of_live hc hl (by simpa using hop)).trans (by simp only [ha])
  case zero => exact fun hop => onCmd_of_live hc hl (by simp [hop])
  case read =>
    intro hop hg
    refine (onCmd_of_live hc hl (by simp [hop])).trans ?_
    simp only [hg, Bool.not_true, Bool.false_eq_true, if_false]
  case loader =>
    intro hld hr hf
    refine exec_streamLoaderAnswer_allowed hc hld hr fun f hm => ?_
    obtain ⟨l, hl, habs, hobs, hw, hrd⟩ := hf f hm
    refine ⟨l, hl, habs, hobs, ?_⟩
    by_cases hop : c.op = .mtileSt
    · simp [hop, hw hop]
    · simp [hop, hrd hop]
  case config =>
    intro s id c hc hop hq hd
    obtain ⟨xs, he⟩ := exec_mcfgEffect hc hop hq hd
    exact ⟨_, he, array_configured s c, clearRegions_keep (p := State.mem) (fun _ _ => rfl) _ _ _,
      clearRegions_keep (p := State.opmem) (fun _ _ => rfl) _ _ _, fun r hr b hb => bank_clearRegions _ _ _ hr hb⟩

end Sys2Proof.Machine

/-! PROOFS. What entering a command and counting an issue leave as it was (R38, R287), and columns of operand memory that
are zeroed, bound and unbound (R161 to R163). -/
namespace Sys2Proof.Machine

/-! ### Parts of the state across an issue -/

namespace OffIssue
variable {β : Type} {p : State → β} (hp : OffIssue p)
include hp

theorem begun (s : State) (n : Nat) : p (Claims.begun s n) = p s := hp.counted s n _
theorem past (n : Nat) (s t : State) : p (Claims.past n s t) = p t := hp.advance t _ n _
theorem popAll (s : State) (i : Instr) : p (popAll s i) = p s :=
  foldl_keep (fun t c _ => hp.popChan t t.cur.g c) s

end OffIssue

/-- Committing lanes' results changes registers, lanes and channels, and nothing else (R14). -/
theorem sansResults_commit (s : State) (i : Instr) (outs : List (Nat × LaneOut)) : (commit s i outs).sansResults = s.sansResults := by
  obtain ⟨t, ht, h⟩ := offIssue_sansResults.commit s i outs
  rw [h, ← ht]
  refine foldl_keep (fun u o _ => ?_) t
  rw [sansResults_noteLane]
  exact foldl_keep (fun v w _ => sansResults_wr ..) u

/-- A part of the state that holds no result is the same where the rest of the state is. -/
theorem keep_of_sansResults {β : Type} {p : State → β} (hp : ∀ s, p s.sansResults = p s) {s t : State}
    (h : s.sansResults = t.sansResults) : p s = p t := by
  rw [← hp s, h, hp]

theorem offIssue_opmem : OffIssue State.opmem := ⟨fun _ _ => rfl, fun _ _ => rfl, fun _ _ _ _ => rfl⟩
theorem offIssue_array : OffIssue State.array := ⟨fun _ _ => rfl, fun _ _ => rfl, fun _ _ _ _ => rfl⟩
theorem offIssue_cmds : OffIssue State.cmds := ⟨fun _ _ => rfl, fun _ _ => rfl, fun _ _ _ _ => rfl⟩
theorem offIssue_nextId : OffIssue State.nextId := ⟨fun _ _ => rfl, fun _ _ => rfl, fun _ _ _ _ => rfl⟩
theorem offIssue_cur : OffIssue State.cur := ⟨fun _ _ => rfl, fun _ _ => rfl, fun _ _ _ _ => rfl⟩
theorem offIssue_boundRun : OffIssue boundRun := ⟨fun _ _ => rfl, fun _ _ => rfl, fun _ _ _ _ => rfl⟩
theorem offIssue_freeRun : OffIssue freeRun := ⟨fun _ _ => rfl, fun _ _ => rfl, fun _ _ _ _ => rfl⟩
theorem offIssue_cfgAhead : OffIssue cfgAhead := ⟨fun _ _ => rfl, fun _ _ => rfl, fun _ _ _ _ => rfl⟩

/-! ### Entering a command (R38) -/

/-- A command is entered under the next number; beside it, only counters and semaphores change. -/
theorem postCmd_frame (s : State) (c : Cmd) :
    ∃ ps xs, postCmd s c = { s with nextId := s.nextId + 1, cmds := Tab.put s.cmds s.nextId c, pmcs := ps, sems := xs } := by
  obtain ⟨ps, h⟩ := event_frame { s with nextId := s.nextId + 1, cmds := Tab.put s.cmds s.nextId c } c.ck (slotOf c.g) 47 1
  simp only [postCmd, State.fresh, h]
  split
  · exact ⟨ps, _, rfl⟩
  · exact ⟨ps, s.sems, rfl⟩
@[simp] theorem cur_postCmd (s : State) (c : Cmd) : (postCmd s c).cur = s.cur := by
  obtain ⟨ps, xs, h⟩ := postCmd_frame s c
  rw [h]
@[simp] theorem array_postCmd (s : State) (c : Cmd) : (postCmd s c).array = s.array := by
  obtain ⟨ps, xs, h⟩ := postCmd_frame s c
  rw [h]
  rfl
@[simp] theorem cmds_postCmd (s : State) (c : Cmd) : (postCmd s c).cmds = Tab.put s.cmds s.nextId c := by
  obtain ⟨ps, xs, h⟩ := postCmd_frame s c
  rw [h]

/-! ### Columns (R161 to R163) -/

theorem Tab.find_cut {α : Type} (t : Tab α) (lo hi k : Nat) :
    Tab.find? (Tab.cut t lo hi) k = if lo ≤ k ∧ k < hi then none else Tab.find? t k := by
  induction t with
  | nil => simp [Tab.cut, Tab.find?]
  | cons e t ih =>
    obtain ⟨j, v⟩ := e
    unfold Tab.cut at *
    by_cases hin : lo ≤ j ∧ j < hi
    · rw [List.filter_cons_of_neg (by simpa using hin), ih, Tab.find?]
      by_cases hj : j = k
      · simp [← hj, hin]
      · simp [hj]
    · rw [List.filter_cons_of_pos (by simp; omega), Tab.find?, Tab.find?, ih]
      by_cases hj : j = k
      · simp [← hj, hin]
      · simp [hj]
/-- Every byte of a column that has been zeroed reads 0 (R162). -/
theorem opByte_zeroColumns (s : State) (qk first n : Nat) {i r o : Nat} (hi : i < n) (hr : r < 64) (ho : o < 512) :
    opByte (zeroColumns s qk first n) qk (first + i) r o = 0 := by
  have hkey : (qk * 512 + first) * 2 ^ 16 ≤ opKey qk (first + i) r o ∧ opKey qk (first + i) r o < (qk * 512 + first + n) * 2 ^ 16 := by
    unfold opKey
    omega
  simp only [opByte, zeroColumns, Tab.get, Tab.find_cut, if_pos hkey]
  rfl

/-- A handle that has no run is bound by adding one to the list (R161). -/
theorem boundRun_append {s t : State} {g i first n : Nat} (h : boundRun s g i = none) (hgrp : t.grp g = s.grp g)
    (hh : t.handles = s.handles ++ [{ qk := qkOf g, task := (s.grp g).task, index := i, first := first, count := n }]) :
    boundRun t g i = some (first, n) := by
  simp only [boundRun, Option.map_eq_none_iff, handleOf] at h
  simp [boundRun, handleOf, hgrp, hh, List.find?_append, h]
/-- The handles of a state after one is freed (R163). -/
def freedHandles (s : State) (g i : Nat) : List Handle :=
  s.handles.map fun h =>
    if h.qk == qkOf g && h.task == (s.grp g).task && h.index == i && h.freed.isNone then { h with freed := some s.nextId } else h
/-- A freed handle is unbound, whether or not its columns have returned (R163). -/
theorem boundRun_freedHandles (s : State) (g i : Nat) : boundRun (returnColumns { s with handles := freedHandles s g i }) g i = none := by
  simp only [boundRun, Option.map_eq_none_iff, handleOf, returnColumns, List.find?_eq_none, List.mem_filter, freedHandles, List.mem_map]
  rintro _ ⟨⟨h, -, rfl⟩, -⟩ hit
  split at hit
  · simp at hit
  next hn => exact hn hit

/-! ### Headers (R137) -/

/-- What a register code reads is a word of 32 bits (R43). -/
theorem rd_lt (s : State) (g l c : Nat) : rd s g l c < 2 ^ 32 := by
  have hmod (n : Nat) : n % 2 ^ 32 < 2 ^ 32 := Nat.mod_lt _ (by decide)
  have hbit (b : Bool) : b2n b < 2 ^ 32 := by cases b <;> decide
  have hchan (d : Nat) : chanElem s g l d < 2 ^ 32 := by
    unfold chanElem
    split <;> exact BitVec.isLt _
  unfold rd
  split
  · exact BitVec.isLt _
  split
  · exact BitVec.isLt _
  split
  · exact hchan _
  split
  · exact hbit _
  split
  · omega
  split
  · exact hmod _
  split
  · exact hmod _
  split
  · exact BitVec.isLt _
  split
  · exact hmod _
  split
  · exact hmod _
  split
  · decide
  · exact BitVec.isLt _
/-- Each of the four words of a header reads as it was written. -/
theorem headWord_setHead (s : State) (qk col : Nat) (ws : List Nat) {i : Nat} (hi : i < 4) :
    headWord (setHead s qk col ws) qk col i = ws.getD i 0 % 2 ^ 32 := by
  have hget : Tab.get (setHead s qk col ws).heads ((qk * 512 + col) * 4 + i) 0#32 = w32 (ws.getD i 0) := by
    simp only [setHead, List.range_succ, List.range_zero, List.nil_append, List.foldl_append, List.foldl_cons, List.foldl_nil, Tab.get_set]
    rcases (by omega : i = 0 ∨ i = 1 ∨ i = 2 ∨ i = 3) with rfl | rfl | rfl | rfl <;> simp
  rw [headWord, hget, w32, BitVec.toNat_ofNat]

end Sys2Proof.Machine

/-! PROOFS. Matrix instructions as they issue (R155 to R180, R372): the checks they share, then columns and headers, whose
effect is at once, and the commands. -/
namespace Sys2Proof.Claims
open Sys2Proof Sys2Proof.Machine

/-! ### The checks of R157 -/

@[simp] theorem firstTrap_nil : firstTrap [] = none := rfl
@[simp] theorem firstTrap_none_cons (ts : List (Option Trap)) : firstTrap (none :: ts) = firstTrap ts := rfl
@[simp] theorem columnTrap_false (i : Nat) : columnTrap false i = none := rfl

@[simp] theorem lane0_begun (s : State) (n : Nat) (c : Code) : lane0 (begun s n) c = lane0 s c := by
  rw [lane0, cur_begun, rd_begun, ← lane0]
@[simp] theorem rd64_begun (s : State) (n g l c : Nat) : rd64 (begun s n) g l c = rd64 s g l c := by
  simp only [rd64, rd_begun]

section
variable {i : Instr} {s : State} {grant : Bool} {causes : State → List (Option Trap)}

theorem unbound_of_bound {c : Code} (h : (boundRun s s.cur.g c.toNat).isSome = true) : unbound s c = none := by
  rw [unbound, Option.isNone_eq_false_iff.2 h, columnTrap_false]
/-- A matrix instruction that all lanes issue together, under the grant it needs, has its own causes alone (R155, R157). -/
theorem matrixRule_all (ht : matrixTogether s (issuing s) = true) (hg : grant = true → hasArray s = true)
    (hc : firstTrap (causes s) = none) : (matrixRule i grant causes).all s (issuing s) = none := by
  have hgrant : (grant && !hasArray s) = false := by
    cases grant with
    | false => rfl
    | true => simp [hg rfl]
  simp only [matrixRule, ht, hgrant, hc, Bool.not_true, Bool.false_eq_true, if_false]
/-- One that needs no grant and enters no command has its effect at once (R161 to R163, R170). -/
theorem issue_matrixRule {body : State → Mask → State} (h : ready i [] s = true) (ht : matrixTogether s (issuing s) = true)
    (hc : firstTrap (causes s) = none) :
    issue (matrixRule i false causes) s body = .next (past 1 s (body (begun s 1) (issuing s))) :=
  issue_of_noCause (r := matrixRule i false causes) (noCause_of_ready h rfl (.inl rfl) nofun nofun rfl nofun nofun
    (matrixRule_all ht nofun hc) fun _ _ => rfl)
/-- One that enters a command meets no cause where its sync word is fine as well (R38). -/
theorem noCause_matrixCommand {w : BitVec 32} (h : ready i [] s = true) (ht : matrixTogether s (issuing s) = true)
    (hg : grant = true → hasArray s = true) (hs : syncFine s .command w 1 = true) (hc : firstTrap (causes s) = none) :
    causesOf s { matrixRule i grant causes with words := 2, sync := some (.command, w) } (issuing s) = [] ∧ issuing s ≠ 0 :=
  noCause_of_ready h rfl (.inl rfl) nofun (by rintro k v ⟨⟩; exact hs) rfl nofun nofun (matrixRule_all (i := i) ht hg hc) fun _ _ => rfl

/-- The state in which a region command has been entered with the operands that it captures (R156, R160). -/
def entered (s : State) (i : Instr) (op : CmdOp) (w : BitVec 32) (hs : List Code) (f : Cmd → Cmd) : State :=
  past 2 s (postCmd (popAll (begun s 2) i)
    (f { baseCmd (begun s 2) (issuing s) op w with handles := capture (begun s 2) hs, k := laneK s 0 }))
theorem matrixCmd_ready {op : CmdOp} {w : BitVec 32} {hs : List Code} {f : Cmd → Cmd} (h : ready i [] s = true)
    (ht : matrixTogether s (issuing s) = true) (hg : hasArray s = true) (hw : syncFine s .command w 1 = true)
    (hc : firstTrap (causes s) = none) :
    matrixCmd (matrixRule i true causes) op w s hs (fun _ => f) = .next (entered s i op w hs f) := by
  rw [entered, ← laneK_begun s 2]
  exact issue_of_noCause (noCause_matrixCommand h ht (fun _ => hg) hw hc)

end

/-- MMA and MMA.SP: both handles bound, the region there, and not one handle for both (R176 to R178). -/
theorem mmaIssue_ready {i : Instr} {op : CmdOp} {d a b : Code} {w : BitVec 32} {s : State} (h : ready i [] s = true)
    (ht : matrixTogether s (issuing s) = true) (hg : hasArray s = true) (hw : syncFine s .command w 1 = true)
    (hd : (boundRun s s.cur.g d.toNat).isSome = true) (hb : (boundRun s s.cur.g b.toNat).isSome = true) (hr : badRegion s a = none)
    (hn : d ≠ b) : mmaIssue i op d a b w s =
      .next (entered s i op w [d, b] fun c => { c with d := d.toNat, a := a.toNat, b := b.toNat }) :=
  matrixCmd_ready h ht hg hw (by simp [unbound_of_bound hd, unbound_of_bound hb, hr, aliasTrap, hn])

/-! ### Columns and headers -/

section
variable {s : State} {d a b : Code}

/-- The own causes of MCOL.ALLOC: a count that is not 1 to 64, or a handle that is bound (R162). -/
def mcolAllocCauses (d a : Code) (s : State) : List (Option Trap) :=
  [columnTrap (lane0 s a == 0 || decide (64 < lane0 s a) || (boundRun s s.cur.g d.toNat).isSome) d.toNat]
theorem mcolAllocCauses_none (h1 : 1 ≤ lane0 s a) (h64 : lane0 s a ≤ 64) (hb : boundRun s s.cur.g d.toNat = none) :
    firstTrap (mcolAllocCauses d a s) = none := by
  have h0 : (lane0 s a == 0) = false := beq_eq_false_iff_ne.2 (by omega)
  simp [mcolAllocCauses, h0, Nat.not_lt.2 h64, hb]
/-- A state in which a handle of the group's task has been bound to columns that read 0 (R162). -/
def bindColumns (t : State) (g i first n : Nat) : State :=
  { zeroColumns t (qkOf g) first n with
    handles := t.handles ++ [{ qk := qkOf g, task := (t.grp g).task, index := i, first := first, count := n }] }
/-- The results of MCOL.ALLOC: whether columns were granted, in every lane's predicate (R162). -/
def grantResults (s : State) (b : Code) (x : Nat) : List (Nat × LaneOut) := (lanes s).map fun l => (l, out1 b x)

theorem exec_mcolAlloc_some {c : Nat} (h : ready (.mcolAlloc d a b) [] s = true) (ht : matrixTogether s (issuing s) = true)
    (hn : firstTrap (mcolAllocCauses d a s) = none) (hc : freeRun s (qkOf s.cur.g) (lane0 s a) = some c) : exec (.mcolAlloc d a b) s =
      .next (past 1 s (commit (bindColumns (begun s 1) s.cur.g d.toNat c (lane0 s a)) (.mcolAlloc d a b) (grantResults s b 1))) := by
  refine (issue_matrixRule h ht hn).trans ?_
  simp only [cur_begun, lane0_begun, offIssue_freeRun.begun, hc]
  rfl
theorem exec_mcolAlloc_none (h : ready (.mcolAlloc d a b) [] s = true) (ht : matrixTogether s (issuing s) = true)
    (hn : firstTrap (mcolAllocCauses d a s) = none) (hc : freeRun s (qkOf s.cur.g) (lane0 s a) = none) : exec (.mcolAlloc d a b) s =
      .next (past 1 s (commit (begun s 1) (.mcolAlloc d a b) (grantResults s b 0))) := by
  refine (issue_matrixRule h ht hn).trans ?_
  simp only [cur_begun, lane0_begun, offIssue_freeRun.begun, hc]
  rfl
theorem exec_mcolFree (h : ready (.mcolFree d) [] s = true) (ht : matrixTogether s (issuing s) = true)
    (hb : (boundRun s s.cur.g d.toNat).isSome = true) : exec (.mcolFree d) s =
      .next (past 1 s (returnColumns { begun s 1 with handles := freedHandles (begun s 1) s.cur.g d.toNat })) := by
  refine (issue_matrixRule h ht (by simp [unbound_of_bound hb])).trans ?_
  simp only [cur_begun]
  rfl
theorem exec_mtileHdr {c k : Nat} (h : ready (.mtileHdr d a) [] s = true) (ht : matrixTogether s (issuing s) = true)
    (hb : boundRun s s.cur.g d.toNat = some (c, k)) : exec (.mtileHdr d a) s =
      .next (past 1 s (setHead (begun s 1) (qkOf s.cur.g) c ((List.range 4).map fun i => rd s s.cur.g 0 (a.toNat + i)))) := by
  refine (issue_matrixRule h ht (by simp [unbound_of_bound, hb])).trans ?_
  simp only [cur_begun, offIssue_boundRun.begun, hb, rd_begun]

/-- Committing results and going on change registers, lanes and channels alone (R14, R34). -/
theorem sansResults_past_commit (n : Nat) (t : State) (i : Instr) (outs : List (Nat × LaneOut)) :
    (past n s (commit t i outs)).sansResults = t.sansResults :=
  (offIssue_sansResults.past n s _).trans (sansResults_commit t i outs)

theorem leads_mcolAlloc_some {c : Nat} (h : ready (.mcolAlloc d a b) [] s = true) (ht : matrixTogether s (issuing s) = true)
    (hn : firstTrap (mcolAllocCauses d a s) = none) (hb : boundRun s s.cur.g d.toNat = none)
    (hc : freeRun s (qkOf s.cur.g) (lane0 s a) = some c) :
    leads (.mcolAlloc d a b) s fun t => boundRun t s.cur.g d.toNat = some (c, lane0 s a) ∧
      ∀ i < lane0 s a, ∀ r < 64, ∀ o < 512, opByte t (qkOf s.cur.g) (c + i) r o = 0 := by
  have hsame := sansResults_past_commit (s := s) 1 (bindColumns (begun s 1) s.cur.g d.toNat c (lane0 s a)) (.mcolAlloc d a b) (grantResults s b 1)
  refine ⟨_, exec_mcolAlloc_some h ht hn hc, ?_, fun i hi r hr o ho => ?_⟩
  · calc _ = boundRun (bindColumns (begun s 1) s.cur.g d.toNat c (lane0 s a)) s.cur.g d.toNat :=
          keep_of_sansResults (p := fun t => boundRun t s.cur.g d.toNat) (fun _ => rfl) hsame
      _ = some (c, lane0 s a) :=
          boundRun_append (s := begun s 1) (by rw [offIssue_boundRun.begun, hb]) rfl rfl
  · exact (keep_of_sansResults (p := fun t => opByte t (qkOf s.cur.g) (c + i) r o) (fun _ => rfl) hsame).trans (opByte_zeroColumns _ _ _ _ hi hr ho)
theorem leads_mcolAlloc_none (h : ready (.mcolAlloc d a b) [] s = true) (ht : matrixTogether s (issuing s) = true)
    (hn : firstTrap (mcolAllocCauses d a s) = none) (hc : freeRun s (qkOf s.cur.g) (lane0 s a) = none) :
    leads (.mcolAlloc d a b) s fun t => t.handles = s.handles ∧ t.opmem = s.opmem := by
  have hsame := (sansResults_past_commit (s := s) 1 (begun s 1) (.mcolAlloc d a b) (grantResults s b 0)).trans (offIssue_sansResults.begun s 1)
  exact ⟨_, exec_mcolAlloc_none h ht hn hc, keep_of_sansResults (p := State.handles) (fun _ => rfl) hsame,
    keep_of_sansResults (p := State.opmem) (fun _ => rfl) hsame⟩
theorem leads_mcolFree (h : ready (.mcolFree d) [] s = true) (ht : matrixTogether s (issuing s) = true)
    (hb : (boundRun s s.cur.g d.toNat).isSome = true) : leads (.mcolFree d) s fun t => boundRun t s.cur.g d.toNat = none := by
  have hfree := boundRun_freedHandles (begun s 1) s.cur.g d.toNat
  rw [← offIssue_boundRun.past 1 s] at hfree
  exact ⟨_, exec_mcolFree h ht hb, hfree⟩
theorem leads_mtileHdr {c k : Nat} (h : ready (.mtileHdr d a) [] s = true) (ht : matrixTogether s (issuing s) = true)
    (hb : boundRun s s.cur.g d.toNat = some (c, k)) :
    leads (.mtileHdr d a) s fun t =>
      (∀ i < 4, headWord t (qkOf s.cur.g) c i = rd s s.cur.g 0 (a.toNat + i)) ∧ t.opmem = s.opmem := by
  refine ⟨_, exec_mtileHdr h ht hb, fun i hi => (headWord_setHead _ _ _ _ hi).trans ?_, offIssue_opmem.begun s 1⟩
  have hword : ((List.range 4).map fun i => rd s s.cur.g 0 (a.toNat + i)).getD i 0 = rd s s.cur.g 0 (a.toNat + i) := by simp [List.getD, hi]
  rw [hword, Nat.mod_eq_of_lt (rd_lt ..)]

end

/-! ### Tiles and the stream loader (R166, R167, R372) -/

/-- The own causes of a tile command, in the order of R157. -/
def tileCauses (op : CmdOp) (h addr len : Code) (s : State) : List (Option Trap) :=
  let va := rd64 s s.cur.g 0 addr.toNat
  [protTrap (outside va) va, loaderTrap s (op == .mtileSt) va (lane0 s len), unbound s h,
    (alignTrap (va % 64 != 0) va).map fun t => { t with ord := 12 }]
/-- A tile command is entered and its group waits for the stream loader, its lanes held at the instruction. -/
theorem tileIssue_ready {i : Instr} {op : CmdOp} {hd addr len : Code} {w : BitVec 32} {s : State} (h : ready i [] s = true)
    (ht : matrixTogether s (issuing s) = true) (hb : (boundRun s s.cur.g hd.toNat).isSome = true)
    (hin : rd64 s s.cur.g 0 addr.toNat < 2 ^ 56) (hal : rd64 s s.cur.g 0 addr.toNat % 64 = 0)
    (hl : loaderTrap s (op == .mtileSt) (rd64 s s.cur.g 0 addr.toNat) (lane0 s len) = none) (hw : syncFine s .command w 1 = true) :
    let t := begun s 2
    let c := { baseCmd t (issuing s) op w with
      handles := capture t [hd], d := hd.toNat, a := rd64 s s.cur.g 0 addr.toNat, b := lane0 s len, loading := true, popped := rowsOf t i }
    tileIssue i op hd addr len w s =
      .next (((postCmd (popAll t i) c).modGrp s.cur.g fun x => { x with service := some (.loader t.nextId) }).onLanes
        s.cur.g (lanes s) fun _ y => { y with stand := .held }) := by
  have hcheck : firstTrap (tileCauses op hd addr len s) = none := by
    have hout : outside (rd64 s s.cur.g 0 addr.toNat) = false := decide_eq_false (by omega)
    simp [tileCauses, protTrap, hout, hl, unbound_of_bound hb, alignTrap, hal]
  have hcause := noCause_matrixCommand (grant := false) h ht nofun hw hcheck
  intro t c
  refine congrArg Host.Outcome.next ((issueRaw_of_noCause hcause).trans ?_)
  rw [← begun]
  simp only [modGrp_cur, cur_postCmd, offIssue_cur.popAll, cur_begun, rd64_begun, lane0_begun]
  rfl

/-! ### Configuration (R172, R173) -/

/-- A state in which a quad's array is configured as given. -/
def setArray (t : State) (qk : Nat) (x : Array4) : State := { t with arrays := Tab.put t.arrays qk x }
@[simp] theorem array_setArray (t : State) (qk : Nat) (x : Array4) : (setArray t qk x).array qk = x := Tab.get_put_same ..
@[simp] theorem cmds_setArray (t : State) (qk : Nat) (x : Array4) : (setArray t qk x).cmds = t.cmds := rfl
@[simp] theorem nextId_setArray (t : State) (qk : Nat) (x : Array4) : (setArray t qk x).nextId = t.nextId := rfl

section
variable {a : Code} {s : State}

/-- The own causes of MCFG: a region in Belt mode without a ring (R172). -/
def mcfgCauses (a : Code) (s : State) : List (Option Trap) :=
  [0, 1].map fun r => columnTrap (bitOf (lane0 s a) (1 + r) && !ringReady s (qkOf s.cur.g) r (bitOf (lane0 s a) 0)) r
theorem mcfgCauses_none (h : ∀ r < 2, bitOf (lane0 s a) (1 + r) = true → ringReady s (qkOf s.cur.g) r (bitOf (lane0 s a) 0) = true) :
    firstTrap (mcfgCauses a s) = none := by
  have hring : ∀ r < 2, (bitOf (lane0 s a) (1 + r) && !ringReady s (qkOf s.cur.g) r (bitOf (lane0 s a) 0)) = false := by
    intro r hr
    cases hbit : bitOf (lane0 s a) (1 + r)
    · rfl
    · simp [h r hr hbit]
  rw [mcfgCauses, List.map_cons, hring 0 (by decide), List.map_cons, hring 1 (by decide)]
  rfl
/-- The checks of MCFG: its word is legal, and the region in Belt mode has its ring (R172, R173). -/
def mcfgRule (a : Code) : Rule :=
  { matrixRule (.mcfg a) true (mcfgCauses a) with
    reserved := fun s _ => decide (8 ≤ lane0 s a) || (bitOf (lane0 s a) 2 && !bitOf (lane0 s a) 0) }
theorem noCause_mcfgRule (h : ready (.mcfg a) [] s = true) (ht : matrixTogether s (issuing s) = true) (hg : hasArray s = true)
    (h8 : lane0 s a < 8) (hgeo : bitOf (lane0 s a) 2 = true → bitOf (lane0 s a) 0 = true)
    (hr : ∀ r < 2, bitOf (lane0 s a) (1 + r) = true → ringReady s (qkOf s.cur.g) r (bitOf (lane0 s a) 0) = true) :
    causesOf s (mcfgRule a) (issuing s) = [] ∧ issuing s ≠ 0 := by
  have hres : (mcfgRule a).reserved s (issuing s) = false := by
    simp only [mcfgRule, decide_eq_false (Nat.not_le.2 h8), Bool.false_or]
    cases hbit : bitOf (lane0 s a) 2
    · rfl
    · simp [hgeo hbit]
  exact noCause_of_ready h rfl (.inl rfl) nofun nofun hres nofun nofun
    (matrixRule_all (i := .mcfg a) ht (fun _ => hg) (mcfgCauses_none hr)) fun _ _ => rfl

/-- A word that changes something becomes the latest configuration, and a command that will put it in force is entered (R173). -/
theorem exec_mcfg (hn : causesOf s (mcfgRule a) (issuing s) = [] ∧ issuing s ≠ 0)
    (hch : changedRegions (cfgAhead s (qkOf s.cur.g)) (lane0 s a) ≠ 0) :
    ∃ c : Cmd, c.op = .mcfg ∧ c.a = lane0 s a ∧ exec (.mcfg a) s = .next (past 1 s (postCmd (setArray (popAll (begun s 1) (.mcfg a))
      (qkOf s.cur.g) { (begun s 1).array (qkOf s.cur.g) with latest := lane0 s a }) c)) := by
  refine ⟨{ baseCmd (setArray (popAll (begun s 1) (.mcfg a)) (qkOf s.cur.g) { (begun s 1).array (qkOf s.cur.g) with latest := lane0 s a })
    (issuing s) .mcfg 0 with a := lane0 s a, pos := changedRegions (cfgAhead s (qkOf s.cur.g)) (lane0 s a) }, rfl, rfl,
    (issue_of_noCause hn).trans ?_⟩
  simp only [cur_begun, lane0_begun, offIssue_cfgAhead.begun, if_neg hch]
  rfl
theorem leads_mcfg (h : ready (.mcfg a) [] s = true) (ht : matrixTogether s (issuing s) = true)
    (hg : hasArray s = true) (h8 : lane0 s a < 8) (hgeo : bitOf (lane0 s a) 2 = true → bitOf (lane0 s a) 0 = true)
    (hr : ∀ r < 2, bitOf (lane0 s a) (1 + r) = true → ringReady s (qkOf s.cur.g) r (bitOf (lane0 s a) 0) = true)
    (hch : changedRegions (cfgAhead s (qkOf s.cur.g)) (lane0 s a) ≠ 0) :
    leads (.mcfg a) s fun t => (t.array (qkOf s.cur.g)).latest = lane0 s a ∧
      (t.array (qkOf s.cur.g)).inForce = (s.array (qkOf s.cur.g)).inForce ∧
      ∃ c, Tab.find? t.cmds s.nextId = some c ∧ c.op = .mcfg ∧ c.a = lane0 s a := by
  obtain ⟨c, hop, hword, he⟩ := exec_mcfg (noCause_mcfgRule h ht hg h8 hgeo hr) hch
  refine ⟨_, he, ?latest, ?inForce, c, ?entered, hop, hword⟩
  case latest => simp [offIssue_array.past]
  case inForce => simp [offIssue_array.past, offIssue_array.begun]
  case entered => simp [offIssue_cmds.past, Tab.find_put, offIssue_nextId.popAll, offIssue_nextId.begun]

end

/-- Settles O23: the checks of R157 pass, so that a region command is entered, a tile command waits for the stream loader, and
columns, headers and configurations take their effect. -/
theorem matrixInstructionResults : Obligations.MatrixInstructionResults := by
  unfold Obligations.MatrixInstructionResults
  refine ⟨fun s d a b w => ?_, fun s d a b w => ?_⟩
  · intro t handle cmd ht hg hw
    refine ⟨fun h ha hd => ?mwload, fun h hd => ?mwswap, fun h hd hb ha hn => ?mma, fun h hd hb ha hn => ?mmaSp,
      fun h hd ha => ?maccZero, fun h hb ha => ?maccRd⟩
    case mwload =>
      show execMwload d a w s = _
      exact matrixCmd_ready h ht hg hw (by simp [unbound_of_bound ha, hd])
    case mwswap =>
      show execMwswap d w s = _
      exact matrixCmd_ready h ht hg hw (by simp [hd])
    case mma => exact mmaIssue_ready h ht hg hw hd hb ha hn
    case mmaSp => exact mmaIssue_ready h ht hg hw hd hb ha hn
    case maccZero =>
      show execMaccZero d a w s = _
      exact matrixCmd_ready h ht hg hw (by simp [unbound_of_bound hd, ha])
    case maccRd =>
      show execMaccRd d a b w s = _
      exact matrixCmd_ready h ht hg hw (by simp [unbound_of_bound hb, ha])
  · intro g n held ht
    refine ⟨fun h h1 h64 hb => ?mcolAlloc, fun h => leads_mcolFree h ht, fun c k h => leads_mtileHdr h ht,
      fun h hb hin hal hl hw => ?mtileLd, fun h hb hin hal hl hw => ?mtileSt, fun h => leads_mcfg h ht⟩
    case mcolAlloc =>
      have hn := mcolAllocCauses_none h1 h64 hb
      exact ⟨fun c => leads_mcolAlloc_some h ht hn hb, leads_mcolAlloc_none h ht hn⟩
    case mtileLd => exact tileIssue_ready h ht hb hin hal hl hw
    case mtileSt => exact tileIssue_ready h ht hb hin hal hl hw

end Sys2Proof.Claims

/-! PROOFS. What a home slice does with a request while no slice logs it (R188 to R193, R446, R447): it changes what slices,
channels and regions count, and the lines of L2, and no line of L2 comes to be in error. -/
namespace Sys2Proof.Machine

/-- The state without what home slices keep of the requests that they serve. -/
def State.sansSlices (s : State) : State := { s with slices := [], slovf := [], counts := [], tiers := [], repls := [], l2 := [] }
/-- No line of some lines of L2 is in error. -/
def goodLines (ls : List L2Line) : Bool := ls.all fun x => !x.bad
/-- No line of L2 is in error. -/
def State.l2Good (s : State) : Bool := s.l2.all fun e => goodLines e.2

theorem bad_of_goodLines {ls : List L2Line} {x : L2Line} (h : goodLines ls = true) (hx : x ∈ ls) : x.bad = false := by
  simpa using List.all_eq_true.1 h x hx
theorem goodLines_mono {ls ks : List L2Line} (h : goodLines ls = true) (hs : ∀ x ∈ ks, x ∈ ls) : goodLines ks = true :=
  List.all_eq_true.2 fun x hx => List.all_eq_true.1 h x (hs x hx)

theorem Tab.mem_of_find {α : Type} {t : Tab α} {k : Nat} {v : α} (h : Tab.find? t k = some v) : (k, v) ∈ t := by
  induction t with
  | nil => cases h
  | cons e t ih =>
    obtain ⟨j, w⟩ := e
    unfold Tab.find? at h
    split at h
    · next e => cases h; exact e ▸ List.mem_cons_self
    · exact List.mem_cons_of_mem _ (ih h)
theorem goodLines_l2At {s : State} (h : s.l2Good = true) (k : Nat) : goodLines (l2At s k) = true := by
  unfold l2At Tab.get
  cases hf : Tab.find? s.l2 k with
  | none => rfl
  | some ls => exact List.all_eq_true.1 h _ (Tab.mem_of_find hf)
theorem l2Good_setL2 {s : State} {ls : List L2Line} (k : Nat) (h : s.l2Good = true) (hl : goodLines ls = true) : (setL2 s k ls).l2Good = true := by
  unfold State.l2Good setL2 Tab.set
  split
  · exact Tab.all_del h
  · exact Tab.all_put h hl

/-- While no trace register is set, no slice logs anything (R447). -/
theorem logTrace_untraced {s : State} (h : s.traces = []) (gd sl : Nat) (x : Ask) (r : Nat) : logTrace s gd sl x r = s := by
  simp [logTrace, h, Tab.get, Tab.find?, bitOf]

/-- A state reached from another while slices serve requests. -/
structure Served (s t : State) : Prop where
  keeps : t.sansSlices = s.sansSlices
  good : t.l2Good = true

namespace Served
variable {s t : State}

theorem refl (h : s.l2Good = true) : Served s s := ⟨rfl, h⟩
theorem ite {c : Prop} [Decidable c] {a b : State} (ha : Served s a) (hb : Served s b) : Served s (if c then a else b) :=
  ite_state (Served s) ha hb

section
variable (h : Served s t)
include h

/-- What slices do not keep is as before. -/
theorem same {β : Type} {p : State → β} (hp : ∀ u, p u.sansSlices = p u) : p t = p s := by
  rw [← hp, h.keeps, hp]
theorem traces : t.traces = s.traces := h.same (p := State.traces) fun _ => rfl
theorem sliceEvent (gd sl i : Nat) : Served s (t.sliceEvent gd sl i) := ⟨h.keeps, h.good⟩
theorem setRepl (gd va : Nat) (x : Repl) : Served s (t.setRepl gd va x) := ⟨h.keeps, h.good⟩
theorem chanAccess (gd page : Nat) : Served s (chanAccess t gd page) := ite ⟨h.keeps, h.good⟩ ⟨h.keeps, h.good⟩
theorem setL2 {ls : List L2Line} (k : Nat) (hl : goodLines ls = true) : Served s (setL2 t k ls) := ⟨h.keeps, l2Good_setL2 k h.good hl⟩
theorem logTrace (ht : s.traces = []) (gd sl : Nat) (x : Ask) (r : Nat) : Served s (logTrace t gd sl x r) := by
  rwa [logTrace_untraced (h.traces.trans ht)]
theorem l2Gone {y : L2Line} (gd : Nat) (hy : y.bad = false) : Served s (l2Gone gd t y) := by
  unfold Machine.l2Gone
  rw [hy]
  exact ite h (h.chanAccess _ _)
theorem l2Place {x : L2Line} (gd sl va : Nat) (hx : x.bad = false) : Served s (l2Place t gd sl va x) := by
  unfold Machine.l2Place
  extract_lets k ls ls' all
  have hls : goodLines ls = true := goodLines_mono (goodLines_l2At h.good k) fun y hy => (List.mem_filter.1 hy).1
  have hls' : goodLines ls' = true := by
    refine goodLines_mono hls fun y hy => ?_
    unfold ls' at hy
    split at hy
    · exact List.mem_reverse.1 (List.mem_of_mem_eraseP (List.mem_reverse.1 hy))
    · exact hy
  have hall : goodLines all = true := by
    simpa [all, goodLines, hx] using hls'
  refine List.foldlRecOn _ _ (h.setL2 k (goodLines_mono hall fun y => List.mem_of_mem_take)) fun u hu y hy => ?_
  exact hu.l2Gone gd (bad_of_goodLines hall (List.mem_of_mem_drop hy))
theorem dropReplicas (ht : s.traces = []) (l : Loc) (asid va : Nat) : Served s (dropReplicas t l asid va) := by
  unfold Machine.dropReplicas
  extract_lets ks u
  have hu : Served s u := List.foldlRecOn _ _ h fun w hw k _ =>
    ((hw.setL2 k (goodLines_mono (goodLines_l2At hw.good k) fun y hy => (List.mem_filter.1 hy).1)).sliceEvent _ _ _).logTrace ht _ _ _ _
  exact ite hu (hu.setRepl _ _ _)
theorem homeAsk (ht : s.traces = []) (l : Loc) (q : Ask) (e d x : Bool) : Served s (homeAsk t l q e d x) := by
  unfold Machine.homeAsk
  refine ite h ?_
  extract_lets sl had s1 s2 r out s3 s4 line y y' s5
  have h1 : Served s s1 := h.sliceEvent _ _ _
  have h2 : Served s s2 := ite h1 (h1.chanAccess _ _)
  have h3 : Served s s3 := ite (ite (h2.setRepl _ _ _) h2) (ite (h2.setRepl _ _ _) h2)
  have h4 : Served s s4 := ite (h3.dropReplicas ht _ _ _) h3
  have hy : y.bad = false := by
    unfold y
    cases hh : had with
    | none => rfl
    | some z => exact bad_of_goodLines (goodLines_l2At h.good _) (List.mem_of_find?_eq_some hh)
  have hy' : y'.bad = false := by
    unfold y'
    split
    · exact hy
    · rfl
  exact ite (h.logTrace ht _ _ _ _) ((ite h4 (h4.l2Place _ _ _ hy')).logTrace ht _ _ _ _)
theorem loadAsk (ht : s.traces = []) (l : Loc) (q : Ask) (core : Nat) : Served s (loadAsk t l q core) := by
  unfold Machine.loadAsk
  split
  · exact (h.sliceEvent _ _ _).logTrace ht _ _ _ _
  · have ha := h.homeAsk ht l q false false false
    refine ite ha ?_
    split
    · exact ha
    · exact ((ha.l2Place _ _ _ rfl).sliceEvent _ _ _).logTrace ht _ _ _ _

end
end Served


/-! ### A line that is good and lies at its home alone (R187, R194, R434) -/

theorem homeWrite_device {s : State} {l : Loc} (hh : l.host = false) (ho : l.obs = false) (hl : lineLost s l.gd l.mkey = false)
    (k en : Nat) (bs : List Nat) : homeWrite s k l en bs = some { s with
      mem := setBytesEn s.mem l.mkey en bs, bad := Tab.set s.bad false (l.mkey / 64) false,
      stamps := Tab.set s.stamps 0 (l.mkey / 64) (stampOf s l.gd (slotFor l.leaf k)), dead := Tab.set s.dead false (pageKey l.gd l.page) false } := by
  simp [homeWrite, hh, ho, hl]
theorem homeRead_device {s : State} {l : Loc} (hh : l.host = false) (ho : l.obs = false) (hd : isDead s l.gd l.page = false)
    (hl : lineLost s l.gd l.mkey = false) (n : Nat) : homeRead s l n = some (getBytes s.mem l.mkey n) := by
  simp [homeRead, hh, ho, hd, hl]

/-- No core and no stash has a copy of a line, no slice logs requests, and no line is in error or under an erased key. -/
structure State.Bare (s : State) : Prop where
  l1 : s.l1 = []
  stash : s.stash = []
  traces : s.traces = []
  bad : s.bad = []
  stamps : s.stamps = []
  l2 : s.l2Good = true

namespace State.Bare
variable {s : State} (h : s.Bare)
include h

theorem lineLost (gd k : Nat) : lineLost s gd k = false := by
  have h2 : (s.l2.any fun e => e.2.any fun x => x.bad && !x.replica && x.mline == k / 64) = false := by
    refine List.any_eq_false.2 fun e he => Bool.eq_false_iff.1 (List.any_eq_false.2 fun x hx => ?_)
    simp [bad_of_goodLines (List.all_eq_true.1 h.l2 e he) hx]
  simp [Machine.lineLost, h.bad, h.stamps, h2, Tab.get, Tab.find?]
theorem served {t : State} (ht : Served s t) : t.Bare where
  l1 := (ht.same (p := State.l1) fun _ => rfl).trans h.l1
  stash := (ht.same (p := State.stash) fun _ => rfl).trans h.stash
  traces := ht.traces.trans h.traces
  bad := (ht.same (p := State.bad) fun _ => rfl).trans h.bad
  stamps := (ht.same (p := State.stamps) fun _ => rfl).trans h.stamps
  l2 := ht.good
theorem withSets (bs : Tab (List L1Blk)) : ({ s with l1sets := bs } : State).Bare := ⟨h.l1, h.stash, h.traces, h.bad, h.stamps, h.l2⟩

/-- Where L1 holds nothing there is nothing to write back. -/
theorem flushLine (ck asid va : Nat) : ∃ bs, flushLine s ck asid va = { s with l1sets := bs } := by
  have hdirty (la lo hi : Nat) : dirtyIn s ck asid la lo hi = [] := by simp [dirtyIn, l1Byte, h.l1, Tab.find?]
  have hback : backLine s ck asid va = s := by simp [backLine, backPart, hdirty]
  have hdrop : (Machine.flushLine s ck asid va).l1 = s.l1 := by simp [Machine.flushLine, hback, l1Drop, h.l1]
  refine ⟨(Machine.flushLine s ck asid va).l1sets, ?_⟩
  rw [← hdrop, Machine.flushLine, hback]
  rfl
theorem recallLine (asid la : Nat) (write : Bool) : recallLine s asid la write = s := by
  simp [Machine.recallLine, stashOf, h.stash]
/-- What an access does to other copies of its line before it is performed at the home: there are none. -/
theorem flushed (ck asid va la : Nat) (write : Bool) :
    ∃ bs, Machine.recallLine (Machine.flushLine s ck asid va) asid la write = { s with l1sets := bs } := by
  obtain ⟨bs, hf⟩ := h.flushLine ck asid va
  exact ⟨bs, by rw [hf, (h.withSets bs).recallLine]⟩

/-- A write at the home writes its enabled bytes. -/
theorem homePut {l : Loc} (hh : l.host = false) (ho : l.obs = false) (k : Nat) (q : Ask) (en : Nat) (bs : List Nat) :
    ∃ t, homePut s k l q en bs = some t ∧ t.mem = setBytesEn s.mem l.mkey en bs ∧ t.vregs = s.vregs := by
  have hask : Served s (homeAsk s l q true true false) := (Served.refl h.l2).homeAsk h.traces l q true true false
  have hput : Machine.homePut s k l q en bs = homeWrite (homeAsk s l q true true false) k l en bs := by
    simp [Machine.homePut, homeWrite_device hh ho (h.lineLost ..)]
  exact ⟨_, hput.trans (homeWrite_device hh ho ((h.served hask).lineLost ..) k en bs),
    congrArg (setBytesEn · _ _ _) (hask.same (p := State.mem) fun _ => rfl), hask.same (p := State.vregs) fun _ => rfl⟩

theorem performAcc_store {a : Acc} (hop : a.op = .store) (hh : a.loc.host = false) (ho : a.loc.obs = false) (held : Bool) :
    ∃ t, performAcc s a held = some (t, 0, 0) ∧ t.mem = setBytesEn s.mem a.loc.mkey a.enable (leBytes a.data a.width) ∧ t.vregs = s.vregs := by
  obtain ⟨bs, hf⟩ := h.flushed a.ck a.asid a.va (a.va - a.va % 64) true
  obtain ⟨t, hput, hmem, hregs⟩ := (h.withSets bs).homePut hh ho (kslotOf s a.ctx) (accAsk a held) a.enable (leBytes a.data a.width)
  refine ⟨t, ?_, hmem, hregs⟩
  simp only [performAcc, hop, hf, hput, Option.map_some]
theorem performAcc_load {a : Acc} (hl2 : s.l2 = []) (hop : a.op = .load) (hs : a.scope ≠ 0) (hh : a.loc.host = false) (ho : a.loc.obs = false)
    (hd : isDead s a.loc.gd a.loc.page = false) (held : Bool) :
    ∃ t, performAcc s a held = some (t, leValue (getBytes s.mem a.loc.mkey a.width), 0) ∧ t.mem = s.mem ∧ t.vregs = s.vregs := by
  obtain ⟨bs, hf⟩ := h.flushed a.ck a.asid a.va (a.va - a.va % 64) false
  have hb := h.withSets bs
  have hnear : isNear s a = false := by simp [isNear, hs]
  have hfind (gd sl asid va : Nat) (r : Bool) : l2Find s gd sl asid va r = none := by simp [l2Find, l2At, hl2, Tab.get, Tab.find?]
  have hbad : copyBad s a = false := by
    unfold copyBad
    split <;> simp [hnear, hfind]
  have hload := (Served.refl hb.l2).loadAsk hb.traces a.loc (accAsk a held) (coreOfCk a.ck)
  refine ⟨_, ?_, hload.same (p := State.mem) fun _ => rfl, hload.same (p := State.vregs) fun _ => rfl⟩
  have hread : homeRead { s with l1sets := bs } a.loc a.width = some (getBytes s.mem a.loc.mkey a.width) :=
    homeRead_device hh ho hd (hb.lineLost ..) _
  simp [performAcc, hop, hbad, homeLoad, hnear, hf, hread]
end State.Bare

/-! ### The bytes of a write -/

theorem getD_leBytes (x : Nat) {n i : Nat} (h : i < n) : (leBytes x n).getD i 0 = x / 256 ^ i % 256 := by
  induction n generalizing x i with
  | zero => omega
  | succ n ih =>
    cases i with
    | zero => simp [leBytes]
    | succ i => simpa [leBytes, Nat.div_div_eq_div_mul, Nat.pow_succ'] using ih (x / 256) (by omega)
theorem length_leBytes (x n : Nat) : (leBytes x n).length = n := by
  induction n generalizing x with
  | zero => rfl
  | succ n ih => simp [leBytes, ih]
theorem getByte_setBytesEn (m : List Host.Cell) (k en : Nat) (bs : List Nat) {i : Nat} (h : i < bs.length) :
    getByte (setBytesEn m k en bs) (k + i) = if bitOf en i then bs.getD i 0 % 256 else getByte m (k + i) := by
  induction bs generalizing m k en i with
  | nil => exact absurd h (Nat.not_lt_zero i)
  | cons b bs ih =>
    rw [setBytesEn]
    cases i with
    | zero =>
      rw [getByte_setBytesEn_other _ _ _ (by omega)]
      by_cases he : en % 2 = 1 <;> simp [bitOf, he, getByte_setByte]
    | succ i =>
      have hbit : bitOf (en / 2) i = bitOf en (i + 1) := by simp [bitOf, Nat.div_div_eq_div_mul, Nat.pow_succ']
      have hfirst : getByte (if en % 2 = 1 then setByte m k b else m) (k + 1 + i) = getByte m (k + 1 + i) := by
        split
        · exact getByte_setByte_other _ _ (by omega)
        · rfl
      rw [show k + (i + 1) = k + 1 + i by omega, ih _ _ _ (Nat.lt_of_succ_lt_succ h), hbit, hfirst, List.getD_cons_succ]

/-! ### The request -/

/-- A request that may be performed, outside L1 and to a good line, is performed at its home (R234). -/
theorem exec_remoteRequest_atHome {s t : State} {id v f : Nat} {a : Acc} (ha : Tab.find? s.accs id = some a) (hc : canPerform s id a = true)
    (hs : a.scope ≠ 0) (hl : lineLost s a.loc.gd a.loc.mkey = false) (hp : performAcc s a (wasHeld s id) = some (t, v, f)) :
    exec (.remoteRequest id) s = .next (leaveQueues { t with accs := Tab.put t.accs id { a with stage := .done, value := v, flags := f } } id) := by
  have hheld : chanHeld s a.loc a.asid a.va = false := by
    simp only [canPerform, Bool.and_eq_true, Bool.not_eq_true'] at hc
    obtain ⟨⟨⟨⟨-, hheld⟩, -⟩, -⟩, -⟩ := hc
    exact hheld
  have harr : arrives s id a = false := by simp [arrives, hheld]
  have hnear : isNear s a = false := by simp [isNear, hs]
  have hrun : wholeRun s a = [] := by simp [wholeRun, hl]
  simp [exec, execRemoteRequest, ha, harr, hc, hnear, hrun, hp]

/-- Settles O59: the request is performed at its home, where no other copy of the line stands, and changes beside the bytes of a
store only what slices keep. -/
theorem storesWriteTheirBytes : Obligations.StoresWriteTheirBytes := by
  unfold Obligations.StoresWriteTheirBytes
  intro s id a ha hc hl1 hl2 hst htr hbad hstamp hh ho hd hs
  have hb : s.Bare := ⟨hl1, hst, htr, hbad, hstamp, by simp [State.l2Good, hl2]⟩
  refine ⟨fun hop => ?store, fun hop => ?load⟩
  case store =>
    obtain ⟨t, hp, hmem, hregs⟩ := hb.performAcc_store hop hh ho (wasHeld s id)
    refine ⟨_, exec_remoteRequest_atHome ha hc hs (hb.lineLost ..) hp, fun i hi => ?enabled, fun k hk => ?other, hregs, ?acc⟩
    case enabled =>
      show getByte t.mem _ = _
      rw [hmem, getByte_setBytesEn _ _ _ _ (by simpa [length_leBytes] using hi), getD_leBytes _ hi, Nat.mod_mod]
    case other =>
      show getByte t.mem _ = _
      rw [hmem, getByte_setBytesEn_other _ _ _ (by rwa [length_leBytes])]
    case acc => simp [leaveQueues, Tab.find_put]
  case load =>
    obtain ⟨t, hp, hmem, hregs⟩ := hb.performAcc_load hl2 hop hs hh ho hd (wasHeld s id)
    refine ⟨_, exec_remoteRequest_atHome ha hc hs (hb.lineLost ..) hp, fun k => congrArg (getByte · k) hmem, hregs, ?_⟩
    simp [leaveQueues, Tab.find_put]
end Sys2Proof.Machine

/-! PROOFS. Collectives: completion, abort and contributions (R228, R229, R253, R264, R265). -/
namespace Sys2Proof.Machine

section
variable {s v t u : State} {comm : Nat}

/-- The buffers are read and written one member after another; then the elements are counted and every member completes. -/
theorem exec_collectiveComplete (hlive : collLive s (members s comm) (ranksOf s comm (members s comm)) = true)
    (hguard : collGuard s (members s comm) = none) (hrel : collRelease s (members s comm) = some v)
    (hcap : captureAll (ranksOf s comm (members s comm)).length (members s comm) v = (t, none))
    (hdel : deliverAll (members t comm) (members t comm) t = (u, none)) : exec (.collectiveComplete comm) s =
      .next ((members t comm).foldl (fun s m => completeCmd (collOrder s m.2) m.1 m.2 false)
        (((members t comm).map Prod.snd).foldl (countColl (members t comm)) u)) := by
  simp only [exec, execCollectiveComplete, hlive, hguard, hrel, hcap, hdel, Bool.not_true, Bool.false_eq_true, if_false]
theorem exec_collectiveAbort (hrel : collRelease s (aborting s comm) = some v) : exec (.collectiveAbort comm) s =
    .next ((aborting s comm).foldl (fun s m => completeCmd (failReport (collOrder s m.2) m.2 cCOLL_ABORTED) m.1 m.2 true) v) := by
  simp only [exec, execCollectiveAbort, hrel]

/-- A contribution that its command waits for: it runs, no buffer is read yet, and the source has one for the element. -/
structure Awaited (s : State) (id src elem : Nat) (c : Cmd) : Prop where
  live : collLive s (members s (commKey c)) (ranksOf s (commKey c) (members s (commKey c))) = true
  unread : ∀ m ∈ members s (commKey c), m.2.image = []
  oldest : (memberOf (members s (commKey c)) c.rank).map Prod.fst = some id
  inside : elem < recvCount c (ranksOf s (commKey c) (members s (commKey c))).length
  source : src ∈ sources c (ranksOf s (commKey c) (members s (commKey c))).length elem
  fresh : (src, elem) ∉ c.arrived

theorem exec_collectiveFlitArrival {id src elem : Nat} {c x : Cmd} {m : Nat × Cmd} (hc : Tab.find? s.cmds id = some c)
    (hl : cmdLive s id c = true) (hop : c.op.isColl = true) (hab : c.aborted = false) (him : c.image = []) (ha : Awaited s id src elem c)
    (hguard : collGuard s (members s (commKey c)) = none) (hrel : collRelease s (members s (commKey c)) = some v) (hne : c.a ≠ c.d)
    (hm : memberOf (members v (commKey c)) src = some m) (htake : takeElem v m (sendOff c elem) = .ok t)
    (hx : memberOf (members t (commKey c)) c.rank = some (id, x))
    (hw : writeRange t x.gd x.ck (x.asid t) (x.kslot t) (x.d + collWidth x * elem)
      (recvElem (members t (commKey c)) x elem (((x.arrived ++ [(src, elem)]).filter fun a => a.2 == elem).map Prod.fst)) x.who = (u, none)) :
    exec (.collectiveFlitArrival id src elem) s = .next (setCmd u id { x with arrived := x.arrived ++ [(src, elem)] }) := by
  have hunread : ((members s (commKey c)).any fun m => !m.2.image.isEmpty) = false :=
    List.any_eq_false.2 fun m hm => by simp [ha.unread m hm]
  refine (onCmd_of_live hc hl (by simp [hop, hab, him])).trans ?_
  rw [if_neg (by simp [-List.any_eq_true, ha.live, hunread, ha.oldest, ha.fresh, ha.source, ha.inside])]
  simp only [hguard, hrel, if_neg hne, hm, htake, hx, Option.map_some, Option.getD_some, hw]

end

/-- Settles O39: a collective that runs, meets no guard and has released what its members hold completes, aborts or takes a
contribution as its row says. -/
theorem collectiveEvents : Obligations.CollectiveEvents := by
  unfold Obligations.CollectiveEvents
  refine fun s comm => ⟨fun v t u => exec_collectiveComplete, fun v => exec_collectiveAbort, ?_⟩
  rintro id src elem c v t u m x hc hl hop hab him rfl hlive hims helem hsrc hid hnew hguard hrel hne hm htake hx arrived hw
  exact exec_collectiveFlitArrival hc hl hop hab him ⟨hlive, hims, hid, helem, hsrc, by simpa using hnew⟩ hguard hrel hne hm htake hx hw
end Sys2Proof.Machine

/-! PROOFS. The host over CXL (R235, R278 to R280) and the Ethernet ports (R23, R281); the last answer to the host stays while a
request is logged and while an error is reported. -/
namespace Sys2Proof.Machine

/-! ### The answer to the host -/

/-- Both branches leave the answer that stood. -/
theorem hostReply_ite {c : Prop} [Decidable c] {s a b : State} (ha : a.hostReply = s.hostReply) (hb : b.hostReply = s.hostReply) :
    (if c then a else b).hostReply = s.hostReply := ite_state (fun t => t.hostReply = s.hostReply) ha hb
theorem hostReply_obsWrite (s : State) (gd off v : Nat) : (obsWrite s gd off v).hostReply = s.hostReply := by
  unfold obsWrite
  extract_lets
  repeat' apply hostReply_ite
  all_goals rfl
theorem hostReply_homeWrite {s t : State} {k en : Nat} {l : Loc} {bs : List Nat} (h : homeWrite s k l en bs = some t) :
    t.hostReply = s.hostReply := by
  unfold homeWrite at h
  split at h
  · cases h; rfl
  · split at h
    · cases h; exact hostReply_obsWrite ..
    · extract_lets at h
      split at h
      · cases h
      · cases h; rfl
theorem hostReply_writeLine (s : State) (gd asid k va en : Nat) (bs : List Nat) : (writeLine s gd asid k va en bs).hostReply = s.hostReply := by
  unfold writeLine
  split
  · next l _ =>
    cases h : homeWrite s k l en bs with
    | none => rfl
    | some t => exact hostReply_homeWrite h
  · rfl
theorem hostReply_scanStop (s : State) (gd n : Nat) : (scanStop s gd n).hostReply = s.hostReply := by
  obtain ⟨ps, h⟩ := scanStop_frame s gd n
  rw [h]
theorem hostReply_logTrace (s : State) (gd sl : Nat) (x : Ask) (r : Nat) : (logTrace s gd sl x r).hostReply = s.hostReply := by
  unfold logTrace
  extract_lets k t c kind space full s1 p bytes s2
  have h1 : s1.hostReply = s.hostReply := hostReply_ite (hostReply_scanStop ..) rfl
  split
  · rfl
  · split
    · exact h1
    · have h2 : s2.hostReply = s1.hostReply := hostReply_writeLine ..
      exact h2.trans h1
theorem hostReply_chanAccess (s : State) (gd page : Nat) : (chanAccess s gd page).hostReply = s.hostReply := by
  unfold chanAccess; extract_lets; split <;> rfl
/-- A request of the host whose line is lost brings no line into L2; it is counted and logged. -/
theorem hostReply_homeAsk_lost (s : State) (l : Loc) (q : Ask) : (homeAsk s l q false false true).hostReply = s.hostReply := by
  unfold homeAsk
  refine hostReply_ite rfl ?_
  extract_lets sl had s1 s2 r out s3 s4 line y y' s5
  have h2 : s2.hostReply = s.hostReply := hostReply_ite rfl (hostReply_chanAccess ..)
  have h3 : s3.hostReply = s.hostReply := hostReply_ite (hostReply_ite h2 h2) (hostReply_ite h2 h2)
  exact hostReply_ite (hostReply_logTrace ..) ((hostReply_logTrace s5 ..).trans h3)
theorem hostReply_errReport (s : State) (gd unit cls idx loc ctx task site : Nat) :
    (errReport s gd unit cls idx loc ctx task site).hostReply = s.hostReply :=
  hostReply_ite (hostReply_scanStop ..) rfl
theorem hostReply_detect (s : State) (gd unit cls idx loc ctx task site : Nat) :
    (detect s gd unit cls idx loc ctx task site).hostReply = s.hostReply := by
  have hnote : (detect.note gd unit cls idx loc ctx task site s).hostReply = s.hostReply := hostReply_errReport ..
  unfold detect
  split
  · exact hostReply_ite rfl hnote
  · exact hnote
theorem hostReply_setLink (s : State) (gd port : Nat) (down : Bool) : (setLink s gd port down).hostReply = s.hostReply := by
  unfold setLink; extract_lets; split <;> rfl
theorem hostReply_setStation (s : State) (gd port : Nat) (down : Bool) : (setStation s gd port down).hostReply = s.hostReply := by
  unfold setStation; split <;> rfl
theorem hostReply_startTest (s : State) (gd unit idx loc : Nat) : (startTest s gd unit idx loc).hostReply = s.hostReply := by
  unfold startTest
  exact hostReply_ite rfl (hostReply_ite rfl (hostReply_ite (hostReply_setLink ..) (hostReply_ite (hostReply_setStation ..) rfl)))

/-! ### The host while its link is up -/

section
variable {s t : State} {ctx va pkg : Nat}

theorem exec_hostSnoop {hpa : Nat} (hup : (s.pkg pkg).cxlDown = false) (h : hpa < 2 ^ 56) : exec (.hostSnoop (pkg * 2 ^ 56 + hpa)) s =
    .next { s with hostReply := ((getBytes s.hostMem (hpa - hpa % 64) 64).map (BitVec.ofNat 8), false) } := by
  have hp : (pkg * 2 ^ 56 + hpa) / 2 ^ 56 = pkg := by omega
  have ha : (pkg * 2 ^ 56 + hpa) % 2 ^ 56 = hpa := by omega
  simp only [exec, execHostSnoop, hp, ha, hup, Bool.false_eq_true, if_false]
theorem exec_cxlLinkDown (hup : (s.pkg pkg).cxlDown = false) : exec (.cxlLinkDown pkg) s =
    .next (((s.ctxs.filter fun c => !c.2.words.isEmpty && !c.2.dead && c.2.kslot != 1 && ctxPkg s c.1 == pkg).map Prod.fst).foldl
      killContext (s.modPkg pkg fun p => { p with cxlDown := true })) := by
  simp only [exec, execCxlLinkDown, hup, Bool.false_eq_true, if_false]

theorem exec_doorbellWrite_doorbell {i : Nat} (hb : hasBar2 s ctx = true) (hi : i < 256) (w : BitVec 32) :
    exec (.doorbellWrite ctx i w) s = .next (doorbellAdd s ctx i (w.toNat % 16)) := by
  simp [exec, execDoorbellWrite, hb, hi]
theorem exec_doorbellWrite_dbstat (hb : hasBar2 s ctx = true) (w : BitVec 32) : exec (.doorbellWrite ctx 256 w) s =
    .next { s with ctxs := Tab.put s.ctxs ctx { s.ctxOf ctx with dbstat := (s.ctxOf ctx).dbstat &&& ~~~(w &&& 3#32) } } := by
  simp [exec, execDoorbellWrite, hb]

theorem exec_cxlMemRead_stray (hup : hostUp s ctx = true) (hl : sharedLoc s ctx (va - va % 64) = none) :
    exec (.cxlMemRead ctx va) s = .next (strayHost { s with hostReply := (zeros64, true) } ctx (va - va % 64)) := by
  simp [exec, execCxlMemRead, hup, hl]
theorem exec_cxlMemRead_shared {l : Loc} {bs : List Nat} (hup : hostUp s ctx = true) (hl : sharedLoc s ctx (va - va % 64) = some l)
    (hw : hostWaits s ctx (va - va % 64) l = false) (hr : homeRead s l 64 = some bs) : exec (.cxlMemRead ctx va) s =
      .next { homeAsk s l (hostAsk s ctx (va - va % 64) 64) false false false with hostReply := (bs.map (BitVec.ofNat 8), false) } := by
  simp [exec, execCxlMemRead, hup, hl, hw, hr]
/-- A line that can not be read is answered with poison, before it is reported and tested (R436). -/
theorem leads_cxlMemRead_lost {l : Loc} (hup : hostUp s ctx = true) (hl : sharedLoc s ctx (va - va % 64) = some l)
    (hw : hostWaits s ctx (va - va % 64) l = false) (hr : homeRead s l 64 = none) :
    Claims.leads (.cxlMemRead ctx va) s fun t => t.hostReply = (zeros64, true) := by
  simp only [Claims.leads, exec, execCxlMemRead, hup, hl, hw, hr, Bool.not_true, Bool.false_eq_true, if_false]
  exact ⟨_, rfl, by rw [hostReply_startTest, hostReply_detect, hostReply_homeAsk_lost]⟩

theorem exec_cxlMemWrite_stray (hup : hostUp s ctx = true) (hl : sharedLoc s ctx va = none) (bytes : List (BitVec 8)) :
    exec (.cxlMemWrite ctx va bytes) s = .next (strayHost s ctx va) := by
  simp [exec, execCxlMemWrite, hup, hl]
theorem exec_cxlMemWrite_shared {l : Loc} {bytes : List (BitVec 8)} (hup : hostUp s ctx = true) (hl : sharedLoc s ctx va = some l)
    (hw : hostWaits s ctx va l = false) (hp : homePut s 0 l (hostAsk s ctx va ((bytes.take (64 - va % 64)).map BitVec.toNat).length)
      (hostEnable s l ((bytes.take (64 - va % 64)).map BitVec.toNat).length) ((bytes.take (64 - va % 64)).map BitVec.toNat) = some t) :
    exec (.cxlMemWrite ctx va bytes) s = .next t := by
  simp only [exec, execCxlMemWrite, hup, hl, hw, hp, Bool.not_true, Bool.false_eq_true, if_false, Option.getD_some]

end

/-! ### Ethernet -/

section
variable {s t u v : State} {q : Nat} (hq : queueRuns s q = true)
include hq

theorem exec_ethCompletion_sent (hw : workWaits s q false ≠ 0) (hp : portServes s (s.queue q) = true)
    (hc : ethComplete (takeWork s q false) q 0 false = some t) : exec (.ethCompletion q) s = .next t := by
  simp [exec, execEthCompletion, hq, hw, hp, hc]
theorem exec_ethCompletion_barred (hw : workWaits s q false ≠ 0) (hp : portServes s (s.queue q) = false)
    (hc : ethComplete (takeWork (ethReport s (s.queue q)) q false) q 0x19 false = some t) : exec (.ethCompletion q) s = .next t := by
  simp [exec, execEthCompletion, hq, hw, hp, hc]
/-- Once every entry of both queues has completed, the queue pair is dead and its semaphore carries a fault. -/
theorem leads_ethRetryExhausted (hs : failAll q false (workWaits s q false) s = some t) (hr : failAll q true (workWaits t q true) t = some u) :
    Claims.leads (.ethRetryExhausted q) s fun v => (v.queue q).dead = true ∧ (v.sem (u.queue q).ck (u.queue q).semaphore).fault = true := by
  simp only [Claims.leads, exec, execEthRetryExhausted, hq, hs, hr, Option.bind_some, Bool.not_true, Bool.false_eq_true, if_false]
  refine ⟨_, rfl, ?dead, ?fault⟩
  case dead => exact congrArg Queue.dead (Tab.get_put_same ..)
  case fault => exact congrArg Sem.fault (sem_setSem_same ..)
theorem exec_ethFrameReceived {bytes : List (BitVec 8)} {e : List Nat} (hp : portServes s (s.queue q) = true) (hw : workWaits s q true ≠ 0)
    (hr : readRange s (s.queue q).gd ((s.queue q).gd * 17 + 16) (s.ctxOf (s.queue q).ctx).asid
      ((s.queue q).recvQ + 64 * (s.queue q).received) 64 = .ok (t, e))
    (hd : writeRange t (s.queue q).gd ((s.queue q).gd * 17 + 16) (s.ctxOf (s.queue q).ctx).asid (s.ctxOf (s.queue q).ctx).kslot
      (Config.ethAddr e) (bytes.map BitVec.toNat) = (u, none))
    (hc : ethComplete (takeWork u q true) q 0 false = some v) : exec (.ethFrameReceived q bytes) s = .next v := by
  simp [exec, execEthFrameReceived, hq, hp, hw, hr, hd, hc]

end

/-- Settles O44, row by row. -/
theorem hostAndEthernetEvents : Obligations.HostAndEthernetEvents := by
  unfold Obligations.HostAndEthernetEvents
  refine ⟨fun s ctx va pkg hpa w bytes => ⟨fun hup => ⟨exec_hostSnoop hup, exec_cxlLinkDown hup⟩,
    fun hb => ⟨fun i hi => exec_doorbellWrite_doorbell hb hi w, exec_doorbellWrite_dbstat hb w⟩, fun hup => ⟨?read, ?stray, ?write⟩⟩,
    fun s q bytes hq => ⟨fun t => exec_ethCompletion_sent hq, fun t => exec_ethCompletion_barred hq,
      fun t u => leads_ethRetryExhausted hq, fun t e u v => exec_ethFrameReceived hq⟩⟩
  case read =>
    exact ⟨fun hl => ⟨_, exec_cxlMemRead_stray hup hl, rfl, rfl⟩, fun l hl hw =>
      ⟨fun bs => exec_cxlMemRead_shared hup hl hw, leads_cxlMemRead_lost hup hl hw⟩⟩
  case stray => exact fun hl => ⟨exec_cxlMemWrite_stray hup hl bytes, rfl⟩
  case write => exact fun l t hl hw => exec_cxlMemWrite_shared hup hl hw
end Sys2Proof.Machine

/-! PROOFS. Global accesses as they leave the core (R238 to R241, R243, R244, R249, R288): the check that they share, then one
lemma for each shape of access, with what it captures. -/
namespace Sys2Proof.Claims
open Sys2Proof Sys2Proof.Machine

/-! ### Alignment and place (R239, R254) -/

@[simp] theorem alignTrap_eq_none {b : Bool} {va : Nat} : alignTrap b va = none ↔ b = false := by
  cases b <;> simp [alignTrap]
@[simp] theorem protTrap_eq_none {b : Bool} {va : Nat} : protTrap b va = none ↔ b = false := by
  cases b <;> simp [protTrap]
theorem firstTrap_eq_none {ts : List (Option Trap)} : firstTrap ts = none ↔ ∀ t ∈ ts, t = none := by
  induction ts with
  | nil => simp
  | cons t ts ih => cases t <;> simp [firstTrap, ih]
theorem vaTrap_eq_none {va w : Nat} : vaTrap va w = none ↔ va % w = 0 ∧ va < 2 ^ 56 := by
  simp [vaTrap, firstTrap_eq_none, outside]

/-! ### Reads of `begun` -/

@[simp] theorem offOf_begun (s : State) (n l : Nat) (b : Code) : offOf (begun s n) l b = offOf s l b := by
  rw [offOf, rdA_begun, ← offOf]
@[simp] theorem globalVa_begun (s : State) (n l : Nat) (a : Code) (off : Int) : globalVa (begun s n) l a off = globalVa s l a off := by
  rw [globalVa, rdP_begun, ← globalVa]
@[simp] theorem runValue_begun (s : State) (n l : Nat) (c : Code) (k : Nat) : runValue (begun s n) l c k = runValue s l c k := by
  simp only [runValue, cur_begun, rd_begun]
@[simp] theorem isWide_begun (s : State) (n l : Nat) : isWide (begun s n) l = isWide s l := by
  rw [isWide, laneType_begun, ← isWide]
@[simp] theorem atomWidth_begun (s : State) (n l : Nat) : atomWidth (begun s n) l = atomWidth s l := by
  rw [atomWidth, isWide_begun, ← atomWidth]
@[simp] theorem typedVal_begun (s : State) (n l : Nat) (c : Code) : typedVal (begun s n) l c = typedVal s l c := by
  simp only [typedVal, isWide_begun, rdP_begun, rdA_begun]
@[simp] theorem typedCodes_begun (s : State) (n l : Nat) (d : Code) : typedCodes (begun s n) l d = typedCodes s l d := by
  rw [typedCodes, isWide_begun, ← typedCodes]

/-! ### The shapes of accesses -/

/-- The addresses of the issuing lanes are aligned and lie in some address space (R239). -/
def Accessible (s : State) (va w : Nat → Nat) : Prop := ∀ l ∈ lanes s, va l % w l = 0 ∧ va l < 2 ^ 56
/-- The state in which the issuing lanes have entered the given accesses and are held (R288). -/
def accsLeft (i : Instr) (s : State) (f : Nat → Acc) : State := enterAccs (sending i s 1) (issuing s) 1 f

section
variable {i : Instr} {d a b : Code} {s : State} {w : Nat} {f : Nat → Acc}

/-- Accesses of any TYPE (R240, R249) or of the listed ones (R92, R243). -/
theorem accOp_ready {types : List Nat} {tys : Option (List Nat)} {va wd : State → Nat → Nat} {acc : State → Nat → Acc}
    (ht : tys = none ∨ tys = some types ∧ types ≠ []) (hv : Accessible s (va s) (wd s)) (hf : ∀ l, acc (begun s 1) l = f l)
    (h : ready i types s = true) : accOp (memRule i tys) s va wd acc = .next (accsLeft i s f) := by
  have hn : causesOf s { memRule i tys with own := fun s _ l => vaTrap (va s l) (wd s l) } (issuing s) = [] ∧ issuing s ≠ 0 :=
    noCause_of_ready h rfl ht nofun nofun rfl nofun nofun rfl fun l hl => vaTrap_eq_none.2 (hv l hl)
  rw [accsLeft, ← funext hf]
  exact congrArg Host.Outcome.next (issueRaw_of_noCause hn)

/-- Loads (R240). -/
theorem leLoad_ready (acq : Bool) (cs : List Nat) (hv : Accessible s (fun l => globalVa s l a (offOf s l b)) fun _ => w)
    (h : ready i [] s = true) : leLoad s i a b w acq cs = .next (accsLeft i s fun l =>
      { baseAcc (begun s 1) l .load (globalVa s l a (offOf s l b)) w with acq := acq, dst := liveCodes cs }) :=
  accOp_ready (.inl rfl) hv (fun l => by simp only [globalVa_begun, offOf_begun]) h
/-- Stores, whose data and byte enable are read as they issue (R240, R241). -/
theorem leStore_ready (rel : Bool) {en data : State → Nat → Nat} (he : ∀ l, en (begun s 1) l = en s l)
    (hd : ∀ l, data (begun s 1) l = data s l) (hv : Accessible s (fun l => globalVa s l d (offOf s l b)) fun _ => w)
    (h : ready i [] s = true) : leStore s i d b w rel en data = .next (accsLeft i s fun l =>
      { baseAcc (begun s 1) l .store (globalVa s l d (offOf s l b)) w with rel := rel, enable := en s l, data := data s l, ret := false }) :=
  accOp_ready (.inl rfl) hv (fun l => by simp only [globalVa_begun, offOf_begun, he, hd]) h
/-- Atomics of one operand that return the old value (R243). -/
theorem atomOp_ready (op : AccOp) (hv : Accessible s (fun l => globalVa s l a 0) (atomWidth s)) (h : ready i [0, 1, 6, 7] s = true) :
    atomOp i op d a b s = .next (accsLeft i s fun l =>
      atomAcc (begun s 1) l op (globalVa s l a 0) (atomWidth s l) (typedVal s l b) 0 (typedCodes s l d)) :=
  accOp_ready (.inr ⟨rfl, List.cons_ne_nil _ _⟩) hv (fun l => by simp only [globalVa_begun, atomWidth_begun, typedVal_begun, typedCodes_begun]) h

end

/-- Settles O21: loads, stores and atomics by their shape; MDEAD, ATOM.CAS, RED.ADD and ATOM.FADD from the accesses that their
lanes enter. -/
theorem accessesLeaveTheCore : Obligations.AccessesLeaveTheCore := by
  unfold Obligations.AccessesLeaveTheCore
  refine ⟨fun s d a b => ?_, fun s d a b => ?_⟩
  · intro t enter fine src dst load store en
    refine ⟨fun hv => ⟨leLoad_ready false _ hv, leLoad_ready true _ hv⟩, leLoad_ready false _, leLoad_ready false _,
      fun hv => ⟨?st, ?stRel⟩, ?stX2, ?stX4, ?mdead⟩
    case st => exact leStore_ready false (fun l => by rw [laneK_begun]) (fun l => by rw [rdA_begun]) hv
    case stRel => exact leStore_ready true (fun l => by rw [laneK_begun]) (fun l => by rw [rdA_begun]) hv
    case stX2 => exact leStore_ready false (fun _ => rfl) fun l => by rw [rdP_begun]
    case stX4 => exact leStore_ready false (fun _ => rfl) fun l => by rw [runValue_begun]
    case mdead => exact fun hv => accOp_ready (.inl rfl) hv fun l => by rw [globalVa_begun]
  · intro t enter va fine w acc
    refine ⟨fun hv => ⟨?atoms, ?cas, ?red⟩, ?fadd⟩
    case atoms =>
      simp only [List.forall_mem_cons]
      exact ⟨atomOp_ready .add hv, atomOp_ready .imin hv, atomOp_ready .imax hv, atomOp_ready .band hv, atomOp_ready .bor hv,
        atomOp_ready .bxor hv, atomOp_ready .xchg hv, nofun⟩
    case cas =>
      exact accOp_ready (.inr ⟨rfl, List.cons_ne_nil _ _⟩) hv fun l => by
        simp only [isWide_begun, runValue_begun, rdP_begun, atomWidth_begun, globalVa_begun, typedCodes_begun]; rfl
    case red =>
      exact accOp_ready (.inr ⟨rfl, List.cons_ne_nil _ _⟩) hv fun l => by simp only [laneType_begun, globalVa_begun, atomWidth_begun, typedVal_begun]; rfl
    case fadd => exact fun hv => accOp_ready (.inr ⟨rfl, List.cons_ne_nil _ _⟩) hv fun l => by simp only [globalVa_begun, rdA_begun]; rfl

end Sys2Proof.Claims

/-! PROOFS. Movers, PUT, GET and remote atomics as they issue (R251, R252, R254 to R257): a group command that meets none of its
checks is entered with the operands that it captures. -/
namespace Sys2Proof.Claims
open Sys2Proof Sys2Proof.Machine

/-- The state in which a group command of the issuing lanes has been entered (R38, R251). -/
def posted (i : Instr) (op : CmdOp) (w : BitVec 32) (s : State) (f : Cmd → Cmd) : State :=
  past 2 s (postCmd (popAll (begun s 2) i) (f (baseCmd (begun s 2) (issuing s) op w)))

/-! ### The checks of a group command -/

section
variable {i : Instr} {op : CmdOp} {d a b : Code} {w : BitVec 32} {s : State}

theorem groupCmd_ready {cause : State → Mask → Option Trap} {reserved : State → Mask → Bool} {fill : State → Mask → Cmd → Cmd} {f : Cmd → Cmd}
    (hc : cause s (issuing s) = none) (hr : reserved s (issuing s) = false) (hf : ∀ c, fill (begun s 2) (issuing s) c = f c)
    (hw : syncFine s .command w 1 = true) (h : ready i [] s = true) :
    groupCmd { instr := i, words := 2, all := cause, reserved := reserved } op w s fill = .next (posted i op w s f) := by
  rw [posted, ← hf]
  exact issue_of_noCause (noCause_of_ready h rfl (.inl rfl) nofun (by rintro k v ⟨⟩; exact hw) hr nofun (fun _ => ⟨rfl, rfl⟩) hc fun _ _ => rfl)

/-! ### Copies (R254, R256) -/

/-- Two ranges that a copy may name, wherever they are homed (R254). -/
structure CopyRanges (s : State) (x y n : Nat) : Prop where
  words : n % 4 = 0
  least : 4 ≤ n
  most : n ≤ 2 ^ 30
  destAligned : x % 4 = 0
  srcAligned : y % 4 = 0
  destInside : x + n ≤ 2 ^ 56
  srcInside : y + n ≤ 2 ^ 56
  apart : (issueHomed s x n && issueHomed s y n && overlap x n y n) = false

theorem CopyRanges.copyTraps_none {x y n : Nat} (h : CopyRanges s x y n) : ∀ t ∈ copyTraps x y n, t = none := by
  simp only [copyTraps, List.forall_mem_cons, alignTrap_eq_none, protTrap_eq_none, bne_eq_false_iff_eq, Bool.or_eq_false_iff,
    decide_eq_false_iff_not, Nat.not_lt, pastEnd]
  exact ⟨h.words, h.destAligned, h.srcAligned, ⟨h.least, h.most⟩, h.destInside, h.srcInside, nofun⟩
theorem CopyRanges.copyAlias_none {x y n : Nat} (h : CopyRanges s x y n) :
    (if issueHomed s x n && issueHomed s y n then copyAlias s x y n else none) = none := by
  have hapart := h.apart
  split
  next hh => rw [copyAlias, if_neg (by simpa [hh] using hapart)]
  next => rfl

/-- The operands of a copy, read by the lowest issuing lane (R251, R254). -/
def copyFill (d a b : Code) (s : State) (m : Mask) (c : Cmd) : Cmd := { c with d := lamPair s m d, a := lamPair s m a, b := lamReg s m b }
theorem copyFill_begun (k : Nat) (m : Mask) (c : Cmd) : copyFill d a b (begun s k) m c = copyFill d a b s m c := by
  simp only [copyFill, lamPair, lamReg, rdP_begun, rdA_begun]
/-- A copy whose ranges are homed in the package where it needs them there. -/
theorem copyCmd_ready {dHome aHome : Bool} (hw : syncFine s .command w 1 = true)
    (hv : CopyRanges s (lamPair s (issuing s) d) (lamPair s (issuing s) a) (lamReg s (issuing s) b))
    (hd : dHome = true → issueHomed s (lamPair s (issuing s) d) (lamReg s (issuing s) b) = true)
    (ha : aHome = true → issueHomed s (lamPair s (issuing s) a) (lamReg s (issuing s) b) = true)
    (h : ready i [] s = true) : copyCmd i op d a b dHome aHome w s = .next (posted i op w s (copyFill d a b s (issuing s))) := by
  refine groupCmd_ready (fill := copyFill d a b) (firstTrap_eq_none.2 ?_) rfl (copyFill_begun 2 _) hw h
  simp only [List.forall_mem_append, List.forall_mem_cons, protTrap_eq_none, Bool.and_eq_false_imp, Bool.not_eq_false']
  exact ⟨hv.copyTraps_none, hd, ha, hv.copyAlias_none, nofun⟩

/-! ### One element for each lane (R255, R257) -/

/-- The elements of a gather or scatter of n bytes: a range from x with one for each lane, and each lane's own (R255). -/
structure ElementRanges (s : State) (x n : Nat) (per : Code) : Prop where
  words : n % 4 = 0
  least : 4 ≤ n
  most : n ≤ 256
  aligned : x % 4 = 0
  eachAligned : ∀ l ∈ lanes s, rdP s l per % 4 = 0
  inside : ∀ l ∈ lanes s, x + l * n + n ≤ 2 ^ 56
  eachInside : ∀ l ∈ lanes s, rdP s l per + n ≤ 2 ^ 56
  homed : ∀ l ∈ lanes s, issueHomed s (x + l * n) n = true
  eachHomed : ∀ l ∈ lanes s, issueHomed s (rdP s l per) n = true

/-- The operands of a gather or scatter (R251, R255). -/
def elementFill (base per b : Code) (s : State) (m : Mask) (c : Cmd) : Cmd :=
  { c with d := lamPair s m base, b := lamReg s m b, lanes := (lanesIn m).map fun l => { lane := l, x := rdP s l per } }
theorem elementFill_begun {base per : Code} (k : Nat) (m : Mask) (c : Cmd) :
    elementFill base per b (begun s k) m c = elementFill base per b s m c := by
  simp only [elementFill, lamPair, lamReg, rdP_begun, rdA_begun]
/-- Gathers and scatters. -/
theorem elementCmd_ready {base per : Code} (hw : syncFine s .command w 1 = true)
    (hv : ElementRanges s (lamPair s (issuing s) base) (lamReg s (issuing s) b) per) (h : ready i [] s = true) :
    elementCmd i op base per b w s = .next (posted i op w s (elementFill base per b s (issuing s))) := by
  refine groupCmd_ready (fill := elementFill base per b) (firstTrap_eq_none.2 ?_) rfl (elementFill_begun 2 _) hw h
  simp only [List.forall_mem_append, List.forall_mem_cons, List.forall_mem_map, alignTrap_eq_none, protTrap_eq_none, List.any_eq_false,
    pastEnd, Bool.not_eq_true, Bool.not_eq_false', bne_eq_false_iff_eq, Bool.or_eq_false_iff, decide_eq_false_iff_not, Nat.not_lt]
  exact ⟨⟨⟨⟨⟨⟨hv.words, hv.aligned, nofun⟩, hv.eachAligned⟩, ⟨hv.least, hv.most⟩, hv.inside, nofun⟩, hv.eachInside⟩, hv.homed, nofun⟩, hv.eachHomed⟩

/-- The operands of a remote atomic of each lane (R257). -/
def ratomFill (d a b : Code) (s : State) (m : Mask) (c : Cmd) : Cmd :=
  { c with d := d.toNat, dst := [(d.toNat, 2)],
           lanes := (lanesIn m).map fun l => { lane := l, x := rdP s l a, y := rdP s l b % 2 ^ 32, z := rdP s l b / 2 ^ 32 } }
theorem ratomFill_begun (k : Nat) (m : Mask) (c : Cmd) : ratomFill d a b (begun s k) m c = ratomFill d a b s m c := by
  simp only [ratomFill, rdP_begun]
theorem exec_ratom (hw : syncFine s .command w 1 = true) (hk : laneK s (lam (issuing s)) < 8)
    (hv : ∀ l ∈ lanes s, rdP s l a % 4 = 0 ∧ rdP s l a < 2 ^ 56) (h : ready (.ratom d a b w) [] s = true) :
    exec (.ratom d a b w) s = .next (posted (.ratom d a b w) .ratom w s (ratomFill d a b s (issuing s))) := by
  refine groupCmd_ready (fill := ratomFill d a b) (firstTrap_eq_none.2 ?_) (decide_eq_false (Nat.not_le.2 hk)) (ratomFill_begun 2 _) hw h
  simp only [List.forall_mem_append, List.forall_mem_map, alignTrap_eq_none, protTrap_eq_none, bne_eq_false_iff_eq, outside,
    decide_eq_false_iff_not, Nat.not_le]
  exact ⟨fun l hl => (hv l hl).1, fun l hl => (hv l hl).2⟩

end

/-- Settles O24: copies and element moves by their shape, RATOM by its own checks; each becomes the command that captures its operands. -/
theorem moverCommandsIssue : Obligations.MoverCommandsIssue := by
  unfold Obligations.MoverCommandsIssue
  intro s d a b w t lo x y n cmd copy elems each hw
  have elements {base per : Code} (he : elems base per) : ElementRanges s (rdP s lo base) n per := by
    obtain ⟨hwords, hleast, hmost, haligned, heach⟩ := he
    simp only [imp_and, forall_and] at heach
    obtain ⟨hper, hend, hperEnd, hhome, hperHome⟩ := heach
    exact ⟨hwords, hleast, hmost, haligned, hper, hend, hperEnd, hhome, hperHome⟩
  refine ⟨fun hn hn4 hn30 hx hy hxe hye hap => ?copies, fun h he => elementCmd_ready hw (elements he) h,
    fun h he => elementCmd_ready hw (elements he) h, fun h hk hv => exec_ratom hw hk hv h⟩
  have hv : CopyRanges s x y n := ⟨hn, hn4, hn30, hx, hy, hxe, hye, hap⟩
  exact ⟨fun h hd ha => copyCmd_ready hw hv (fun _ => hd) (fun _ => ha) h, fun h ha => copyCmd_ready hw hv nofun (fun _ => ha) h,
    fun h hd => copyCmd_ready hw hv (fun _ => hd) nofun h⟩

end Sys2Proof.Claims

/-! PROOFS. Accesses that fail (R242, R245, R272, R276, R277, R434, R481): the failure is kept with its lane or aborts the task; a
flit that a guard drops changes its access and the die that reports it. -/
namespace Sys2Proof.Machine

/-! ### The failure of an access -/

/-- The state in which an access has left and its failure is kept with its lane until it is delivered (R242, R481). -/
def keepFailure (s : State) (id : Nat) (a : Acc) (cause : Nat) : State :=
  (dropAcc s id).modLane a.g a.lane fun y => { y with failed := y.failed ++
    [{ acc := id, cause := cause, va := a.va, regs := if a.ret then a.dst else [], read := a.op.isLoad || (a.op.isAtomic && a.ret) }] }

section
variable {s : State} {id cause : Nat} {p : Bool} {a : Acc}

theorem groups_dropAcc : (dropAcc s id).groups = s.groups := rfl
theorem failAcc_kept (hg : Tab.has s.groups a.g = true) (hc : cause ≠ cDATA_LOST) : failAcc s id a cause = keepFailure s id a cause := by
  simp only [failAcc, groups_dropAcc, hg, Bool.not_true, Bool.false_eq_true, if_false, if_neg hc, keepFailure]
theorem failAcc_dataLost (hg : Tab.has s.groups a.g = true) : failAcc s id a cDATA_LOST = (dropAcc s id).abort a.task a.va a.site := by
  simp only [failAcc, groups_dropAcc, hg, Bool.not_true, Bool.false_eq_true, if_false, if_true]

/-! ### Answers -/

variable (ha : Tab.find? s.accs id = some a) (hg : accGated s a.g = false)
include ha hg

theorem exec_accessFailureReturn_failed {c : Nat} (h : a.stage = .failed c) :
    exec (.accessFailureReturn id cause p) s = .next (failAcc s id a c) := by
  simp only [exec, execAccessFailureReturn, ha, hg, h, Bool.false_eq_true, if_false]
/-- A request on its way to a peer that is lost (R276). -/
theorem exec_accessFailureReturn_peerLost (h : a.stage = .going) :
    exec (.accessFailureReturn id cPEER_LOST p) s = .next (failAcc s id a cPEER_LOST) := by
  have hne : cPEER_LOST ≠ cINDETERMINATE := by decide
  simp [exec, execAccessFailureReturn, ha, hg, h, hne]
/-- An atomic that was sent to a peer that is lost, and was not performed (R245). -/
theorem exec_accessFailureReturn_indeterminate (h : a.stage = .going) (hat : a.op.isAtomic = true) (hs : a.sent = true)
    (hh : hostLost s a = false) : exec (.accessFailureReturn id cINDETERMINATE false) s = .next (failAcc s id a cINDETERMINATE) := by
  simp [exec, execAccessFailureReturn, ha, hg, h, hat, hs, hh]
theorem exec_lateAnswer (hl : answerLate s a = true) : exec (.lateAnswer id) s = .next (failAcc s id a (lossCause s a)) := by
  simp only [exec, execLateAnswer, ha, hl, hg, Bool.not_false, Bool.and_self, if_true]

end

theorem lossCause_peerLost {s : State} {a : Acc} (h : a.op.isAtomic = false ∨ a.sent = false ∨ hostLost s a = true) :
    lossCause s a = cPEER_LOST := by
  rcases h with h | h | h <;> simp [lossCause, h]
theorem lossCause_indeterminate {s : State} {a : Acc} (hat : a.op.isAtomic = true) (hs : a.sent = true) (hh : hostLost s a = false) :
    lossCause s a = cINDETERMINATE := by
  simp [lossCause, hat, hs, hh]

/-! ### Guards (R272, R273) -/

/-- A report leaves the accesses as they were. -/
theorem accs_guardReport (s : State) (src dst : Nat) (cls : Traffic) (ctx addr site : Nat) :
    (guardReport s src dst cls ctx addr site).accs = s.accs := by
  unfold guardReport
  split <;> rfl

section
variable {s : State} {id port : Nat} {a : Acc} (ha : Tab.find? s.accs id = some a)
include ha

/-- A request that is still on its way is no answer. -/
theorem exec_guardDrop_request (h : a.stage = .going) (hs : stewardAsid s a.asid = false)
    (hd : (firstDrop s (gdOf a.g) a.home).map (fun d => d.2.1) = some port) : exec (.guardDrop id port) s =
      .next { guardReport s (gdOf a.g) a.home .req a.ctx a.va a.site with
        accs := Tab.put s.accs id { a with stage := .failed cPROTECTION } } := by
  have hno : answerDropped s a = false := by simp [answerDropped, h]
  simp [exec, execGuardDrop, ha, hno, h, hs, hd, accs_guardReport]
theorem exec_guardDrop_answer (h : answerDropped s a = true)
    (hd : (firstDrop s a.home (gdOf a.g)).map (fun d => d.2.1) = some port) : exec (.guardDrop id port) s =
      .next { guardReport s a.home (gdOf a.g) .rsp a.ctx a.va a.site with
        accs := Tab.put s.accs id { a with stage := .going, leaf := 0 } } := by
  simp only [exec, execGuardDrop, ha, h, hd, and_self, if_true]

end

/-- Settles O34: an answer carries its failure to the lane, which keeps it unless it is DATA_LOST; a guard's drop is its row. -/
theorem accessFailureEvents : Obligations.AccessFailureEvents := by
  unfold Obligations.AccessFailureEvents
  intro s id port cause p a ha kept
  have keep {c : Nat} (hg : Tab.has s.groups a.g = true) (hc : c ≠ cDATA_LOST) : Host.Outcome.next (failAcc s id a c) = kept c :=
    congrArg Host.Outcome.next (failAcc_kept hg hc)
  refine ⟨fun hrun hg => ⟨fun c h hc => ?failed, fun h => ?dataLost, fun h _ => ?peerLost, fun h hat hs hh => ?indeterminate,
    fun hl => ⟨fun h => ?late, fun hat hs hh => ?lateAtomic⟩⟩, exec_guardDrop_request ha, exec_guardDrop_answer ha⟩
  case failed => rw [exec_accessFailureReturn_failed ha hrun h, keep hg hc]
  case dataLost => rw [exec_accessFailureReturn_failed ha hrun h, failAcc_dataLost hg]
  case peerLost => rw [exec_accessFailureReturn_peerLost ha hrun h, keep hg (by decide)]
  case indeterminate => rw [exec_accessFailureReturn_indeterminate ha hrun h hat hs hh, keep hg (by decide)]
  case late => rw [exec_lateAnswer ha hrun hl, lossCause_peerLost h, keep hg (by decide)]
  case lateAtomic => rw [exec_lateAnswer ha hrun hl, lossCause_indeterminate hat hs hh, keep hg (by decide)]

end Sys2Proof.Machine
